-- ==== Sys2Proof/Word.lean ====
section
/-!
DEFINITION. The word types of the GZ-7140 and their plainest arithmetic.
-/
namespace Sys2Proof

/-- Eight bits. -/
abbrev Byte := BitVec 8
/-- Sixteen bits. -/
abbrev Half := BitVec 16
/-- One instruction word, one lane, one predicate (R49, R61). -/
abbrev Word := BitVec 32
/-- One scalar register, one virtual address (R61, R113). -/
abbrev DWord := BitVec 64

/-- The signed value of an immediate or a word. -/
abbrev sval {n : Nat} (x : BitVec n) : Int := x.toInt

end Sys2Proof
end

