-- ==== Sys2Proof/Types.lean ====
section
/-!
DEFINITION. The small data types that operands of instructions and events are made of.
-/
namespace Sys2Proof

/-- The format tags of R24. In a `pl` tag, `planes` is the plane count (2 to 8) and `hadamard` marks the H domain. -/
inductive Tag where
  | raw | i32 | n32 | i16 | n16 | i8 | n8
  | f32 | f16 | bf16 | e4m3 | e5m2
  | pl (hadamard : Bool) (planes : Nat)
  deriving DecidableEq, Repr

/-- The memory scopes of R12, in code order 0 to 7. -/
inductive Scope where
  | strand | team | cluster | die | pkg | hop1 | hop2 | hop3
  deriving DecidableEq, Repr

/-- The ordering kinds of FENCE (R52, R217). -/
inductive FenceKind where
  | acq | rel | acqrel
  deriving DecidableEq, Repr

/-- The barrier levels of R52. -/
inductive BarLevel where
  | team | gang | range | launch
  deriving DecidableEq, Repr

/-- The flip scopes of R52 and R129. -/
inductive FlipScope where
  | strand | team | imem | segment
  deriving DecidableEq, Repr

/-- Why the decoder refuses bytes: R54 (unassigned opcode), R57 step 2 (a field or immediate), fewer than four bytes. -/
inductive DecodeError where
  | truncated | unassigned | badField
  deriving DecidableEq, Repr

/-- The update an atomic or reduction performs on a word (R223). -/
inductive AtomicOp where
  | add | min | max | and | or | xor | xch | cas | fadd
  deriving DecidableEq, Repr

/-- What a peer asks of a home (R325). -/
inductive PeerOp where
  | read
  | store
  | atomic (op : AtomicOp) (tag : Tag)
  /-- R226: a reduction, which returns nothing. -/
  | reduce (floating : Bool)
  /-- R255: an 8-byte addition, its value in the two words of the mask. -/
  | signal
  /-- R227: whether an atomic may be performed on the words of the mask: nothing is performed (log 15). -/
  | check
  deriving DecidableEq, Repr

/-- A request header flit with its data flits (R325): one 128-byte line; `mask` has one bit a byte. `words` holds one word a 4-byte word of
the line; for an atomic or a reduction `words` and `expected` hold an operand each, `places` the word of the line each one names, in lane
order. `poison` marks the 32-byte sectors of a store whose data is poisoned. -/
structure PeerReq where
  src : Nat
  tag : Nat
  asid : Nat
  secure : Bool
  op : PeerOp
  scope : Scope
  line : Nat
  mask : BitVec 128
  words : List Word
  expected : List Word
  places : List Nat
  poison : BitVec 4
  deriving DecidableEq, Repr

/-- How a peer request ended (R325). -/
inductive PeerStatus where
  | ok | translation | permission | uncorrectable
  deriving DecidableEq, Repr

/-- A response to a request of this device (R325): `mask` marks the bytes of the line that it delivers; an atomic's `words` are what its
operands found, in the request's order. -/
structure PeerResp where
  tag : Nat
  status : PeerStatus
  mask : BitVec 128
  words : List Word
  deriving DecidableEq, Repr

/-- A signed configuration image in a flash slot (R312): whether its signature verifies, its version, and what it
carries. `partitions` are PCFG values (R295); `hallGroup` and `hallPort` are the multicast group and the UDP port of cap messages (R309); `firmware` holds the firmware and the management network settings. -/
structure Image where
  verifies : Bool
  version : Nat
  firmware : List DWord
  partitions : List DWord
  pcaps : List Nat
  ranks : List Nat
  modlim : Nat
  hallId : Nat
  hallKey : Nat
  hallGroup : Nat
  hallPort : Nat
  timeSource : Nat
  deriving DecidableEq, Repr

/-- Frames that arrive at the management port and are no hall or 1588 message (R321). -/
inductive FrameKind where
  | arp | neighbourDiscovery | other
  deriving DecidableEq, Repr

/-- Where a host function's access goes (R316): an offset of BAR0, or of BAR2, which is a physical address. -/
inductive HostAddr where
  | bar0 (off : Nat)
  | bar2 (pa : Nat)
  deriving DecidableEq, Repr

/-- The offset of an access in its BAR. -/
def HostAddr.offset : HostAddr → Nat
  | .bar0 off => off
  | .bar2 pa => pa

/-- What the host asks by SPDM (R319, R320): a measurement block (0: their number), signed or not; certificate slot 0's chain; proof that the
device holds its key; keys set for a function's IDE stream, or the stream stopped. -/
inductive SpdmAsk where
  | measurement (index : Nat) (signed : Bool)
  | certificate
  | challenge (nonce : List Byte)
  | ideStart (fn : Nat)
  | ideStop (fn : Nat)
  deriving DecidableEq, Repr

/-- A PTM message on the host link (R315, R326): a request that the device answers, or the host's answer, with what device time is to be
corrected by. -/
inductive PtmKind where
  | request
  | time (offset : Int)
  deriving DecidableEq, Repr

/-- Messages between the parts of a spanning launch about a launch barrier (R328): an arrival, a participant that has ended or been killed, one
that did so after it had arrived at the phase that follows `phase`, or a completed phase. -/
inductive PeerBarrier where
  | arrival | gone | killed | phaseComplete
  | goneArrived (phase : Nat)
  | killedArrived (phase : Nat)
  deriving DecidableEq, Repr

end Sys2Proof
end

