-- ==== Sys2Proof/Config.lean ====
section
/-!
DEFINITION. What the spec leaves open and the model takes as free values: constants with no body, applied to the
state's plain counter (`State.fresh`) or to the operands they depend on. Nothing can evaluate them (log 3).
-/
namespace Sys2Proof.Config

/-- R259: whether an unreleased word of a torn-down command is performed at its home. First argument the counter,
second the word's address. -/
opaque tearDownPerforms : Nat → Nat → Bool

/-- R309: the first 16 bytes of HMAC-SHA-256 under a hall key over the bytes of a message. -/
opaque hallMac : Nat → List Byte → BitVec 128

/-- R328: the hash of bits 255:64 of a packet that hubs compare. -/
opaque packetHash : List Byte → DWord

/-- R320: the digest a measurement block reports for the data it measures. -/
opaque measure : Nat → List DWord → List Byte

/-- R320: the chain in certificate slot 0. -/
opaque certificateChain : List Byte

/-- R320: the ECDSA P-384 signature that the root of trust's key makes of a message, for a counter value. -/
opaque spdmSign : Nat → List Byte → List Byte

/-- R263, R320: the root of trust's ROM contents, measured by block 1. -/
opaque romImage : List DWord

/-- R301: the power in W that the limits allow a cluster, for a counter value. -/
opaque clusterPower : Nat → Nat → Nat

/-- R294: the frame of a stack that firmware takes for a page of a size, for a counter value: its offset in the stack. -/
opaque frame : Nat → Nat → Nat → Nat

/-- R324: the fabric id that discovery gives the device, for a counter value. -/
opaque fabricId : Nat → BitVec 12

/-- R324: the hop distances that discovery finds, for a counter value. -/
opaque fabricHops : Nat → List (Nat × Nat)

/-- R313: the lowest cluster that passes self-test, for a counter value. -/
opaque healthyCluster : Nat → Fin 8

/-- R307: the current in A that the controller projects for a die's rail, for a counter value. -/
opaque railCurrent : Nat → Nat → Nat

/-- R308: the mean power in W of a partition over the last millisecond, for a counter value and the ballast charge that counts in it. -/
opaque partitionMean : Nat → Nat → DWord → Nat

/-- R298: whether firmware reloads a partition's incoming context from its save area, for a counter value. -/
opaque reloads : Nat → Bool

/-- R299: the 2 MiB regions whose world bit firmware sets or clears, for a counter value. -/
opaque regionsSet : Nat → List (Nat × Bool)

/-- R316: the 2 MiB regions that firmware assigns to partitions, for a counter value. -/
opaque regionsAssigned : Nat → List (Nat × Nat)

/-- R325: the import table that firmware writes, for a counter value: (source id, ASID) to a local ASID and world. -/
opaque importTable : Nat → List ((Nat × Nat) × (Nat × Bool))

/-- R313: whether a stage of a start ends well at a moment, the nanoseconds since the reset. -/
opaque stagePassed : Nat → Nat → Bool

/-- R300: the weight of an opcode that R300's table does not list. -/
opaque weight : Nat → Nat

/-- R326: the destination and the payload of a time flit, which the spec lays down no further, for a counter value, a port and a
device time. -/
opaque timeFlit : Nat → Nat → Nat → BitVec 12 × BitVec 448

/-- R326: whether another device of the fabric, by its fabric id, has its time source locked, at a device time. -/
opaque deviceLocked : Nat → Nat → Bool

end Sys2Proof.Config
end

