-- ==== Sys2Proof/Machine/Codes.lean ====
section
/-!
DEFINITION. The numeric codes of tags, scopes, levels and special registers (R11, R12, R24, R52, R69).
-/
namespace Sys2Proof.Machine

/-- R24: the 5-bit code of a tag. -/
def tagCode : Tag → Nat
  | .raw => 0x00 | .i32 => 0x01 | .n32 => 0x02 | .i16 => 0x03 | .n16 => 0x04 | .i8 => 0x05 | .n8 => 0x06
  | .f32 => 0x08 | .f16 => 0x09 | .bf16 => 0x0A | .e4m3 => 0x0B | .e5m2 => 0x0C
  | .pl h p => 0x10 + (if h then 8 else 0) + (p - 1)

/-- R24: the tag a code names; codes 0x07, 0x0D–0x10 and 0x18 are none. -/
def tagOfCode (c : Nat) : Option Tag :=
  match c with
  | 0x00 => some .raw | 0x01 => some .i32 | 0x02 => some .n32 | 0x03 => some .i16 | 0x04 => some .n16
  | 0x05 => some .i8 | 0x06 => some .n8 | 0x08 => some .f32 | 0x09 => some .f16 | 0x0A => some .bf16
  | 0x0B => some .e4m3 | 0x0C => some .e5m2
  | 0x11 => some (.pl false 2) | 0x12 => some (.pl false 3) | 0x13 => some (.pl false 4) | 0x14 => some (.pl false 5)
  | 0x15 => some (.pl false 6) | 0x16 => some (.pl false 7) | 0x17 => some (.pl false 8)
  | 0x19 => some (.pl true 2) | 0x1A => some (.pl true 3) | 0x1B => some (.pl true 4) | 0x1C => some (.pl true 5)
  | 0x1D => some (.pl true 6) | 0x1E => some (.pl true 7) | 0x1F => some (.pl true 8)
  | _ => none

/-- R24: a `pl` tag has 2 to 8 planes; every other tag is a tag of the map. -/
def tagValid : Tag → Bool
  | .pl _ p => 2 ≤ p && p ≤ 8
  | _ => true

/-- R12: the scope codes. -/
def scopeCode : Scope → Nat
  | .strand => 0 | .team => 1 | .cluster => 2 | .die => 3 | .pkg => 4 | .hop1 => 5 | .hop2 => 6 | .hop3 => 7

/-- R12: the scope of a code 0 to 7. -/
def scopeOfCode : Nat → Scope
  | 0 => .strand | 1 => .team | 2 => .cluster | 3 => .die | 4 => .pkg | 5 => .hop1 | 6 => .hop2 | _ => .hop3

/-- R52: fence kinds 1 acq, 2 rel, 3 acqrel. -/
def kindCode : FenceKind → Nat
  | .acq => 1 | .rel => 2 | .acqrel => 3

/-- R52: kind 0 is invalid. -/
def kindOfCode : Nat → Option FenceKind
  | 1 => some .acq | 2 => some .rel | 3 => some .acqrel | _ => none

/-- R52: barrier levels. -/
def levelCode : BarLevel → Nat
  | .team => 0 | .gang => 1 | .range => 2 | .launch => 3

/-- R52: barrier level of a 2-bit code. -/
def levelOfCode : Nat → BarLevel
  | 0 => .team | 1 => .gang | 2 => .range | _ => .launch

/-- R52: flip scopes. -/
def flipCode : FlipScope → Nat
  | .strand => 0 | .team => 1 | .imem => 2 | .segment => 3

/-- R52: scope 4 and above are invalid. -/
def flipOfCode : Nat → Option FlipScope
  | 0 => some .strand | 1 => some .team | 2 => some .imem | 3 => some .segment | _ => none

/-- R69: the numbers of the special-register map. -/
def specialRegs : List Nat :=
  [0x01, 0x02, 0x03, 0x04, 0x05, 0x06, 0x07, 0x08, 0x09, 0x0A, 0x0B, 0x10, 0x11, 0x12, 0x13,
   0x18, 0x19, 0x1A, 0x1B, 0x1C, 0x1D, 0x1E, 0x1F, 0x20, 0x21, 0x22, 0x23, 0x24]

/-- R69: the registers MTSR may write (`%mode`, `%flags`, `%epc`, `%trapvec`). -/
def writableRegs : List Nat := [0x18, 0x19, 0x1E, 0x1F]

/-- R62: reserved bits 15:14, rounding codes 5–7 and non-tag type codes are no mode value. -/
def modeOk (m : Half) : Bool :=
  m.toNat / 2 ^ 14 == 0 && m.toNat / 2 ^ 9 % 8 ≤ 4 && (tagOfCode (m.toNat % 32)).isSome

end Sys2Proof.Machine
end

