-- ==== Sys2Proof/Syntax.lean ====
section
/-!
DEFINITION. The instructions and events of spec/opcode_table.json: one constructor a row, in the table's order, but for six events that stand
before NOTIFY_WRITE so that compiled code can build them.
A register operand is its number in the file its class names (R51); an immediate is the bits of its field (R52).
The rows without a word are the device's events; their operands are what the world or a choice of the device supplies.
-/
namespace Sys2Proof

/-- One constructor per row of the opcode table (R54, R55; events: 95_what_each_step_holds.md). -/
inductive Instr where
  /-- R77: Does nothing but advance the PC. -/
  | nop
  /-- R75: Branches unconditionally to PC + 4·off24. -/
  | br (off : BitVec 24)
  /-- R75: Writes PC + 4 to s63 and branches to PC + 4·off24. -/
  | call (off : BitVec 24)
  /-- R75: Branches when the named scalar register is zero. -/
  | brz (d : Nat) (off : BitVec 16)
  /-- R75: Branches when the named scalar register is nonzero. -/
  | brnz (d : Nat) (off : BitVec 16)
  /-- R75: Branches when the predicate AND %em is empty. -/
  | bre (d : Nat) (off : BitVec 16)
  /-- R75: Branches when the predicate AND %em is not empty. -/
  | brne (d : Nat) (off : BitVec 16)
  /-- R76: Jumps to the offset held in a scalar register, after the checks of R58. -/
  | jr (a : Nat)
  /-- R76: Jumps to the offset held in s63. -/
  | ret
  /-- R77: Raises SOFTWARE with DETAIL n at issue. -/
  | trap (imm : BitVec 16)
  /-- R78: Returns from a handler to %epc and clears ACTIVE. -/
  | eret
  /-- R79: Drains the operand log, discards pending nodes, releases at pkg and frees the strand. -/
  | exit
  /-- R77: Raises BREAK with DETAIL n at issue. -/
  | bkpt (imm : BitVec 16)
  /-- R76: Reads the target from a scalar register, writes the link to s63 and jumps. -/
  | callr (a : Nat)
  /-- R81: Scalar addition modulo 2^64. -/
  | add (d a b : Nat)
  /-- R81: Scalar subtraction modulo 2^64. -/
  | sub (d a b : Nat)
  /-- R81: Low 64 bits of the scalar product. -/
  | mul (d a b : Nat)
  /-- R81: High 64 bits of the signed 128-bit product. -/
  | mulh (d a b : Nat)
  /-- R81: High 64 bits of the unsigned 128-bit product. -/
  | mulhn (d a b : Nat)
  /-- R82: Signed scalar division truncating toward zero, never trapping. -/
  | div (d a b : Nat)
  /-- R82: Unsigned scalar division, never trapping. -/
  | divn (d a b : Nat)
  /-- R82: Signed scalar remainder with the sign of the dividend. -/
  | rem (d a b : Nat)
  /-- R82: Unsigned scalar remainder. -/
  | remn (d a b : Nat)
  /-- R81: Scalar bitwise AND. -/
  | and (d a b : Nat)
  /-- R81: Scalar bitwise OR. -/
  | or (d a b : Nat)
  /-- R81: Scalar bitwise XOR. -/
  | xor (d a b : Nat)
  /-- R81: Scalar left shift by the low six bits of s(b). -/
  | shl (d a b : Nat)
  /-- R81: Scalar logical right shift by the low six bits of s(b). -/
  | shr (d a b : Nat)
  /-- R81: Scalar arithmetic right shift by the low six bits of s(b). -/
  | sra (d a b : Nat)
  /-- R81: Writes 1 if a < b signed, else 0. -/
  | slt (d a b : Nat)
  /-- R81: Writes 1 if a < b unsigned, else 0. -/
  | sltn (d a b : Nat)
  /-- R81: Signed scalar minimum. -/
  | min (d a b : Nat)
  /-- R81: Signed scalar maximum. -/
  | max (d a b : Nat)
  /-- R81: Unsigned scalar minimum. -/
  | minn (d a b : Nat)
  /-- R81: Unsigned scalar maximum. -/
  | maxn (d a b : Nat)
  /-- R81: Counts the leading zero bits of a scalar. -/
  | clz (d a : Nat)
  /-- R81: Counts the one bits of a scalar. -/
  | popc (d a : Nat)
  /-- R81: Adds a sign-extended 8-bit immediate to a scalar. -/
  | addi (d a : Nat) (imm : BitVec 8)
  /-- R81: Scalar left shift by an immediate count below 64. -/
  | shli (d a sh : Nat)
  /-- R81: Scalar logical right shift by an immediate count below 64. -/
  | shri (d a sh : Nat)
  /-- R81: Scalar arithmetic right shift by an immediate count below 64. -/
  | srai (d a sh : Nat)
  /-- R81: ANDs a scalar with a sign-extended 8-bit immediate. -/
  | andi (d a : Nat) (imm : BitVec 8)
  /-- R83: Loads a sign-extended 16-bit immediate into a scalar. -/
  | li (d : Nat) (imm : BitVec 16)
  /-- R83: Shifts a scalar left by 16 and ORs in a 16-bit immediate. -/
  | lih (d : Nat) (imm : BitVec 16)
  /-- R84: Copies a special register into a scalar register. -/
  | mfsr (d a : Nat)
  /-- R84: Writes a scalar into a writable special register, with its checks. -/
  | mtsr (d a : Nat)
  /-- R85: Writes its 16-bit immediate to %mode. -/
  | mode (m : BitVec 16)
  /-- R85: Writes a scalar register to %mode. -/
  | modes (a : Nat)
  /-- R86: Sets %em from a predicate. -/
  | emset (a : Nat)
  /-- R86: Copies %em into a predicate. -/
  | emget (d : Nat)
  /-- R87: Predicate AND. -/
  | pand (d a b : Nat)
  /-- R87: Predicate OR. -/
  | por (d a b : Nat)
  /-- R87: Predicate XOR. -/
  | pxor (d a b : Nat)
  /-- R87: Predicate AND NOT. -/
  | pandn (d a b : Nat)
  /-- R87: Predicate NOT. -/
  | pnot (d a : Nat)
  /-- R87: Counts the set bits of a predicate into a scalar. -/
  | ppopc (d a : Nat)
  /-- R87: Writes the index of a predicate's lowest set bit, or 32. -/
  | pffs (d a : Nat)
  /-- R87: Sets a predicate from bits 31:0 of a scalar. -/
  | pfroms (d a : Nat)
  /-- R87: Copies a predicate, zero-extended, into a scalar. -/
  | ptos (d a : Nat)
  /-- R100: Vector addition on the mode's integer or float type. -/
  | vadd (d a b : Nat)
  /-- R100: Vector subtraction on the mode's type. -/
  | vsub (d a b : Nat)
  /-- R100: Vector multiplication on the mode's type. -/
  | vmul (d a b : Nat)
  /-- R100: Fused vector multiply-add d := a·b + d. -/
  | vmad (d a b : Nat)
  /-- R101: Vector minimum (minimumNumber for floats). -/
  | vmin (d a b : Nat)
  /-- R101: Vector maximum (maximumNumber for floats). -/
  | vmax (d a b : Nat)
  /-- R101: Vector absolute value. -/
  | vabs (d a : Nat)
  /-- R101: Vector negation. -/
  | vneg (d a : Nat)
  /-- R100: Vector division with the special cases of R100 and R99. -/
  | vdiv (d a b : Nat)
  /-- R100: Correctly rounded vector reciprocal. -/
  | vrcp (d a : Nat)
  /-- R100: Correctly rounded vector reciprocal square root. -/
  | vrsq (d a : Nat)
  /-- R100: Vector square root. -/
  | vsqrt (d a : Nat)
  /-- R100: Correctly rounded vector 2^a. -/
  | vexp2 (d a : Nat)
  /-- R100: Correctly rounded vector log2. -/
  | vlog2 (d a : Nat)
  /-- R101: Rounds each element to an integral value in the mode's rounding. -/
  | vrnd (d a : Nat)
  /-- R99: High half of the double-width integer product per element. -/
  | vmulh (d a b : Nat)
  /-- R102: Vector bitwise AND. -/
  | vand (d a b : Nat)
  /-- R102: Vector bitwise OR. -/
  | vor (d a b : Nat)
  /-- R102: Vector bitwise XOR. -/
  | vxor (d a b : Nat)
  /-- R102: Vector bitwise NOT. -/
  | vnot (d a : Nat)
  /-- R102: Per-element left shift. -/
  | vshl (d a b : Nat)
  /-- R102: Per-element right shift, arithmetic for I types. -/
  | vshr (d a b : Nat)
  /-- R102: Counts leading zero bits per element. -/
  | vclz (d a : Nat)
  /-- R102: Counts one bits per element. -/
  | vpopc (d a : Nat)
  /-- R103: Writes a predicate of lanes where a = b. -/
  | vceq (d a b : Nat)
  /-- R103: Writes a predicate of lanes where a ≠ b. -/
  | vcne (d a b : Nat)
  /-- R103: Writes a predicate of lanes where a < b. -/
  | vclt (d a b : Nat)
  /-- R103: Writes a predicate of lanes where a ≤ b. -/
  | vcle (d a b : Nat)
  /-- R104: Selects a or b per lane of %em by the guard. -/
  | vsel (d a b : Nat)
  /-- R104: Broadcasts bits 31:0 of a scalar into every active lane. -/
  | vbcst (d a : Nat)
  /-- R104: Copies one lane into a scalar, or 0 if the lane is inactive. -/
  | vtos (d a lane : Nat)
  /-- R104: Writes a scalar into one active lane of a vector. -/
  | vsetl (d a lane : Nat)
  /-- R104: Permutes lanes of a by the indices in b. -/
  | vshuf (d a b : Nat)
  /-- R104: Rotates the lanes of a by a scalar amount. -/
  | vlane (d a b : Nat)
  /-- R105: Counts active set predicate bits below each lane. -/
  | vprefix (d a : Nat)
  /-- R105: Gives each lane the mask of active lanes with equal bits. -/
  | vmatch (d a : Nat)
  /-- R105: Writes a predicate of active lanes holding nonzero values. -/
  | vballot (d a : Nat)
  /-- R106: Sums the active elements into a scalar. -/
  | vredadd (d a : Nat)
  /-- R106: Reduces the active elements to their minimum in a scalar. -/
  | vredmin (d a : Nat)
  /-- R106: Reduces the active elements to their maximum in a scalar. -/
  | vredmax (d a : Nat)
  /-- R107: Writes the inclusive prefix sum over active lanes. -/
  | vscan (d a : Nat)
  /-- R109: Converts elements from a's tag to the mode type at equal width ratio. -/
  | vcvt (d a : Nat)
  /-- R111: Quantises blocks to PL8 or PL8H, writing scales to a scalar. -/
  | vcvth (d a b : Nat)
  /-- R109: Converts a and b to a narrower type packed into d. -/
  | vpack (d a b : Nat)
  /-- R109: Converts a selected part of a to a wider type. -/
  | vunpk (d a sel : Nat)
  /-- R112: Copies active lanes and sets the destination tag to the immediate. -/
  | vretag (d a : Nat) (tag : Tag)
  /-- R112: Writes a vector register's tag code to a scalar. -/
  | vgettag (d a : Nat)
  /-- R114: Loads one byte zero-extended into a scalar. -/
  | ldb (d a reuse : Nat) (off : BitVec 6)
  /-- R114: Loads two bytes zero-extended into a scalar. -/
  | ldh (d a reuse : Nat) (off : BitVec 6)
  /-- R114: Loads four bytes zero-extended into a scalar. -/
  | ldw (d a reuse : Nat) (off : BitVec 6)
  /-- R114: Loads eight bytes into a scalar. -/
  | ldd (d a reuse : Nat) (off : BitVec 6)
  /-- R114: Stores the low byte of a scalar. -/
  | stb (d a : Nat) (off : BitVec 6)
  /-- R114: Stores the low two bytes of a scalar. -/
  | sth (d a : Nat) (off : BitVec 6)
  /-- R114: Stores the low four bytes of a scalar. -/
  | stw (d a : Nat) (off : BitVec 6)
  /-- R114: Stores eight bytes of a scalar. -/
  | std (d a : Nat) (off : BitVec 6)
  /-- R116: Gathers one element per active lane from per-lane addresses. -/
  | vld (d a : Nat) (reuse3 : Bool) (b : Nat)
  /-- R116: Scatters one element per active lane to per-lane addresses. -/
  | vst (d a b : Nat)
  /-- R115: Loads 32 contiguous words into the active lanes. -/
  | vldc (d a reuse : Nat) (off : BitVec 6)
  /-- R115: Stores the active lanes to 32 contiguous words. -/
  | vstc (d a : Nat) (off : BitVec 6)
  /-- R118: Hints a 128-byte fill into L1 and L2 at a reuse class. -/
  | pref (a reuse : Nat) (off : BitVec 6)
  /-- R120: Gathers from the scratchpad with per-lane addresses. -/
  | spld (d a b : Nat)
  /-- R120: Scatters to the scratchpad with per-lane addresses. -/
  | spst (d a b : Nat)
  /-- R120: Loads 128 contiguous scratchpad bytes. -/
  | spldc (d a : Nat) (imm : BitVec 8)
  /-- R120: Stores 128 contiguous scratchpad bytes. -/
  | spstc (d a : Nat) (imm : BitVec 8)
  /-- R223: Atomic add on scratchpad words, returning old values. -/
  | spaadd (d a b : Nat)
  /-- R225: Compare-and-swap on scratchpad words. -/
  | spacas (d a b : Nat)
  /-- R223: Atomic add on memory words, returning old values. -/
  | aadd (d a b : Nat)
  /-- R223: Atomic minimum on memory words. -/
  | amin (d a b : Nat)
  /-- R223: Atomic maximum on memory words. -/
  | amax (d a b : Nat)
  /-- R223: Atomic AND on memory words. -/
  | aand (d a b : Nat)
  /-- R223: Atomic OR on memory words. -/
  | aor (d a b : Nat)
  /-- R223: Atomic XOR on memory words. -/
  | axor (d a b : Nat)
  /-- R223: Atomic exchange on memory words. -/
  | axch (d a b : Nat)
  /-- R225: Compare-and-swap on memory words. -/
  | acas (d a b : Nat)
  /-- R223: Atomic F32 add with RNE on memory words. -/
  | afadd (d a b : Nat)
  /-- R226: Integer reduction into UPDATE partial sums, returning nothing. -/
  | redadd (a b : Nat)
  /-- R226: F32 reduction into UPDATE partial sums, returning nothing. -/
  | redfadd (a b : Nat)
  /-- R217: Release, acquire or both at the named scope. -/
  | fence (scope : Scope) (kind : FenceKind)
  /-- R218: Reads from the scope's level and then acquires. -/
  | ldacq (d a size : Nat) (scope : Scope)
  /-- R218: Releases and then writes at the scope's level. -/
  | strel (d a size : Nat) (scope : Scope)
  /-- R230: Releases and records an arrival at a barrier phase. -/
  | arrive (level : BarLevel) (n : Nat)
  /-- R230: Waits for the phase of the last arrival, acquires and reports ABANDONED. -/
  | await (d : Nat) (level : BarLevel) (n : Nat)
  /-- R230: ARRIVE followed by AWAIT on one barrier. -/
  | meet (d : Nat) (level : BarLevel) (n : Nat)
  /-- R232: Makes the strand critical, waiting if four are critical. -/
  | crit
  /-- R232: Makes the strand ordinary again. -/
  | uncrit
  /-- R221: Moves the team into the knit named by a handle. -/
  | kjoin (d a : Nat)
  /-- R222: Takes the team out of its knit into a knit of one. -/
  | kleave
  /-- R220: Returns the knit handle, member index, mask or count. -/
  | kinfo (d sel : Nat)
  /-- R150: Waits for a filled or free slot and returns its address. -/
  | cbwait (d n : Nat)
  /-- R150: Returns an inbound slot to the walker. -/
  | cbpop (n : Nat)
  /-- R150: Hands an outbound slot to the walker. -/
  | cbpush (n : Nat)
  /-- R151: Returns the circular buffer's state word. -/
  | cbinfo (d n : Nat)
  /-- R256: Appends the active lanes to a gang queue after a cluster release. -/
  | qpush (d n : Nat)
  /-- R256: Removes elements from a gang queue into the active lanes and acquires. -/
  | qpop (d n : Nat)
  /-- R254: Submits a packet from memory as a task of the command's queue. -/
  | launch (d a : Nat)
  /-- R255: Releases and adds a value to a signal word at its home. -/
  | signal (a b : Nat)
  /-- R131: Waits for bound transfers and exchanges the planes at a scope. -/
  | flip (scope : FlipScope) (a : Nat)
  /-- R131: Exchanges the planes at once, aborting bound transfers. -/
  | flipx (scope : FlipScope) (a : Nat)
  /-- R131: Waits for bound transfers and copies working to staging. -/
  | flipc (scope : FlipScope) (a : Nat)
  /-- R137: Validates a descriptor and starts a transfer, returning its id. -/
  | xfer (d a : Nat)
  /-- R145: Waits for a transfer to end and returns its status as an acquire. -/
  | xwait (d a : Nat)
  /-- R145: Returns a transfer's status at once. -/
  | xstat (d a : Nat)
  /-- R168: Appends a node that fills a tile from a descriptor. -/
  | tld (d a : Nat)
  /-- R169: Demands a whole tile and stores it through a descriptor. -/
  | tst (d a : Nat)
  /-- R170: Appends a node that zeroes a tile. -/
  | tzero (d : Nat)
  /-- R181: Appends a matrix node with A from a tile. -/
  | tmmaTile (d a b : Nat)
  /-- R181: Appends a matrix node with A from a descriptor. -/
  | tmmaDesc (d a b : Nat)
  /-- R188: Appends an online-softmax node on O and S. -/
  | tsoft (d a b : Nat)
  /-- R173: Appends an element-wise tile addition node. -/
  | tadd (d a b : Nat)
  /-- R173: Appends an element-wise tile multiplication node. -/
  | tmul (d a b : Nat)
  /-- R173: Appends a node dividing each row by its row sum. -/
  | tscl (d : Nat)
  /-- R173: Appends an element-wise 2^a tile node. -/
  | texp2 (d a : Nat)
  /-- R174: Appends a tile format conversion node. -/
  | tcvt (d a : Nat)
  /-- R173: Appends an element-wise tile maximum node. -/
  | tmax (d a b : Nat)
  /-- R175: Appends a node reducing rows into row max or row sum. -/
  | trowred (d a kind : Nat)
  /-- R178: Closes the open batch and returns its number. -/
  | tfence (d : Nat)
  /-- R179: Completes batches up to a number and acquires their reads. -/
  | twait (a : Nat)
  /-- R177: Demands the masked row groups of a tile. -/
  | force (d : Nat) (mask : BitVec 4)
  /-- R176: Appends a node moving rows through an index map. -/
  | tmap (d a b : Nat)
  /-- R172: Demands a row group and copies a row quarter into a vector. -/
  | trv (d a quarter row : Nat)
  /-- R171: Appends a node writing a vector into a row quarter. -/
  | tvr (d a quarter row : Nat)
  /-- R277: Takes a rope checkpoint of the team in every replica. -/
  | ckpt
  /-- R286: Compares rope signatures without releasing. -/
  | sigchk (d : Nat)
  /-- R90: Sets the team's performance class. -/
  | perf (cls : Nat)
  /-- R88: Reads device time in nanoseconds. -/
  | time (d : Nat)
  /-- R88: Reads the strand's resident cycle count. -/
  | cyc (d : Nat)
  /-- R89: Loads, arms or disarms the strand timer. -/
  | settimer (a : Nat)
  /-- R91: Marks the team idempotent if it has made no atomic or release. -/
  | idemp
  /-- R93: Reads a system register (privileged). -/
  | sysrd (d a : Nat)
  /-- R93: Writes a system register (privileged). -/
  | syswr (d a : Nat)
  /-- R95: Halts the target partition and exchanges its whole context. -/
  | pflip
  /-- R94: Halts the target partition's strands on a named core. -/
  | haltc (a : Nat)
  /-- R96: Invalidates translations of an ASID module-wide. -/
  | tlbinv (a b : Nat)
  /-- R131: After gathering, forcing, pins and drain, the flip exchanges or copies. -/
  | flipTakesEffect (strand : Nat)
  /-- R68: A logged memory instruction replays with its captured values. -/
  | operandLogReplay (strand : Nat)
  /-- R89: The strand timer reaches 0, disarms and raises TIMER. -/
  | timerExpiry (strand : Nat)
  /-- R198: A strand ready for 64 cycles without issuing is promoted. -/
  | strandPromotion (strand : Nat)
  /-- R232: After 100 µs a still-critical strand stops where it stands. -/
  | critDeferralExpiry (core : Nat)
  /-- R243: A queued transfer takes a free walker context. -/
  | transferStart (team id : Nat)
  /-- R140: A walker writes one beat of a transfer. -/
  | walkerBeat (team id : Nat)
  /-- R195: Each fabric cycle the dispatcher places the next gangs that fit. -/
  | gangPlacement
  /-- R253: A launch passed over for 100 µs blocks equal and lower priorities. -/
  | launchPassover (launch : Nat)
  /-- R257: A range samples its termination test and ends QPOP waiters when it holds. -/
  | terminationSample (launch die : Nat)
  /-- R57: A word that matches no instruction issues and traps ILLEGAL with no effect. -/
  | invalidInstructionWord (word : Word)
  /-- R328: A spanning launch packet without counterpart in 1 s aborts every part. -/
  | spanMatchTimeout (task : Nat)
  /-- R323: A peer request unanswered after 1 ms is fatal TIMEOUT. -/
  | requestTimeout (tag : Nat)
  /-- R323: A link not retrained within 1 ms goes down. -/
  | linkRetrainTimeout (port : Nat)
  /-- R311: HOLDMS expires and the hall cap is no longer in force. -/
  | hallCapExpiry
  /-- R326: Every 1 µs time flits are sent on each port. -/
  | timeFlitSend
  /-- R244: A write to a queue's notify register sets its doorbell index. -/
  | notifyWrite (fn : Nat) (ide : Bool) (queue : Nat) (value : Word)
  /-- R246: A packet processor reads a packet from the ring and enters its task. -/
  | packetRead (queue : Nat)
  /-- R249: A waiting task becomes READY when count, time and ORDER allow. -/
  | taskReady (task : Nat)
  /-- R247: A READY launch task is handed to the dispatcher. -/
  | launchPacket (task : Nat)
  /-- R294: Pins every page of a range with homes chosen by affinity. -/
  | pinPacket (task : Nat)
  /-- R247: Releases one pin of each page of a range. -/
  | unpinPacket (task : Nat)
  /-- R247: Adds a value to a signal word under the queue's ASID and world. -/
  | signalPacket (task : Nat)
  /-- R247: Does nothing, joining dependences or carrying ORDER. -/
  | nopPacket (task : Nat)
  /-- R252: Writes the completion entry, decrements the signal and successors, frees the block. -/
  | taskRetirement (task : Nat)
  /-- R259: A command exceeding its time limit is torn down TIMEOUT. -/
  | commandTimeout (launch : Nat)
  /-- R261: An uncorrectable core error restarts an idempotent team or kills it. -/
  | coreError (team : Nat) (retired : Bool)
  /-- R264: An uncorrectable task block error poisons its task graph. -/
  | graphPoison (task : Nat)
  /-- R298: Firmware loads the incoming context and exchanges the partition's planes. -/
  | preemption (part : Nat)
  /-- R306: A core sensor reaching 100 °C orders its gangs moved. -/
  | hotSpotLimit (core : Nat)
  /-- R204: Moves a stopped gang to cooler cores in its cluster. -/
  | migration (gang : Nat)
  /-- R204: After 50 µs unended transfers are paused and rebound to the new cores. -/
  | migrationTransferRebind (gang : Nat)
  /-- R306: A cluster sensor at 105 °C lowers the cluster clock. -/
  | thermalClockLimit (cluster : Nat)
  /-- R306: A sensor at 115 °C tears down every command and stops the module. -/
  | thermalTrip
  /-- R307: A failed regulator phase derates the die's current limit. -/
  | phaseLoss (die : Nat)
  /-- R308: Idle matrix units run ballast steps to bound the current slope. -/
  | ballast (granule cycles : Nat)
  /-- R304: Every 10 µs the controller recomputes limits, gating, TARGET and clocks. -/
  | powerControlTick (uncore : Nat) (duties clocks : List Nat)
  /-- R292: A scrub visit corrects single-symbol errors in a sector. -/
  | patrolScrub (sector : Nat)
  /-- R272: When every counterpart has presented, the release's signatures are compared. -/
  | ropeCompare (team strand : Nat)
  /-- R278: When the log is full and strands have stopped, a checkpoint is taken. -/
  | logFullCheckpoint (team : Nat)
  /-- R316, R317: A host write TLP; one to BAR2 is performed as a release at pkg. -/
  | hostMemoryWrite (fn : Nat) (ide : Bool) (at' : HostAddr) (bytes : List Byte)
  /-- R316, R317: A host read TLP; one to BAR2 is performed at the home slices. -/
  | hostMemoryRead (fn : Nat) (ide : Bool) (at' : HostAddr) (n : Nat)
  /-- R245: MCMD OP 1 writes a queue descriptor from MREC. -/
  | queueRecordWrite (queue : Nat)
  /-- R321: MCMD OP 2 reads a queue descriptor into MREC. -/
  | queueRecordRead (queue : Nat)
  /-- R327: MCMD OP 3 binds or unbinds a queue to a span record. -/
  | spanRecordWrite
  /-- R260: MCMD OP 4 tears down a partition's ASID context. -/
  | contextTearDown (part asid : Nat)
  /-- R321: A write to MEVENT clears the bits written as 1. -/
  | meventClear (mask : DWord)
  /-- R321: A write to a management register with no row of its own. -/
  | registerWrite (offset : Nat) (value : DWord)
  /-- R312: Reset verifies the image slots and starts the boot stages. -/
  | moduleReset
  /-- R313: Firmware not READY within 60 s counts a failed start. -/
  | startTimeout
  /-- R314: Writing RETRY clears FAILS and resets the module. -/
  | bootRetry
  /-- R320: The device answers an SPDM request over DOE. -/
  | spdmRequest (ask : SpdmAsk)
  /-- R319: LOCK freezes the VF partition's configuration and queue identity fields. -/
  | tdispLock (vf : Nat)
  /-- R319: A move to ERROR stops the partition's queues and tears down its commands. -/
  | tdispError (vf : Nat)
  /-- R311: A received hall cap message is checked and applied. -/
  | hallCapMessage (bytes : List Byte)
  /-- R326: A 1588 message on the management port disciplines device time. -/
  | ieee1588Message (offset : Int)
  /-- R323: A Jalino flit is checked and delivered, or dropped for replay. -/
  | flitReceive (port : Nat) (flit : List Byte)
  /-- R325: A home translates and performs a request from a peer. -/
  | peerRequest (req : PeerReq)
  /-- R325: A response from a peer home completes or fails the access. -/
  | peerResponse (resp : PeerResp)
  /-- R326: A time flit slews device time toward the master. -/
  | timeFlitReceive (port time delay : Nat)
  /-- R328: Hubs compare the hashes of a spanning launch's packets. -/
  | spanHashCompare (task : Nat) (hashes : List (Nat × DWord))
  /-- R264: An uncorrectable error in a queue's descriptor sets ERROR, stops the queue and completes its unstarted tasks QUEUE_POISON. -/
  | queueDescriptorError (queue : Nat)
  /-- R295: Firmware reconfigures partitions at the host's request, resetting affected partitions and their contexts. -/
  | partitionReconfiguration (cfgs : List DWord)
  /-- R313: Firmware reports READY, ending the start and clearing the failed-start count. -/
  | firmwareReady
  /-- R313: A start stage such as memory training, die-link training or self-test fails, recording REASON and counting a failed start. -/
  | startStageFailure (reason : Nat)
  /-- R313: The host writes a new image through the diagnostics firmware in minimal mode. -/
  | newImageWrite (image : Image)
  /-- R319: A VF's TDISP interface enters RUN, so its traffic on its IDE stream takes the partition's world. -/
  | tdispRun (vf : Nat)
  /-- R319: A VF's TDISP interface returns to CONFIG_UNLOCKED, releasing the freeze that LOCK set. -/
  | tdispConfigUnlocked (vf : Nat)
  /-- R323: A Jalino link that began retraining after 8 replays completes its retraining within 1 ms. -/
  | linkRetrained (port : Nat)
  /-- R326: A PTM message on the host link disciplines device time when PTM is the time source. -/
  | ptmMessage (kind : PtmKind)
  /-- R321: The management port answers ARP and neighbour discovery frames and drops every other frame that is not a hall or 1588 message. -/
  | managementPortFrame (kind : FrameKind)
  /-- R306: A cluster's hottest sensor falls below 103 °C and the thermal clock limit is lifted. -/
  | thermalLimitRelease (cluster : Nat)
  /-- R328: A launch-barrier arrival, kill or phase message from another part of a spanning launch reaches this hub's barrier entry. -/
  | peerBarrierArrival (launch number : Nat) (kind : PeerBarrier)
  deriving DecidableEq, Repr

end Sys2Proof
end

