-- ==== Sys2Proof/WellFormed.lean ====
section
/-!
DEFINITION. The checks an instruction term must pass: the classes of R51 and R52 that do not depend on a kernel
header, and for the events the ranges of the units they name. (The limits of a header, VREGS, TILES, the barrier
counts and CBUFS, are checked at issue by the machine, R57.)
-/
namespace Sys2Proof

/-- R51, R52, R55: every operand lies within its class. -/
def Instr.wellFormed : Instr → Bool
  | .nop => true
  | .br _ => true
  | .call _ => true
  | .brz d _ => decide (d < 64)
  | .brnz d _ => decide (d < 64)
  | .bre d _ => decide (d < 8)
  | .brne d _ => decide (d < 8)
  | .jr a => decide (a < 64)
  | .ret => true
  | .trap _ => true
  | .eret => true
  | .exit => true
  | .bkpt _ => true
  | .callr a => decide (a < 64)
  | .add d a b => decide (d < 64) && decide (a < 64) && decide (b < 64)
  | .sub d a b => decide (d < 64) && decide (a < 64) && decide (b < 64)
  | .mul d a b => decide (d < 64) && decide (a < 64) && decide (b < 64)
  | .mulh d a b => decide (d < 64) && decide (a < 64) && decide (b < 64)
  | .mulhn d a b => decide (d < 64) && decide (a < 64) && decide (b < 64)
  | .div d a b => decide (d < 64) && decide (a < 64) && decide (b < 64)
  | .divn d a b => decide (d < 64) && decide (a < 64) && decide (b < 64)
  | .rem d a b => decide (d < 64) && decide (a < 64) && decide (b < 64)
  | .remn d a b => decide (d < 64) && decide (a < 64) && decide (b < 64)
  | .and d a b => decide (d < 64) && decide (a < 64) && decide (b < 64)
  | .or d a b => decide (d < 64) && decide (a < 64) && decide (b < 64)
  | .xor d a b => decide (d < 64) && decide (a < 64) && decide (b < 64)
  | .shl d a b => decide (d < 64) && decide (a < 64) && decide (b < 64)
  | .shr d a b => decide (d < 64) && decide (a < 64) && decide (b < 64)
  | .sra d a b => decide (d < 64) && decide (a < 64) && decide (b < 64)
  | .slt d a b => decide (d < 64) && decide (a < 64) && decide (b < 64)
  | .sltn d a b => decide (d < 64) && decide (a < 64) && decide (b < 64)
  | .min d a b => decide (d < 64) && decide (a < 64) && decide (b < 64)
  | .max d a b => decide (d < 64) && decide (a < 64) && decide (b < 64)
  | .minn d a b => decide (d < 64) && decide (a < 64) && decide (b < 64)
  | .maxn d a b => decide (d < 64) && decide (a < 64) && decide (b < 64)
  | .clz d a => decide (d < 64) && decide (a < 64)
  | .popc d a => decide (d < 64) && decide (a < 64)
  | .addi d a _ => decide (d < 64) && decide (a < 64)
  | .shli d a sh => decide (d < 64) && decide (a < 64) && decide (sh < 64)
  | .shri d a sh => decide (d < 64) && decide (a < 64) && decide (sh < 64)
  | .srai d a sh => decide (d < 64) && decide (a < 64) && decide (sh < 64)
  | .andi d a _ => decide (d < 64) && decide (a < 64)
  | .li d _ => decide (d < 64)
  | .lih d _ => decide (d < 64)
  | .mfsr d a => decide (d < 64) && Machine.specialRegs.contains a
  | .mtsr d a => Machine.specialRegs.contains d && decide (a < 64)
  | .mode m => Machine.modeOk m
  | .modes a => decide (a < 64)
  | .emset a => decide (a < 8)
  | .emget d => decide (d < 8)
  | .pand d a b => decide (d < 8) && decide (a < 8) && decide (b < 8)
  | .por d a b => decide (d < 8) && decide (a < 8) && decide (b < 8)
  | .pxor d a b => decide (d < 8) && decide (a < 8) && decide (b < 8)
  | .pandn d a b => decide (d < 8) && decide (a < 8) && decide (b < 8)
  | .pnot d a => decide (d < 8) && decide (a < 8)
  | .ppopc d a => decide (d < 64) && decide (a < 8)
  | .pffs d a => decide (d < 64) && decide (a < 8)
  | .pfroms d a => decide (d < 8) && decide (a < 64)
  | .ptos d a => decide (d < 64) && decide (a < 8)
  | .vadd d a b => decide (d < 128) && decide (a < 128) && decide (b < 128)
  | .vsub d a b => decide (d < 128) && decide (a < 128) && decide (b < 128)
  | .vmul d a b => decide (d < 128) && decide (a < 128) && decide (b < 128)
  | .vmad d a b => decide (d < 128) && decide (a < 128) && decide (b < 128)
  | .vmin d a b => decide (d < 128) && decide (a < 128) && decide (b < 128)
  | .vmax d a b => decide (d < 128) && decide (a < 128) && decide (b < 128)
  | .vabs d a => decide (d < 128) && decide (a < 128)
  | .vneg d a => decide (d < 128) && decide (a < 128)
  | .vdiv d a b => decide (d < 128) && decide (a < 128) && decide (b < 128)
  | .vrcp d a => decide (d < 128) && decide (a < 128)
  | .vrsq d a => decide (d < 128) && decide (a < 128)
  | .vsqrt d a => decide (d < 128) && decide (a < 128)
  | .vexp2 d a => decide (d < 128) && decide (a < 128)
  | .vlog2 d a => decide (d < 128) && decide (a < 128)
  | .vrnd d a => decide (d < 128) && decide (a < 128)
  | .vmulh d a b => decide (d < 128) && decide (a < 128) && decide (b < 128)
  | .vand d a b => decide (d < 128) && decide (a < 128) && decide (b < 128)
  | .vor d a b => decide (d < 128) && decide (a < 128) && decide (b < 128)
  | .vxor d a b => decide (d < 128) && decide (a < 128) && decide (b < 128)
  | .vnot d a => decide (d < 128) && decide (a < 128)
  | .vshl d a b => decide (d < 128) && decide (a < 128) && decide (b < 128)
  | .vshr d a b => decide (d < 128) && decide (a < 128) && decide (b < 128)
  | .vclz d a => decide (d < 128) && decide (a < 128)
  | .vpopc d a => decide (d < 128) && decide (a < 128)
  | .vceq d a b => decide (d < 8) && decide (a < 128) && decide (b < 128)
  | .vcne d a b => decide (d < 8) && decide (a < 128) && decide (b < 128)
  | .vclt d a b => decide (d < 8) && decide (a < 128) && decide (b < 128)
  | .vcle d a b => decide (d < 8) && decide (a < 128) && decide (b < 128)
  | .vsel d a b => decide (d < 128) && decide (a < 128) && decide (b < 128)
  | .vbcst d a => decide (d < 128) && decide (a < 64)
  | .vtos d a lane => decide (d < 64) && decide (a < 128) && decide (lane < 32)
  | .vsetl d a lane => decide (d < 128) && decide (a < 64) && decide (lane < 32)
  | .vshuf d a b => decide (d < 128) && decide (a < 128) && decide (b < 128)
  | .vlane d a b => decide (d < 128) && decide (a < 128) && decide (b < 64)
  | .vprefix d a => decide (d < 128) && decide (a < 8)
  | .vmatch d a => decide (d < 128) && decide (a < 128)
  | .vballot d a => decide (d < 8) && decide (a < 128)
  | .vredadd d a => decide (d < 64) && decide (a < 128)
  | .vredmin d a => decide (d < 64) && decide (a < 128)
  | .vredmax d a => decide (d < 64) && decide (a < 128)
  | .vscan d a => decide (d < 128) && decide (a < 128)
  | .vcvt d a => decide (d < 128) && decide (a < 128)
  | .vcvth d a b => decide (d < 128) && decide (a < 128) && decide (b < 64)
  | .vpack d a b => decide (d < 128) && decide (a < 128) && decide (b < 128)
  | .vunpk d a sel => decide (d < 128) && decide (a < 128) && decide (sel < 4)
  | .vretag d a tag => decide (d < 128) && decide (a < 128) && Machine.tagValid tag
  | .vgettag d a => decide (d < 64) && decide (a < 128)
  | .ldb d a reuse _ => decide (d < 64) && decide (a < 64) && decide (reuse < 4)
  | .ldh d a reuse _ => decide (d < 64) && decide (a < 64) && decide (reuse < 4)
  | .ldw d a reuse _ => decide (d < 64) && decide (a < 64) && decide (reuse < 4)
  | .ldd d a reuse _ => decide (d < 64) && decide (a < 64) && decide (reuse < 4)
  | .stb d a _ => decide (d < 64) && decide (a < 64)
  | .sth d a _ => decide (d < 64) && decide (a < 64)
  | .stw d a _ => decide (d < 64) && decide (a < 64)
  | .std d a _ => decide (d < 64) && decide (a < 64)
  | .vld d a _ b => decide (d < 128) && decide (a < 64) && decide (b < 128)
  | .vst d a b => decide (d < 128) && decide (a < 64) && decide (b < 128)
  | .vldc d a reuse _ => decide (d < 128) && decide (a < 64) && decide (reuse < 4)
  | .vstc d a _ => decide (d < 128) && decide (a < 64)
  | .pref a reuse _ => decide (a < 64) && decide (reuse < 4)
  | .spld d a b => decide (d < 128) && decide (a < 64) && decide (b < 128)
  | .spst d a b => decide (d < 128) && decide (a < 64) && decide (b < 128)
  | .spldc d a _ => decide (d < 128) && decide (a < 64)
  | .spstc d a _ => decide (d < 128) && decide (a < 64)
  | .spaadd d a b => decide (d < 128) && decide (a < 64) && decide (b < 127)
  | .spacas d a b => decide (d < 128) && decide (a < 64) && decide (b < 127)
  | .aadd d a b => decide (d < 128) && decide (a < 64) && decide (b < 127)
  | .amin d a b => decide (d < 128) && decide (a < 64) && decide (b < 127)
  | .amax d a b => decide (d < 128) && decide (a < 64) && decide (b < 127)
  | .aand d a b => decide (d < 128) && decide (a < 64) && decide (b < 127)
  | .aor d a b => decide (d < 128) && decide (a < 64) && decide (b < 127)
  | .axor d a b => decide (d < 128) && decide (a < 64) && decide (b < 127)
  | .axch d a b => decide (d < 128) && decide (a < 64) && decide (b < 127)
  | .acas d a b => decide (d < 128) && decide (a < 64) && decide (b < 127)
  | .afadd d a b => decide (d < 128) && decide (a < 64) && decide (b < 127)
  | .redadd a b => decide (a < 64) && decide (b < 127)
  | .redfadd a b => decide (a < 64) && decide (b < 127)
  | .fence _ _ => true
  | .ldacq d a size _ => decide (d < 64) && decide (a < 64) && decide (size < 4)
  | .strel d a size _ => decide (d < 64) && decide (a < 64) && decide (size < 4)
  | .arrive _ n => decide (n < 16)
  | .await d _ n => decide (d < 64) && decide (n < 16)
  | .meet d _ n => decide (d < 64) && decide (n < 16)
  | .crit => true
  | .uncrit => true
  | .kjoin d a => decide (d < 64) && decide (a < 64)
  | .kleave => true
  | .kinfo d sel => decide (d < 64) && decide (sel < 4)
  | .cbwait d n => decide (d < 64) && decide (n < 16)
  | .cbpop n => decide (n < 16)
  | .cbpush n => decide (n < 16)
  | .cbinfo d n => decide (d < 64) && decide (n < 16)
  | .qpush d n => decide (d < 128) && decide (n < 8)
  | .qpop d n => decide (d < 128) && decide (n < 8)
  | .launch d a => decide (d < 64) && decide (a < 64)
  | .signal a b => decide (a < 64) && decide (b < 64)
  | .flip scope a => (if scope = .segment then decide (a < 64) else decide (a = 0))
  | .flipx scope a => (if scope = .segment then decide (a < 64) else decide (a = 0))
  | .flipc scope a => (if scope = .segment then decide (a < 64) else decide (a = 0))
  | .xfer d a => decide (d < 64) && decide (a < 64)
  | .xwait d a => decide (d < 64) && decide (a < 64)
  | .xstat d a => decide (d < 64) && decide (a < 64)
  | .tld d a => decide (d < 8) && decide (a < 64)
  | .tst d a => decide (d < 8) && decide (a < 64)
  | .tzero d => decide (d < 8)
  | .tmmaTile d a b => decide (d < 8) && decide (a < 8) && decide (b < 64)
  | .tmmaDesc d a b => decide (d < 8) && decide (a < 64) && decide (b < 64)
  | .tsoft d a b => decide (d < 8) && decide (a < 8) && decide (b < 64)
  | .tadd d a b => decide (d < 8) && decide (a < 8) && decide (b < 8)
  | .tmul d a b => decide (d < 8) && decide (a < 8) && decide (b < 8)
  | .tscl d => decide (d < 8)
  | .texp2 d a => decide (d < 8) && decide (a < 8)
  | .tcvt d a => decide (d < 8) && decide (a < 8)
  | .tmax d a b => decide (d < 8) && decide (a < 8) && decide (b < 8)
  | .trowred d a kind => decide (d < 8) && decide (a < 8) && decide (kind < 2)
  | .tfence d => decide (d < 64)
  | .twait a => decide (a < 64)
  | .force d _ => decide (d < 8)
  | .tmap d a b => decide (d < 8) && decide (a < 8) && decide (b < 64)
  | .trv d a quarter row => decide (d < 128) && decide (a < 8) && decide (quarter < 4) && decide (row < 32)
  | .tvr d a quarter row => decide (d < 8) && decide (a < 128) && decide (quarter < 4) && decide (row < 32)
  | .ckpt => true
  | .sigchk d => decide (d < 64)
  | .perf cls => decide (cls < 4)
  | .time d => decide (d < 64)
  | .cyc d => decide (d < 64)
  | .settimer a => decide (a < 64)
  | .idemp => true
  | .sysrd d a => decide (d < 64) && decide (a < 64)
  | .syswr d a => decide (d < 64) && decide (a < 64)
  | .pflip => true
  | .haltc a => decide (a < 64)
  | .tlbinv a b => decide (a < 64) && decide (b < 64)
  | .flipTakesEffect _ => true
  | .operandLogReplay _ => true
  | .timerExpiry _ => true
  | .strandPromotion _ => true
  | .critDeferralExpiry core => decide (core < 2048)
  | .transferStart _ _ => true
  | .walkerBeat _ _ => true
  | .gangPlacement => true
  | .launchPassover _ => true
  | .terminationSample _ die => decide (die < 4)
  | .notifyWrite fn _ queue _ => decide (fn < 17) && decide (queue < 65536)
  | .packetRead queue => decide (queue < 65536)
  | .taskReady _ => true
  | .launchPacket _ => true
  | .pinPacket _ => true
  | .unpinPacket _ => true
  | .signalPacket _ => true
  | .nopPacket _ => true
  | .taskRetirement _ => true
  | .commandTimeout _ => true
  | .coreError _ _ => true
  | .graphPoison _ => true
  | .preemption part => decide (part < 16)
  | .hotSpotLimit core => decide (core < 2048)
  | .migration _ => true
  | .migrationTransferRebind _ => true
  | .thermalClockLimit cluster => decide (cluster < 8)
  | .thermalTrip => true
  | .phaseLoss die => decide (die < 4)
  | .ballast granule _ => decide (granule < 16)
  | .powerControlTick _ _ _ => true
  | .patrolScrub _ => true
  | .ropeCompare _ _ => true
  | .logFullCheckpoint _ => true
  | .hostMemoryWrite fn _ at' bytes => decide (fn < 17) && decide (at'.offset + bytes.length ≤ 2 ^ 41) && decide (bytes.length ≤ 512)
  | .hostMemoryRead fn _ at' n => decide (fn < 17) && decide (at'.offset + n ≤ 2 ^ 41)
  | .queueRecordWrite queue => decide (queue < 65536)
  | .queueRecordRead queue => decide (queue < 65536)
  | .spanRecordWrite => true
  | .contextTearDown part asid => decide (part < 16) && decide (asid < 65536)
  | .meventClear _ => true
  | .registerWrite offset _ => decide (offset < 256)
  | .moduleReset => true
  | .startTimeout => true
  | .bootRetry => true
  | .spdmRequest ask => (match ask with
    | .measurement index _ => decide (index < 256)
    | .ideStart fn | .ideStop fn => decide (fn < 17)
    | _ => true)
  | .tdispLock vf => decide (vf < 16)
  | .tdispError vf => decide (vf < 16)
  | .hallCapMessage _ => true
  | .hallCapExpiry => true
  | .ieee1588Message _ => true
  | .flitReceive port flit => decide (port < 16) && decide (flit.length = 64)
  | .linkRetrainTimeout port => decide (port < 16)
  | .requestTimeout _ => true
  | .peerRequest req => req.places.all (fun w => decide (w < 32))
  | .peerResponse _ => true
  | .timeFlitSend => true
  | .timeFlitReceive port _ _ => decide (port < 16)
  | .spanHashCompare _ _ => true
  | .spanMatchTimeout _ => true
  | .invalidInstructionWord _ => true
  | .queueDescriptorError queue => decide (queue < 65536)
  | .partitionReconfiguration _ => true
  | .firmwareReady => true
  | .startStageFailure reason => decide (reason < 9)
  | .newImageWrite _ => true
  | .tdispRun vf => decide (vf < 16)
  | .tdispConfigUnlocked vf => decide (vf < 16)
  | .linkRetrained port => decide (port < 16)
  | .ptmMessage _ => true
  | .managementPortFrame _ => true
  | .thermalLimitRelease cluster => decide (cluster < 8)
  | .peerBarrierArrival _ _ _ => true

/-- The instructions without a word: the events of the device, and the word that is no instruction, which carries itself. -/
def Instr.isEvent : Instr → Bool
  | .flipTakesEffect _ | .operandLogReplay _ | .timerExpiry _ | .strandPromotion _ | .critDeferralExpiry _ | .transferStart _ _
  | .walkerBeat _ _ | .gangPlacement | .launchPassover _ | .terminationSample _ _ | .notifyWrite _ _ _ _ | .packetRead _ | .taskReady _
  | .launchPacket _ | .pinPacket _ | .unpinPacket _ | .signalPacket _ | .nopPacket _ | .taskRetirement _ | .commandTimeout _ | .coreError _ _
  | .graphPoison _ | .preemption _ | .hotSpotLimit _ | .migration _ | .migrationTransferRebind _ | .thermalClockLimit _ | .thermalTrip
  | .phaseLoss _ | .ballast _ _ | .powerControlTick _ _ _ | .patrolScrub _ | .ropeCompare _ _ | .logFullCheckpoint _ | .hostMemoryWrite _ _ _ _
  | .hostMemoryRead _ _ _ _ | .queueRecordWrite _ | .queueRecordRead _ | .spanRecordWrite | .contextTearDown _ _ | .meventClear _
  | .registerWrite _ _ | .moduleReset | .startTimeout | .bootRetry | .spdmRequest _ | .tdispLock _ | .tdispError _ | .hallCapMessage _
  | .hallCapExpiry | .ieee1588Message _ | .flitReceive _ _ | .linkRetrainTimeout _ | .requestTimeout _ | .peerRequest _ | .peerResponse _
  | .timeFlitSend | .timeFlitReceive _ _ _ | .spanHashCompare _ _ | .spanMatchTimeout _ | .invalidInstructionWord _ | .queueDescriptorError _
  | .partitionReconfiguration _ | .firmwareReady | .startStageFailure _ | .newImageWrite _ | .tdispRun _ | .tdispConfigUnlocked _
  | .linkRetrained _ | .ptmMessage _ | .managementPortFrame _ | .thermalLimitRelease _ | .peerBarrierArrival _ _ _ => true
  | _ => false

end Sys2Proof
end

