-- ==== Sys2Proof/Machine/State.lean ====
section
/-!
DEFINITION. The state of the GZ-7140 as plain data, its fault and refusal reasons, and the state after reset.
Sparse storage is a list of (index, value) pairs, indices rising; what an unlisted index reads as is said where the
storage is read (Machine/Cells.lean). Every table starts empty: at module reset no strand, team, launch or task exists.
-/
namespace Sys2Proof.Machine

/-- Why a step stops with a fault. -/
inductive Fault where
  /-- A word instruction was to be executed and no strand is current. Raised by every strand instruction; the spec has
  no instruction without a strand (R3). Safe: nothing is claimed to happen. -/
  | noStrand
  deriving DecidableEq, Repr

/-- Why a step is refused. -/
inductive Refusal where
  /-- An instruction the model gives no meaning yet, by its mnemonic. Raised by `exec` only. Safe. -/
  | notModelled (mnemonic : String)
  deriving DecidableEq, Repr

/-- Sparse storage by index. -/
abbrev Cells (α : Type) := List (Nat × α)

/-- Sparse bytes (Host.Cell): memory, scratchpad, instruction memory, tile store. -/
abbrev Bytes := List Host.Cell

/-! ### The strand's register state (R61) -/

/-- R24, R61: a vector register: its tag and its 32 lanes. -/
structure VReg where
  tag : Tag
  lanes : List Word
  deriving DecidableEq, Repr

/-- R153–R155: a tile. Word w of row r stands at index 128·r + w; unlisted words, side values and scales are 0. -/
structure Tile where
  tag : Tag
  words : Cells Word
  m : Cells Word
  l : Cells Word
  scales : Cells Half
  poison : List Nat
  deriving DecidableEq, Repr

/-- R167, R180: a tile descriptor as a node keeps it. -/
structure TileDesc where
  space : Nat
  tag : Tag
  kbytes : Nat
  steps : Nat
  sinc : Int
  spitch : Nat
  inc : Int
  pitch : Nat
  sbase : DWord
  base : DWord
  deriving DecidableEq, Repr

/-- A memory instruction with the source values it captured at issue (R68). Addresses are per lane, lane 0 first. -/
inductive MemReq where
  | load (d size : Nat) (addr : DWord) (reuse : Nat)
  | store (size : Nat) (addr data : DWord)
  | vload (d : Nat) (tag : Tag) (size : Nat) (addrs : List DWord) (act : Word) (reuse : Nat)
  | vstore (size : Nat) (addrs : List DWord) (data : List Word) (act : Word)
  | pref (addr : DWord) (reuse : Nat)
  | spload (d : Nat) (tag : Tag) (size : Nat) (addrs : List DWord) (act : Word)
  | spstore (size : Nat) (addrs : List DWord) (data : List Word) (act : Word)
  | spatomic (op : AtomicOp) (d : Nat) (tag : Tag) (addrs : List DWord) (xs expected : List Word) (act : Word)
  | atomic (op : AtomicOp) (d : Option Nat) (tag : Tag) (addrs : List DWord) (xs expected : List Word) (act : Word)
  | fence (scope : Scope) (kind : FenceKind)
  | ldacq (d size : Nat) (scope : Scope) (addr : DWord)
  | strel (size : Nat) (scope : Scope) (addr data : DWord)
  | arrive (level : BarLevel) (n : Nat)
  | await (d : Nat) (level : BarLevel) (n : Nat)
  | meet (d : Nat) (level : BarLevel) (n : Nat)
  | kjoin (d : Nat) (handle : DWord)
  | kleave
  | cbwait (d n : Nat)
  | cbpop (n : Nat)
  | cbpush (n : Nat)
  | cbinfo (d n : Nat)
  | qpush (n : Nat) (data : List Word) (act : Word)
  | qpop (d n : Nat) (act : Word)
  | launch (d : Nat) (addr : DWord)
  | submit (d : Nat) (addr : DWord) (packet : BitVec 512)
  | signal (addr value : DWord)
  | xfer (d : Nat) (addr : DWord)
  | xwait (d : Nat) (id : DWord)
  | xstat (d : Nat) (id : DWord)
  | tld (t : Nat) (addr : DWord)
  | tst (t : Nat) (addr : DWord)
  | tmmaTile (c a : Nat) (baddr : DWord)
  | tmmaDesc (c : Nat) (aaddr baddr : DWord)
  | twait (n : DWord)
  | ckpt
  | exit
  deriving DecidableEq, Repr

/-- R68: an entry of the operand log: the pc, the captured request and the mode bits it uses. -/
structure LogEntry where
  pc : Nat
  req : MemReq
  mode : Half
  deriving DecidableEq, Repr

/-- R61: the items marked "strand scope", one plane of them. -/
structure Slot where
  s : Cells DWord
  v : Cells VReg
  p : Cells Word
  mode : Half
  em : Word
  log : List LogEntry
  tiles : Cells Tile
  deriving DecidableEq, Repr

/-- The element-wise tile operations with two sources (R173). -/
inductive TileOp where
  | add | mul | max
  deriving DecidableEq, Repr

/-- R158, R176: the index maps a TMAP node may carry; `side` maps as IDENT. -/
inductive RowMap where
  | ident
  | shift (k : Int)
  | bcast (k : Nat)
  | trans
  | side
  deriving DecidableEq, Repr

/-- R181: where a TMMA node takes A from. -/
inductive AOperand where
  | tile (t : Nat) (tag : Tag)
  | desc (d : TileDesc)
  deriving DecidableEq, Repr

/-- R156: what a node computes, its sources among it. -/
inductive NodeOp where
  | tld (d : TileDesc)
  | tzero
  | tvr (row quarter : Nat) (lanes : List Word)
  | bin (op : TileOp) (ty : Tag) (a b : Nat)
  | texp2 (ty : Tag) (a : Nat)
  | tscl
  | tcvt (src dst : Tag) (a : Nat)
  | trowred (ty : Tag) (a kind : Nat)
  | tmap (map : RowMap) (a : Nat)
  | tmma (a : AOperand) (b : TileDesc)
  | tsoft (s : Nat) (c : Word)
  deriving DecidableEq, Repr

/-- R163: an address range of a descriptor source: space 0 memory, 1 local scratchpad, 2 tile store, 3 remote
scratchpad; the lowest and highest byte. -/
structure Range where
  space : Nat
  lo : Nat
  hi : Nat
  deriving DecidableEq, Repr

/-- R182, R190: a TMMA pass under way: its row groups, the steps done, its private accumulators by row and the flags raised, by group. `waits`: it
has been brought to another core, or back to one, and takes the matrix unit again when no other pass runs there (R183). -/
structure Pass where
  waits : Bool
  groups : List Nat
  step : Nat
  acc : Cells (List Word)
  flags : Cells (BitVec 5)
  deriving DecidableEq, Repr

/-- R156, R157: a live skein node. `id` rises in append order. `writes` is the write-group mask, `raised` what of `flags` each row group raised. -/
structure Node where
  id : Nat
  opcode : Nat
  op : NodeOp
  dst : Nat
  writes : BitVec 4
  pending : BitVec 4
  mode : Half
  appc : Nat
  batch : Word
  flags : BitVec 5
  raised : Cells (BitVec 5)
  ranges : List Range
  pass : Option Pass
  deriving DecidableEq, Repr

/-- R197: what a waiting strand waits for; `pass` is a demand whose node work is under way or
waits for the matrix unit, `line` one whose row group waits for a peer's line. -/
inductive Wait where
  | none
  | barrier
  | flip
  | ckpt
  | cb
  | xwait
  | xfer
  | logFull
  | logDrain
  | qpush
  | qpop
  | crit
  | launch
  | halt
  | pass
  | release
  | value
  | peer
  | line
  deriving DecidableEq, Repr

/-- R79, R258: how a strand stands. -/
inductive Run where
  | running | exited | killed
  deriving DecidableEq, Repr

/-- R273, R274, R291: a value the leader sent a counterpart: the register written (scalar or vector), word that its SYSRD has trapped, or the
boundary at which TIMER is taken. -/
inductive RopeValue where
  | scalar (v : DWord)
  | vector (v : VReg)
  | illegal
  | timer (count : Nat)
  deriving DecidableEq, Repr

/-- R271: consecutive bytes that one lane of a store writes. -/
structure BufItem where
  addr : DWord
  size : Nat
  data : DWord
  deriving DecidableEq, Repr

/-- R271: a compare-buffer entry: what the instruction at a PC stores to memory, or to remote windows, in lane order. -/
structure BufEntry where
  pc : Nat
  remote : Bool
  items : List BufItem
  deriving DecidableEq, Repr

/-- What a rope strand presents for comparison (R272, R285, R286): a release, a SIGCHK, or a fatal cause, `app` being the PC that its event
reports (R262). -/
inductive Presented where
  | release (seq : Nat) (sig : DWord) (req : MemReq)
  | implicit (seq : Nat) (sig : DWord)
  | sigchk (sig : DWord) (d : Nat)
  | cause (code pc app : Nat) (addr : DWord)
  deriving DecidableEq, Repr

/-- R138: a transfer descriptor, its fields. Levels 0 to 4 are list positions 0 to 4. -/
structure XDesc where
  src : DWord
  dst : DWord
  crec : DWord
  bounds : List Nat
  sstrides : List Int
  dstrides : List Int
  esize : Nat
  planes : Nat
  zelide : Bool
  skind : Nat
  dkind : Nat
  mcast : Nat
  cbnum : Nat
  cbslot : Nat
  cbcount : Nat
  deriving DecidableEq, Repr

/-- R137, R254: what a waiting XFER or LAUNCH has read once: its descriptor, its packet. -/
inductive Held where
  | xdesc (d : XDesc)
  | packet (p : BitVec 512)
  deriving DecidableEq, Repr

/-- R277: what a checkpoint saves of a strand beside the staging plane; `marks` are its MEETs and its CKPT that have arrived and not
completed, `buffer` and `sig` what it had not yet released at the checkpoint of a full log (R278, log 100). -/
structure StrandSave where
  pc : Nat
  flags : BitVec 5
  trapcause : DWord
  trappc : DWord
  trapaddr : DWord
  trapinfo : DWord
  epc : DWord
  trapvec : DWord
  timer : Option Nat
  timerDue : Bool
  ropeseq : Nat
  issued : Nat
  handled : Nat
  nodes : List Node
  batch : Word
  run : Run
  marks : Cells Nat
  buffer : List BufEntry
  sig : DWord
  deriving DecidableEq, Repr

/-- R128–R132: the flip a strand has issued and waits for: the opcode (0 FLIP, 1 FLIPX, 2 FLIPC), the scope and the segment
mask. At team and imem scope the waiting strands are those that have arrived at the gathering (R130). -/
structure FlipWait where
  op : Nat
  scope : FlipScope
  mask : DWord
  deriving DecidableEq, Repr

/-- One strand (R61 and the rules INVENTORY.md names for each field). `sel` false makes bank A the working plane;
`timer` is the strand timer, in resident cycles to
go from the present one on; `age` counts cycles since it last issued, `readyFor` those of them it has been ready (R198); `issued` counts the
instructions it has issued under a rope, so that a difference of two counts is R272's and R274's, `handled` those of them issued in a handler
(R272, log 105). `peerLines` are the words of peers' lines delivered
for the instruction it performs (R325), kept until it has consumed them (R185). `committed`: of the matched
release that it presents, its buffered stores have been performed (R242). -/
structure Strand where
  team : Nat
  idx : Nat
  replica : Nat
  sched : Bool
  slotNo : Nat
  bankA : Slot
  bankB : Slot
  sel : Bool
  pc : Nat
  flags : BitVec 5
  trapcause : DWord
  trappc : DWord
  trapaddr : DWord
  trapinfo : DWord
  epc : DWord
  trapvec : DWord
  timer : Option Nat
  timerDue : Bool
  cyc : Nat
  crit : Bool
  promoted : Bool
  age : Nat
  readyFor : Nat
  wait : Wait
  flip : Option FlipWait
  run : Run
  nodes : List Node
  nextNode : Nat
  batch : Word
  arrivals : Cells Nat
  sig : DWord
  ropeseq : Nat
  buffer : List BufEntry
  values : List RopeValue
  presented : Option Presented
  committed : Bool
  issued : Nat
  handled : Nat
  tstDone : Nat
  save : Option StrandSave
  peerLines : Cells (Cells Word)
  peerDone : List (Nat × Word)
  copied : Option Held
  deriving DecidableEq, Repr

/-! ### Teams, gangs and launches -/

/-- R228: a barrier entry. -/
structure Barrier where
  phase : Nat
  count : Nat
  gone : Nat
  abandoned : Bool
  spilled : Bool
  deriving DecidableEq, Repr

/-- R145, R147: the states of a transfer. -/
inductive XState where
  | done | queued | running | aborted | fault | suspended
  deriving DecidableEq, Repr

/-- R140–R147, R243: a transfer of a team's table. `banks` holds the members whose staging bank it is bound to with
that bank; `router` is the router whose context it holds; `peerLines` and `peerBad` are what a peer has delivered for its next beat and the
word addresses of it that are poisoned; `fault` is the cause of a failure that its rope has still to compare (R285; 0: none); `aborting` says
that a FLIPX ends it with the beat it has begun (R131). -/
structure Xfer where
  id : Nat
  desc : XDesc
  state : XState
  beats : Nat
  done : Nat
  banks : List (Nat × Bool)
  router : Option Nat
  order : Nat
  pc : Nat
  strand : Nat
  aborting : Bool
  failAddr : DWord
  failIter : List Nat
  paused : Bool
  peerLines : Cells (Cells Word)
  peerBad : List Nat
  fault : Nat
  deriving DecidableEq, Repr

/-- R148–R152: a circular buffer; `bank` is the bank that was working when the walker took the slot it holds. -/
structure CBuf where
  latched : Bool
  inbound : Bool
  bound : Option Nat
  base : Nat
  slotLog : Nat
  slots : Nat
  sidx : Nat
  widx : Nat
  filled : Nat
  free : Nat
  held : Bool
  bank : Bool
  deriving DecidableEq, Repr

/-- One plane of a scratchpad allocation, an imem half or a tile-store segment: its bytes and its poisoned 32-byte
sectors (R124, R136). -/
structure Bank where
  bytes : Bytes
  poison : List Nat
  deriving DecidableEq, Repr

/-- Two planes and their selector (R124). -/
structure Planes where
  a : Bank
  b : Bank
  sel : Bool
  deriving DecidableEq, Repr

/-- A resident team. `perfBy` is the strand that set its class in this cycle (R90). `ropeinj` is its ROPEINJ (R289, log 41). `synced`: it has performed an atomic or a release since it started (R91). -/
structure Team where
  launch : Nat
  gang : Nat
  index : Nat
  member : Nat
  core : Nat
  replica : Nat
  rope : Nat
  strands : List Nat
  sp : Planes
  xfers : List Xfer
  nextXfer : Nat
  cbs : Cells CBuf
  tbars : Cells Barrier
  idemp : Bool
  synced : Bool
  perfcls : Nat
  perfBy : Option Nat
  place : Nat
  restarts : Nat
  knit : Nat
  knitMember : Nat
  knitCluster : Nat
  plane : Bool
  ropeinj : DWord
  deriving DecidableEq, Repr

/-- R256: an element of a gang queue: the word and its poison bit. -/
structure QElem where
  word : Word
  poison : Bool
  deriving DecidableEq, Repr

/-- R256: a gang queue, oldest first, with the strands that wait to push and to pop, in order of arrival. -/
structure GangQueue where
  elems : List QElem
  pushers : List Nat
  poppers : List Nat
  deriving DecidableEq, Repr

/-- A placed gang. `core` is member 0's core; `barCore` the core in whose share of the barrier table its entries stand, which a
migration leaves (R203); `moving` is the device time at which a migration was ordered, `stopped` that at which its strands had
stopped for it (R204). -/
structure Gang where
  launch : Nat
  index : Nat
  cluster : Nat
  core : Nat
  barCore : Nat
  replica : Nat
  teams : List Nat
  segs : List Planes
  segSlices : List Nat
  queues : Cells GangQueue
  gbars : Cells Barrier
  moving : Option Nat
  stopped : Option Nat
  deriving DecidableEq, Repr

/-- R262: completion classes. -/
inductive Cls where
  | ok | strandKilled | translation | permission | uncorrectable | queuePoison | diverged | discarded | aborted | timeout
  deriving DecidableEq, Repr

/-- R262: the error event that set CLASS. -/
structure ErrEvent where
  cls : Cls
  addr : DWord
  team : Nat
  strand : Nat
  hub : Bool
  pc : Nat
  unit : Nat
  cause : Nat
  deriving DecidableEq, Repr

/-- R20: the kernel header's fields. -/
structure Header where
  dataSize : Nat
  ovlCount : Nat
  ovlTable : Nat
  entry : Nat
  handler : Nat
  trapen : BitVec 5
  lbar : Nat
  gbarRange : Nat
  gbar : Nat
  tbar : Nat
  ropedef : Nat
  ropeok : Nat
  gang : Nat
  cbufs : Nat
  spbytes : Nat
  skein : Nat
  tiles : Nat
  strands : Nat
  vregs : Nat
  world : Bool
  idemp : Bool
  version : Nat
  magic : Nat
  reservedZero : Bool
  deriving DecidableEq, Repr

/-- R135: a launch's instruction-memory half on one core. -/
structure Imem where
  planes : Planes
  deriving DecidableEq, Repr

/-- R257: a termination sample: sent and received counts and when it was taken. -/
structure Sample where
  sent : Nat
  received : Nat
  when : Nat
  deriving DecidableEq, Repr

/-- A launch that was handed to the dispatcher (a command). `order` is its place among the launches that became RUNNING (R253), `eventAt` the
device time of `event`. -/
structure Launch where
  queue : Nat
  task : Nat
  part : Nat
  asid : Nat
  secure : Bool
  plane : Bool
  prio : Nat
  kernel : DWord
  args : DWord
  nx : Nat
  ny : Nat
  nz : Nat
  segs : Nat
  rope : Nat
  header : Header
  code : List Byte
  spanParts : Nat
  spanIndex : Nat
  nextGang : Nat
  started : Option Nat
  order : Nat
  passedSince : Option Nat
  blocking : Bool
  imems : Cells Imem
  rbars : Cells Barrier
  lbars : Cells Barrier
  sent : Cells Nat
  received : Cells Nat
  sample : Cells Sample
  terminated : List Nat
  torn : Option Cls
  event : Option ErrEvent
  eventAt : Nat
  count : Nat
  restarts : Nat
  dropped : List (Nat × Nat)
  deriving DecidableEq, Repr

/-! ### Ropes -/

/-- R275: a log entry: strand, sequence number, signature, and the results of an atomic, QPOP or LAUNCH. -/
structure RopeLog where
  strand : Nat
  seq : Nat
  sig : DWord
  vec : Option VReg
  scalar : Option DWord
  deriving DecidableEq, Repr

/-- R282: a rollback that is under way: its EVENT code, the pc and sequence number it names, and each replica's `%trapinfo`. -/
structure RopeHalt where
  event : Nat
  pc : Nat
  seq : Nat
  infos : Cells DWord
  deriving DecidableEq, Repr

/-- R275, R281, R287: what a rope team keeps: its replicas' teams (leader first), the log, the event counters, the rollback under way. -/
structure Rope where
  teams : List Nat
  log : List RopeLog
  retry : Nat
  mismatches : Nat
  minorities : Cells Nat
  event : Cells Nat
  logFull : Bool
  rolling : Option RopeHalt
  saveXfers : Cells (List Xfer)
  saveNextXfer : Cells Nat
  saveSegs : Cells (List Bool)
  saveImem : Cells Bool
  deriving DecidableEq, Repr

/-! ### Cores and clusters -/

/-- R211: the states of a word in an L1; INVALID words are not listed. -/
inductive L1State where
  | valid
  | dirty (mask : BitVec 4)
  | owned (level : Nat)
  | update (floating : Bool)
  deriving DecidableEq, Repr

/-- A word present in an L1, whether the copy holds poison (R292), the launch whose store made it DIRTY (R259; 0: none), and what a failure of
that store at a peer's home reports (R325). -/
structure L1Word where
  st : L1State
  data : Word
  poison : Bool
  owner : Nat
  report : Option ErrEvent
  deriving DecidableEq, Repr

/-- R205–R207: an L1 line: the alias it is present under, its physical line (or a peer's), the permission it was
filled with, its way, its RRIP value, and its words by number 0 to 31. -/
structure L1Line where
  asid : Nat
  vline : Nat
  pline : Nat
  peer : Option Nat
  readable : Bool
  writable : Bool
  way : Nat
  rrip : Nat
  words : Cells L1Word
  deriving DecidableEq, Repr

/-- R198: a scheduler: whether it has issued in this cycle, the consecutive slots it gave to critical strands while a
promoted one was ready, the charge of its last instruction, that of the one it issued in the previous cycle (0 if none),
and the strands waiting in CRIT, oldest first. -/
structure Sched where
  issued : Bool
  critRun : Nat
  charge : Nat
  last : Nat
  critWait : List Nat
  deriving DecidableEq, Repr

/-- A core; `hot` is what the thermal controller marks, `retired` a core out of service. `haltAsked` is the device time at which a stop was requested that CRIT deferral still holds back (R94). -/
structure Core where
  l1 : List L1Line
  s0 : Sched
  s1 : Sched
  halted : Bool
  haltAsked : Option Nat
  hot : Bool
  retired : Bool
  deriving DecidableEq, Repr

/-- R208, R330: a word an L2 slice holds of a line homed elsewhere; `written` marks the bytes not yet written home; `poison`: the copy
holds poison (R292). -/
structure L2Word where
  data : Word
  written : BitVec 4
  level : Nat
  poison : Bool
  deriving DecidableEq, Repr

/-- R205, R206, R208: a line present in an L2 slice: its way, its RRIP value, and its words by number 0 to 31. A line homed in the cluster
itself lists none: the slice is its home. -/
structure L2Line where
  way : Nat
  rrip : Nat
  words : Cells L2Word
  deriving DecidableEq, Repr

/-- R228: whose entry stands in a place of a cluster's barrier table: barrier `n` of a team, a gang, or a launch (range or launch level). -/
inductive BarOwner where
  | team (tid n : Nat)
  | gang (gid n : Nat)
  | range (lid n : Nat)
  | launch (lid n : Nat)
  deriving DecidableEq, Repr

/-- R219: a knit table entry that is taken; its members by index. -/
structure Knit where
  gen : Word
  used : Bool
  part : Nat
  secure : Bool
  members : Cells Nat
  deriving DecidableEq, Repr

/-- A cluster: L2 lines by physical line number, TLB entries (ASID, page base), newest first, knit table, barrier table by place, charge register (R300),
cycles of its clock and the hundredths of a cycle that device time owes it beside them (R302), TARGET (R301), the highest clock the limits allow it in 10 MHz (R302), whether its thermal limit
binds (R306). -/
structure Cluster where
  l2 : Cells L2Line
  tlb : List (Nat × Nat)
  knits : Cells Knit
  bars : Cells BarOwner
  charge : DWord
  cycles : Nat
  phase : Nat
  target : Nat
  clock : Nat
  thermal : Bool
  deriving DecidableEq, Repr

/-! ### Memory -/

/-- R210, R247, R325: a page of an address space: its base and size, its frame once pinned, or its home on a peer, its permissions, the frame
that it shares copy-on-write, its pins, each by the partition whose queue made it (R260), and the physical addresses of the page-table entries
that a walk for it reads (R299, log 70). -/
structure Page where
  asid : Nat
  base : Nat
  size : Nat
  frame : Option Nat
  peer : Option Nat
  readable : Bool
  writable : Bool
  shared : Option Nat
  pins : List Nat
  table : List Nat
  deriving DecidableEq, Repr

/-! ### The hub -/

/-- R244: a queue descriptor with its doorbell index; `stopped` is R246's stop until the next notify; `consumed` counts the packets entered and
`launches` the LAUNCH packets among them (R328). -/
structure Queue where
  ring : DWord
  rptr : DWord
  asid : Nat
  msix : Nat
  sigirq : Bool
  secure : Bool
  part : Nat
  prio : Nat
  slotlog : Nat
  plane : Bool
  ridx : Word
  error : Bool
  enable : Bool
  doorbell : Word
  stopped : Bool
  consumed : Nat
  launches : Nat
  deriving DecidableEq, Repr

/-- R249: the states of a task. -/
inductive TaskState where
  | expected | waiting | ready | running | retiring
  deriving DecidableEq, Repr

/-- R249: a task control block that is not FREE. `desc` is its queue's descriptor as the packet was entered (R245, R254),
`seqNo` its place among the queue's packets, `launchNo` its place among its LAUNCH packets (R328), `phase` the steps of R252 whose writes have
been made, and `since` the device time; `launch` names the launch it runs, `parent` the
launch that submitted it by LAUNCH. -/
structure Task where
  state : TaskState
  count : Int
  packet : BitVec 512
  queue : Nat
  desc : Queue
  seqNo : Nat
  launchNo : Nat
  phase : Nat
  succs : List Nat
  worst : Cls
  failedPred : Bool
  launch : Option Nat
  parent : Option Nat
  cls : Cls
  event : Option ErrEvent
  poisoned : Bool
  spanOk : Bool
  since : Nat
  deriving DecidableEq, Repr

/-- R295, R297, R304, R310: a configured partition. `plane` false is context A working (R329); `requests` are the exchanges
asked for, oldest first: the key of the strand whose PFLIP asks, or 0 for firmware (R298); `loaded`: firmware has loaded the incoming
context for the oldest request. `ballast` is the charge that ballast has added on its granules and that is not yet repaid, `ballastAt` the device time at
which the last of it ends (R308). -/
structure Partition where
  pcfg : DWord
  ptarget : Nat
  cmdlimit : Nat
  rank : Nat
  pcap : Nat
  lim : Nat
  cause : Nat
  active : Nat
  duty : Nat
  plane : Bool
  requests : List Nat
  loaded : Bool
  ballast : DWord
  ballastAt : Option Nat
  deriving DecidableEq, Repr

/-- R315, R316: an entry of a function's MSI-X table: message address, message data, and the mask bit of its vector control. -/
structure MsixEntry where
  addr : DWord
  data : Word
  masked : Bool
  deriving DecidableEq, Repr

/-- R292, R317: the completion of a host read: its data, and whether it was delivered poisoned. -/
structure HostRead where
  data : List Byte
  poisoned : Bool
  deriving DecidableEq, Repr

/-- R325: a line of a peer's home that a hub unit has read, for a user (log 111: 3 · queue for a ring, 3 · task + 1 for a task, 3 · strand + 2 for a LAUNCH) in an address space and
world: the words delivered, or the code of the failure. -/
structure HubLine where
  user : Nat
  asid : Nat
  secure : Bool
  line : Nat
  words : Cells Word
  fail : Nat
  deriving DecidableEq, Repr

/-- R315–R321: the hub's registers the host reaches, the MSI-X writes sent (function, vector), the MSI-X tables and pending bits (key
4,096 · function + vector), the completions of host reads, the SPDM answers, the functions that hold an IDE stream, the device times sent as
PTM responses, the contexts (partition, ASID) whose tear-down runs (R260), and the lines of peers that its units work on (R325). -/
structure Hub where
  mtarget : Nat
  mevent : DWord
  mdiscard : Nat
  mrec : List DWord
  mop : Nat
  mpart : Nat
  mqueue : Nat
  mstatus : Nat
  msix : List (Nat × Nat)
  msixTable : Cells MsixEntry
  msixPending : List Nat
  tearing : List (Nat × Nat)
  nextTask : Nat
  xferOrder : Nat
  runOrder : Nat
  reads : List HostRead
  answers : List (List Byte)
  ide : List Nat
  ptm : List Nat
  lines : List HubLine
  deriving DecidableEq, Repr

/-- R319: the states of a TDISP device interface. -/
inductive Tdisp where
  | configUnlocked | configLocked | run | error
  deriving DecidableEq, Repr

/-- R309, R311: the hall message in force. -/
structure Hall where
  seq : DWord
  thresh : Nat
  capfrac : Nat
  modcap : Nat
  expiry : Option Nat
  deriving DecidableEq, Repr

/-- R297, R303–R311: power and thermal state: MODLIM, UNCORE, working phases of each die's rail, the hall message in force, the last
accepted SEQ, and whether the thermal trip has stopped the module. -/
structure Power where
  modlim : Nat
  uncore : Nat
  phases : List Nat
  hall : Option Hall
  lastSeq : Option DWord
  stopped : Bool
  deriving DecidableEq, Repr

/-- R312–R314: the boot state: the image slots, the root of trust's counter, the started image, whether a start is under way
and since when, the boot status, and whether the host has written a new image. -/
structure Boot where
  slots : List Image
  counter : Nat
  image : Option Image
  reason : Nat
  stage : Nat
  fails : Nat
  minimal : Bool
  starting : Bool
  ready : Bool
  since : Nat
  newImage : Bool
  deriving DecidableEq, Repr

/-- R322, R323: a Jalino port: whether it is up, since when it retrains, the last SEQ received in order, the last sent and the
last acknowledged, that of the last good flit, consecutive replays of the neighbour's and of its own, the flits not yet acknowledged, all that it has put on the link, in order,
those delivered, the credits returned by channel, and the delay measured to the neighbour. -/
structure Port where
  up : Bool
  retraining : Option Nat
  rxSeq : Nat
  txSeq : Nat
  acked : Nat
  seen : Nat
  replays : Nat
  resends : Nat
  sent : List (List Byte)
  wire : List (List Byte)
  received : List (List Byte)
  credits : List Nat
  delay : Nat
  deriving DecidableEq, Repr

/-- R325: what a request that a hub unit makes is for: nothing of the hub's; a line read for one of its users; a word of a ring's slot or RPTRADDR;
a completion entry; a completion signal; the addition of a SIGNAL packet. `dropped` marks a read, of a hub unit's or of a strand's, that nothing waits for
any more. -/
inductive HubUse where
  | none
  | dropped
  | read (user : Nat)
  | ring (queue : Nat)
  | entry (task : Nat)
  | signal (task : Nat)
  | packet (task : Nat)
  deriving DecidableEq, Repr

/-- R325: an outstanding request to a peer: the strand that waits (0: none) or the transfer (team, id) it was made for, when it was
sent, the address it serves; `launch` where no strand waits (0: not known); the core through whose L1 it was made, and the reuse class of a
read (R53). `places` are the lanes of an atomic's operands. `stale` says what the core has done since a read was sent: 1 an acquire, or a fill
of the line by a later response, 2 a write of the line to its home (log 107). `report` is the instruction that a failure names where no strand waits; `hub` what a hub unit makes the request for. -/
structure PeerOut where
  strand : Nat
  launch : Nat
  stale : Nat
  report : Option ErrEvent
  hub : HubUse
  core : Option Nat
  reuse : Nat
  places : List Nat
  xfer : Option (Nat × Nat)
  sent : Nat
  req : PeerReq
  home : Nat
  vaddr : DWord
  deriving DecidableEq, Repr

/-- R327: a span record bound to a queue. -/
structure Span where
  devs : List Nat
  spanId : Nat
  ndev : Nat
  index : Nat
  deriving DecidableEq, Repr

/-- R328: what a part of a spanning launch tells the others over VC 2: the hash of a LAUNCH packet, with its queue and its place among the queue's
LAUNCH packets, or a message about a launch barrier. -/
inductive PartMsg where
  | hash (queue place : Nat) (value : DWord)
  | barrier (launch number : Nat) (kind : PeerBarrier)
  deriving DecidableEq, Repr

/-- R324–R328: the fabric: this device's id, ports, hop distances (the scope table), import table, requests, spans,
time source (0 free-running, 1 IEEE 1588, 2 PTM) and whether it is locked, the correction still to be slewed and the nanoseconds
since a nanosecond of it was last made, whether the one forward step is used up, the microsecond of the last time flits (R326), and what
its parts of spanning launches have told the other parts, oldest first (R328). -/
structure Fabric where
  id : Nat
  ports : Cells Port
  hops : Cells Nat
  imports : List ((Nat × Nat) × (Nat × Bool))
  outstanding : Cells PeerOut
  nextTag : Nat
  responses : List PeerResp
  spans : Cells Span
  timeSource : Nat
  locked : Bool
  slew : Int
  slewed : Nat
  stepped : Bool
  timeSent : Nat
  told : List PartMsg
  deriving DecidableEq, Repr

/-! ### The whole machine -/

/-- The schedule of the model (log 4): which agent moves next. `issue` gives a scheduler a slot, `wake` lets a waiting strand's
instruction or its TIMER go on, `event` lets an event occur, `pass` lets a moment of time go by, and `dropOwner` lets a registry drop a
registration (R215). -/
inductive Turn where
  | issue (core : Nat) (sched : Bool)
  | wake (strand : Nat)
  | event (e : Instr)
  | pass
  | dropOwner (core asid vline word : Nat)
  deriving DecidableEq, Repr

/-- The state of the module. `poison` lists poisoned 32-byte sectors (R292), `secure` the secure 2 MiB regions (R299),
`assigned` the partition a region is assigned to (R316). `cur` is the key of the strand whose instruction is being executed; `turns` and `fresh`
are the model's own (log 3, log 4). -/
structure State where
  turns : List Turn
  fresh : Nat
  time : Nat
  cur : Nat
  nextId : Nat
  strands : Cells Strand
  teams : Cells Team
  gangs : Cells Gang
  launches : Cells Launch
  ropes : Cells Rope
  tasks : Cells Task
  queues : Cells Queue
  cores : Cells Core
  clusters : Cells Cluster
  parts : Cells Partition
  mem : Bytes
  poison : List Nat
  secure : List Nat
  assigned : Cells Nat
  pages : List Page
  hub : Hub
  tdisp : Cells Tdisp
  power : Power
  boot : Boot
  fabric : Fabric
  deriving DecidableEq, Repr

/-- R321, R244, R316: the hub at reset. -/
def Hub.reset : Hub :=
  { mtarget := 0, mevent := 0, mdiscard := 0, mrec := [0, 0, 0, 0], mop := 0, mpart := 0, mqueue := 0, mstatus := 0
    msix := [], msixTable := [], msixPending := [], tearing := [], nextTask := 131072, xferOrder := 0, runOrder := 0, reads := [], answers := []
    ide := [], ptm := [], lines := [] }

/-- R297, R304, R312: no hall message is in force after reset; all sixteen phases of each rail work. -/
def Power.reset : Power :=
  { modlim := 3600, uncore := 0, phases := [16, 16, 16, 16], hall := none, lastSeq := none, stopped := false }

/-- R312–R314: no start has been made. -/
def Boot.reset : Boot :=
  { slots := [], counter := 0, image := none, reason := 0, stage := 0, fails := 0, minimal := false, starting := false, ready := false
    since := 0, newImage := false }

/-- R324–R328: before discovery the device has id 0, no peers and no spans. -/
def Fabric.reset : Fabric :=
  { id := 0, ports := [], hops := [], imports := [], outstanding := [], nextTag := 0, responses := [], spans := []
    timeSource := 0, locked := false, slew := 0, slewed := 0, stepped := false, timeSent := 0, told := [] }

/-- The module right after reset: nothing placed, memory with nothing listed. -/
def State.reset : State :=
  { turns := [], fresh := 0, time := 0, cur := 0, nextId := 1
    strands := [], teams := [], gangs := [], launches := [], ropes := [], tasks := [], queues := []
    cores := [], clusters := [], parts := [], mem := [], poison := [], secure := [], assigned := [], pages := []
    hub := Hub.reset, tdisp := [], power := Power.reset, boot := Boot.reset, fabric := Fabric.reset }

end Sys2Proof.Machine
end

