-- ==== Sys2Proof/Machine/Cells.lean ====
section
/-!
DEFINITION. Sparse storage: lists of (index, value) with indices strictly rising. A table (`cfind`, `cput`) lists what
exists; a store with a default (`cget`, `cset`) never lists the default, so that equal contents are equal lists.
-/
namespace Sys2Proof.Machine

/-- The entry of a table, if listed. -/
def cfind {α : Type} (m : Cells α) (k : Nat) : Option α :=
  match m with
  | [] => none
  | (a, v) :: t => if a = k then some v else cfind t k

/-- The table with entry `k` set. -/
def cput {α : Type} (m : Cells α) (k : Nat) (v : α) : Cells α :=
  m.filter (fun e => decide (e.1 < k)) ++ (k, v) :: m.filter (fun e => decide (k < e.1))

/-- The table without entry `k`. -/
def cdel {α : Type} (m : Cells α) (k : Nat) : Cells α := m.filter (fun e => decide (e.1 ≠ k))

/-- The value a store holds at `k`; `d` is what an unlisted index reads as. -/
def cget {α : Type} (d : α) (m : Cells α) (k : Nat) : α := (cfind m k).getD d

/-- The entries of consecutive values from index `lo`, defaults left out. -/
def cspan {α : Type} [DecidableEq α] (d : α) (lo : Nat) (vs : List α) : Cells α :=
  match vs with
  | [] => []
  | v :: t => if v = d then cspan d (lo + 1) t else (lo, v) :: cspan d (lo + 1) t

/-- The store with consecutive indices from `lo` holding `vs`. -/
def csetRange {α : Type} [DecidableEq α] (d : α) (m : Cells α) (lo : Nat) (vs : List α) : Cells α :=
  m.filter (fun e => decide (e.1 < lo)) ++ (cspan d lo vs ++ m.filter (fun e => decide (lo + vs.length ≤ e.1)))

/-- The store with index `k` holding `v`. -/
def cset {α : Type} [DecidableEq α] (d : α) (m : Cells α) (k : Nat) (v : α) : Cells α := csetRange d m k [v]

/-- The canonical form of a table: indices strictly rising. -/
def rising {α : Type} : Cells α → Bool
  | [] => true
  | [_] => true
  | (a, _) :: (b, v) :: t => decide (a < b) && rising ((b, v) :: t)

/-- The canonical form of a store: indices strictly rising and no default listed. -/
def canonical {α : Type} [DecidableEq α] (d : α) (m : Cells α) : Bool :=
  rising m && m.all (fun e => decide (e.2 ≠ d))

/-- What a byte of memory, scratchpad, instruction memory or tile store that nothing has written reads as: 0
(log 1, log 2). -/
def unlistedByte : Byte := 0

/-- The memory's canonical form. -/
abbrev Memory.wf (m : Bytes) : Bool := canonical unlistedByte m

/-- One byte of a byte store. -/
def readByte (m : Bytes) (a : Nat) : Byte := cget unlistedByte m a

/-- `n` bytes from `a`. -/
def readBytes (m : Bytes) (a n : Nat) : List Byte := (List.range n).map (fun i => readByte m (a + i))

/-- Bytes written from `a` upward. -/
def writeBytes (m : Bytes) (a : Nat) (bs : List Byte) : Bytes := csetRange unlistedByte m a bs

/-- The number little-endian bytes form. -/
def leNat : List Byte → Nat
  | [] => 0
  | b :: t => b.toNat + 256 * leNat t

/-- The low `n` bytes of a number, little-endian. -/
def leBytes (n v : Nat) : List Byte := (List.range n).map (fun i => BitVec.ofNat 8 (v / 256 ^ i))

/-- The 4-byte little-endian word at `a`. -/
def readWord (m : Bytes) (a : Nat) : Word := BitVec.ofNat 32 (leNat (readBytes m a 4))

/-- A 4-byte little-endian word written at `a`. -/
def writeWord (m : Bytes) (a : Nat) (w : Word) : Bytes := writeBytes m a (leBytes 4 w.toNat)

/-- Bits high:low of a number (R4). -/
def bits (v hi lo : Nat) : Nat := v / 2 ^ lo % 2 ^ (hi + 1 - lo)

/-- The signed value of an n-bit field. -/
def signed (n v : Nat) : Int := if v < 2 ^ (n - 1) then v else (v : Int) - 2 ^ n

/-- Bit `i` of a number. -/
def bitAt (v i : Nat) : Bool := v / 2 ^ i % 2 == 1

/-- An address as a number, modulo 2^64 (R113). -/
def addr64 (x : Int) : DWord := BitVec.ofInt 64 x

/-- Whether a list of numbers holds `k`; the small sets of the state (poisoned sectors, arrived strands). -/
def member (l : List Nat) (k : Nat) : Bool := l.contains k

/-- A number put into a set kept as a rising list. -/
def setInsert (l : List Nat) (k : Nat) : List Nat :=
  l.filter (fun x => decide (x < k)) ++ k :: l.filter (fun x => decide (k < x))

/-- A number removed from a set. -/
def setErase (l : List Nat) (k : Nat) : List Nat := l.filter (fun x => decide (x ≠ k))

/-- Every entry of a table changed by a function of its key and value. -/
def cmap {α : Type} (f : Nat → α → α) (m : Cells α) : Cells α := m.map (fun e => (e.1, f e.1 e.2))

/-- The first key of a table whose entry satisfies a test. -/
def cwhere {α : Type} (m : Cells α) (f : Nat → α → Bool) : Option Nat :=
  match m with
  | [] => none
  | (k, v) :: t => if f k v then some k else cwhere t f

end Sys2Proof.Machine
end

