-- ==== Sys2Proof/Machine/Regs.lean ====
section
/-!
DEFINITION. Registers and tables: the accessors through which every register, strand, team, gang and launch is read
and written, and the fields of the mode register.
-/
namespace Sys2Proof.Machine

/-! ### Vector registers -/

/-- R61: a vector register at strand start: bits 0, tag RAW. -/
def VReg.start : VReg := { tag := .raw, lanes := List.replicate 32 0 }

/-- Lane `i` of a register. -/
def VReg.lane (v : VReg) (i : Nat) : Word := v.lanes.getD i 0

/-- A register given lane by lane. -/
def VReg.ofFn (t : Tag) (f : Nat → Word) : VReg := { tag := t, lanes := (List.range 32).map f }

/-- Bit `i` of a lane mask. -/
def laneOn (m : Word) (i : Nat) : Bool := m.getLsbD i

/-- A lane mask given lane by lane. -/
def maskOf (f : Nat → Bool) : Word := BitVec.ofNat 32 ((List.range 32).foldl (fun acc i => acc + (if f i then 2 ^ i else 0)) 0)

/-- The active lanes of a mask, ascending. -/
def lanesOf (m : Word) : List Nat := (List.range 32).filter (laneOn m)

/-- R64: `new` in the lanes of `act`, `old` elsewhere, under tag `t`. -/
def VReg.merge (old : VReg) (t : Tag) (act : Word) (new : Nat → Word) : VReg :=
  VReg.ofFn t (fun i => if laneOn act i then new i else old.lane i)

/-! ### The strand slot (R61) -/

/-- R61, R153: the strand-scope items at strand start, with `n` tiles. -/
def Slot.start (tiles : Nat) : Slot :=
  { s := [], v := [], p := [], mode := 0, em := 0xFFFFFFFF, log := []
    tiles := (List.range tiles).map (fun t => (t, { tag := .raw, words := [], m := [], l := [], scales := [], poison := [] })) }

/-- The working plane of the strand slot (R124). -/
def Strand.slot (st : Strand) : Slot := if st.sel then st.bankB else st.bankA

/-- The staging plane of the strand slot. -/
def Strand.staging (st : Strand) : Slot := if st.sel then st.bankA else st.bankB

/-- The strand with its working plane replaced. -/
def Strand.withSlot (st : Strand) (x : Slot) : Strand :=
  if st.sel then { st with bankB := x } else { st with bankA := x }

/-- The strand with its staging plane replaced. -/
def Strand.withStaging (st : Strand) (x : Slot) : Strand :=
  if st.sel then { st with bankA := x } else { st with bankB := x }

/-- R61: scalar `n`; s0 reads 0. -/
def Strand.getS (st : Strand) (n : Nat) : DWord := if n = 0 then 0 else cget 0 st.slot.s n

/-- R51, R61: scalar `n` written; a write to s0 is discarded. -/
def Strand.setS (st : Strand) (n : Nat) (v : DWord) : Strand :=
  if n = 0 then st else st.withSlot { st.slot with s := cset 0 st.slot.s n v }

/-- Vector register `n`. -/
def Strand.getV (st : Strand) (n : Nat) : VReg := cget VReg.start st.slot.v n

/-- Vector register `n` written, tag included (R26). -/
def Strand.setV (st : Strand) (n : Nat) (v : VReg) : Strand :=
  st.withSlot { st.slot with v := cset VReg.start st.slot.v n v }

/-- Predicate `n`. -/
def Strand.getP (st : Strand) (n : Nat) : Word := cget 0 st.slot.p n

/-- Predicate `n` written. -/
def Strand.setP (st : Strand) (n : Nat) (v : Word) : Strand :=
  st.withSlot { st.slot with p := cset 0 st.slot.p n v }

/-- `%mode` (R62). -/
def Strand.mode (st : Strand) : Half := st.slot.mode
/-- `%mode` written whole. -/
def Strand.setMode (st : Strand) (m : Half) : Strand := st.withSlot { st.slot with mode := m }
/-- `%em` (R65). -/
def Strand.em (st : Strand) : Word := st.slot.em
/-- `%em` written. -/
def Strand.setEm (st : Strand) (m : Word) : Strand := st.withSlot { st.slot with em := m }
/-- The operand log (R68). -/
def Strand.log (st : Strand) : List LogEntry := st.slot.log
/-- The operand log replaced. -/
def Strand.setLog (st : Strand) (l : List LogEntry) : Strand := st.withSlot { st.slot with log := l }

/-- R153: an absent tile reads as a tile at start; the issue check keeps numbers below TILES. -/
def Tile.start : Tile := { tag := .raw, words := [], m := [], l := [], scales := [], poison := [] }
/-- Tile `t` of the working plane. -/
def Strand.getT (st : Strand) (t : Nat) : Tile := (cfind st.slot.tiles t).getD Tile.start
/-- Tile `t` of the working plane replaced. -/
def Strand.setT (st : Strand) (t : Nat) (x : Tile) : Strand :=
  st.withSlot { st.slot with tiles := cput st.slot.tiles t x }

/-- The pc advanced past one word (R49). -/
def Strand.advance (st : Strand) : Strand := { st with pc := st.pc + 4 }

/-! ### Fields of the mode register (R62) -/

/-- R62: TYPE. -/
def modeType (m : Half) : Tag := (tagOfCode (m.toNat % 32)).getD .raw
/-- R62: GUARD. -/
def modeGuard (m : Half) : Nat := m.toNat / 32 % 16
/-- R62: ROUND. -/
def modeRound (m : Half) : Nat := m.toNat / 512 % 8
/-- R62: SAT. -/
def modeSat (m : Half) : Bool := m.getLsbD 12
/-- R62: FLUSH. -/
def modeFlush (m : Half) : Bool := m.getLsbD 13

/-- R63: the guard mask. -/
def Strand.guardMask (st : Strand) : Word :=
  let g := modeGuard st.mode
  if g = 0 then 0xFFFFFFFF else if g < 8 then ~~~ st.getP g else st.getP (g - 8)

/-- R64: the active lanes of an instruction that reads the guard. -/
def Strand.active (st : Strand) : Word := st.em &&& st.guardMask

/-- The element type of the mode. -/
def Strand.ty (st : Strand) : Tag := modeType st.mode

/-! ### Tables of the state -/

/-- A bank with nothing written. -/
def Bank.empty : Bank := { bytes := [], poison := [] }
/-- Two planes with nothing written. -/
def Planes.empty : Planes := { a := Bank.empty, b := Bank.empty, sel := false }
/-- The working plane (R124). -/
def Planes.work (p : Planes) : Bank := if p.sel then p.b else p.a
/-- The staging plane. -/
def Planes.stage (p : Planes) : Bank := if p.sel then p.a else p.b
/-- The bank with a given selector value. -/
def Planes.bank (p : Planes) (i : Bool) : Bank := if i then p.b else p.a
/-- A bank replaced. -/
def Planes.withBank (p : Planes) (i : Bool) (x : Bank) : Planes := if i then { p with b := x } else { p with a := x }
/-- The working plane replaced. -/
def Planes.withWork (p : Planes) (x : Bank) : Planes := p.withBank p.sel x
/-- R131: FLIP and FLIPX invert the selector. -/
def Planes.flip (p : Planes) : Planes := { p with sel := !p.sel }
/-- R131: FLIPC copies working to staging, poison included. -/
def Planes.copy (p : Planes) : Planes := p.withBank (!p.sel) p.work

/-- The strand that executes. -/
def State.strand? (s : State) : Option Strand := cfind s.strands s.cur
/-- Strand `i`. -/
def State.strandAt (s : State) (i : Nat) : Option Strand := cfind s.strands i
/-- Strand `i` replaced. -/
def State.putStrandAt (s : State) (i : Nat) (st : Strand) : State := { s with strands := cput s.strands i st }
/-- The executing strand replaced. -/
def State.putStrand (s : State) (st : Strand) : State := s.putStrandAt s.cur st
/-- Strand `i` changed. -/
def State.onStrandAt (s : State) (i : Nat) (f : Strand → Strand) : State :=
  match cfind s.strands i with
  | some st => s.putStrandAt i (f st)
  | none => s
/-- The executing strand changed. -/
def State.onStrand (s : State) (f : Strand → Strand) : State := s.onStrandAt s.cur f

/-- A team that is not there: the neutral record accessors fall back to. -/
def Team.none : Team :=
  { launch := 0, gang := 0, index := 0, member := 0, core := 0, replica := 0, rope := 0, strands := [], sp := Planes.empty
    xfers := [], nextXfer := 1, cbs := [], tbars := [], idemp := false, synced := false, perfcls := 0, perfBy := .none, place := 0, restarts := 0
    knit := 0, knitMember := 0, knitCluster := 0, ropeinj := 0
    plane := false }

/-- Header of no kernel. -/
def Header.none : Header :=
  { dataSize := 0, ovlCount := 0, ovlTable := 0, entry := 0, handler := 0xFFFFFFFF, trapen := 0, lbar := 0, gbarRange := 0
    gbar := 0, tbar := 0, ropedef := 0, ropeok := 1, gang := 1, cbufs := 0, spbytes := 0, skein := 0, tiles := 0
    strands := 1, vregs := 1, world := false, idemp := false, version := 1, magic := 0x484B5A47, reservedZero := true }

/-- A launch that is not there. -/
def Launch.none : Launch :=
  { queue := 0, task := 0, part := 0, asid := 0, secure := false, plane := false, prio := 0, kernel := 0, args := 0
    nx := 1, ny := 1, nz := 1, segs := 0, rope := 0, header := Header.none, code := [], spanParts := 1, spanIndex := 0
    nextGang := 0, started := .none, order := 0, passedSince := .none, blocking := false, imems := [], rbars := []
    lbars := [], sent := [], received := [], sample := [], terminated := [], torn := .none, event := .none, eventAt := 0, count := 0
    restarts := 0, dropped := [] }

/-- A gang that is not there. -/
def Gang.none : Gang :=
  { launch := 0, index := 0, cluster := 0, core := 0, barCore := 0, replica := 0, teams := [], segs := [], segSlices := [], queues := []
    gbars := [], moving := .none, stopped := .none }

/-- Team `i`. -/
def State.team (s : State) (i : Nat) : Team := (cfind s.teams i).getD Team.none
/-- Gang `i`. -/
def State.gang (s : State) (i : Nat) : Gang := (cfind s.gangs i).getD Gang.none
/-- Launch `i`. -/
def State.launch (s : State) (i : Nat) : Launch := (cfind s.launches i).getD Launch.none
/-- Team `i` changed. -/
def State.onTeam (s : State) (i : Nat) (f : Team → Team) : State :=
  match cfind s.teams i with
  | some t => { s with teams := cput s.teams i (f t) }
  | .none => s
/-- Gang `i` changed. -/
def State.onGang (s : State) (i : Nat) (f : Gang → Gang) : State :=
  match cfind s.gangs i with
  | some g => { s with gangs := cput s.gangs i (f g) }
  | .none => s
/-- Launch `i` changed. -/
def State.onLaunch (s : State) (i : Nat) (f : Launch → Launch) : State :=
  match cfind s.launches i with
  | some g => { s with launches := cput s.launches i (f g) }
  | .none => s

/-- A scheduler that has issued nothing. -/
def Sched.idle : Sched := { issued := false, critRun := 0, charge := 0, last := 0, critWait := [] }
/-- R205: a core with an empty L1, not halted. -/
def Core.idle : Core :=
  { l1 := [], s0 := Sched.idle, s1 := Sched.idle, halted := false, haltAsked := none, hot := false, retired := false }
/-- R205, R219, R302: a cluster with empty tables; no limit holds its clock below 1.8 GHz. -/
def Cluster.idle : Cluster :=
  { l2 := [], tlb := [], knits := [], bars := [], charge := 0, cycles := 0, phase := 0, target := 0, clock := 180, thermal := false }
/-- Core `i`. -/
def State.core (s : State) (i : Nat) : Core := (cfind s.cores i).getD Core.idle
/-- Core `i` replaced. -/
def State.putCore (s : State) (i : Nat) (c : Core) : State := { s with cores := cput s.cores i c }
/-- Core `i` changed. -/
def State.onCore (s : State) (i : Nat) (f : Core → Core) : State := s.putCore i (f (s.core i))
/-- Cluster `i`. -/
def State.cluster (s : State) (i : Nat) : Cluster := (cfind s.clusters i).getD Cluster.idle
/-- Cluster `i` changed. -/
def State.onCluster (s : State) (i : Nat) (f : Cluster → Cluster) : State :=
  { s with clusters := cput s.clusters i (f (s.cluster i)) }

/-- R300: charge units added to a cluster's charge register. -/
def State.addCharge (s : State) (k n : Nat) : State := s.onCluster k (fun c => { c with charge := c.charge + BitVec.ofNat 64 n })
/-- R69: the cluster of a core number. -/
def clusterOf (core : Nat) : Nat := core / 256
/-- R69: the compute die of a core number. -/
def dieOf (core : Nat) : Nat := core / 512
/-- R295: the 128-core granule of a core number. -/
def granuleOf (core : Nat) : Nat := core / 128

/-- A partition that is not configured: no granules (R297). -/
def Partition.none : Partition :=
  { pcfg := 0, ptarget := 0, cmdlimit := 0, rank := 0, pcap := 0, lim := 0, cause := 0, active := 0, duty := 64
    plane := false, requests := [], loaded := false, ballast := 0, ballastAt := .none }
/-- Partition `i`. -/
def State.part (s : State) (i : Nat) : Partition := (cfind s.parts i).getD Partition.none
/-- Partition `i` changed. -/
def State.onPart (s : State) (i : Nat) (f : Partition → Partition) : State :=
  match cfind s.parts i with
  | some p => { s with parts := cput s.parts i (f p) }
  | .none => s
/-- R295: GRANULES of a PCFG. -/
def granules (pcfg : DWord) : Nat := bits pcfg.toNat 63 48
/-- R295: whether a partition holds a granule. -/
def holdsGranule (pcfg : DWord) (g : Nat) : Bool := bitAt (granules pcfg) g
/-- R209, R295: tile-store segments a slice gives. -/
def sliceSegs (pcfg : DWord) : Nat := [0, 1, 2, 4].getD (bits pcfg.toNat 35 34) 0
/-- R295: WORLD of a PCFG. -/
def pcfgSecure (pcfg : DWord) : Bool := pcfg.getLsbD 8
/-- R295, R296: PRIV of a PCFG. -/
def pcfgPriv (pcfg : DWord) : Bool := pcfg.getLsbD 4
/-- R295: DEBUG of a PCFG. -/
def pcfgDebug (pcfg : DWord) : Bool := pcfg.getLsbD 5

/-- A queue at reset (R244): every field 0. -/
def Queue.zero : Queue :=
  { ring := 0, rptr := 0, asid := 0, msix := 0, sigirq := false, secure := false, part := 0, prio := 0, slotlog := 0
    plane := false, ridx := 0, error := false, enable := false, doorbell := 0, stopped := false, consumed := 0, launches := 0 }
/-- Queue `i`. -/
def State.queue (s : State) (i : Nat) : Queue := (cfind s.queues i).getD Queue.zero
/-- Queue `i` changed. -/
def State.onQueue (s : State) (i : Nat) (f : Queue → Queue) : State :=
  { s with queues := cput s.queues i (f (s.queue i)) }

/-- Task `i` changed. -/
def State.onTask (s : State) (i : Nat) (f : Task → Task) : State :=
  match cfind s.tasks i with
  | some t => { s with tasks := cput s.tasks i (f t) }
  | .none => s

/-- A barrier entry as it is allocated (R228). -/
def Barrier.fresh : Barrier := { phase := 0, count := 0, gone := 0, abandoned := false, spilled := false }

/-- A free value's index taken: the counter before, and the state with the counter advanced (log 3). -/
def State.tick (s : State) : State := { s with fresh := s.fresh + 1 }

/-- R61: a strand as the dispatcher starts it; the trap vector is HANDLER, the pc ENTRY. -/
def Strand.start (team idx replica : Nat) (sched : Bool) (slotNo : Nat) (h : Header) : Strand :=
  { team := team, idx := idx, replica := replica, sched := sched, slotNo := slotNo
    bankA := Slot.start h.tiles, bankB := Slot.start h.tiles, sel := false, pc := h.entry, flags := 0
    trapcause := 0, trappc := 0, trapaddr := 0, trapinfo := 0, epc := 0, trapvec := BitVec.ofNat 64 h.handler
    timer := .none, timerDue := false, cyc := 0, crit := false, promoted := false, age := 0, readyFor := 0, wait := Wait.none, flip := .none, run := .running
    nodes := [], nextNode := 1, batch := 1, arrivals := [], sig := 0, ropeseq := 0, buffer := [], values := [], presented := .none, committed := false
    issued := 0, handled := 0, tstDone := 0, save := .none, peerLines := [], peerDone := [], copied := .none }

/-- The launch a strand belongs to. -/
def State.launchOf (s : State) (st : Strand) : Launch := s.launch (s.team st.team).launch
/-- The header of a strand's kernel. -/
def State.headerOf (s : State) (st : Strand) : Header := (s.launchOf st).header
/-- The rope level of a strand's launch: 0 SOLO to 3 TRIO (R265). -/
def State.ropeLevel (s : State) (st : Strand) : Nat := (s.launchOf st).rope
/-- R296: whether a strand is privileged. -/
def State.privileged (s : State) (st : Strand) : Bool := pcfgPriv (s.part (s.launchOf st).part).pcfg

end Sys2Proof.Machine
end

