-- ==== Sys2Proof/Machine/Flags.lean ====
section
/-!
DEFINITION. Number formats, rounding and every computation of IEEE flags (R27–R37, R43, R44, R99–R101). A finite value
is held exactly as (−1)^neg · m · 2^e; an irrational result is held to hundreds of bits with an odd last bit (log 9).
-/
namespace Sys2Proof.Machine

/-- R29: a set of flags, bit 0 NV to bit 4 NX. -/
abbrev IFlags := BitVec 5
/-- Invalid. -/
def fNV : IFlags := 1
/-- Division by zero. -/
def fDZ : IFlags := 2
/-- Overflow. -/
def fOF : IFlags := 4
/-- Underflow. -/
def fUF : IFlags := 8
/-- Inexact. -/
def fNX : IFlags := 16

/-- The result of an operation on one element: its bits and the flags it raises. -/
structure FR where
  bits : Nat
  fl : IFlags
  deriving DecidableEq, Repr

/-- R27: a floating format: mantissa bits, bias, greatest exponent, its mantissa there, total width; E4M3 has no
infinity. -/
structure Fmt where
  mbits : Nat
  bias : Nat
  emax : Nat
  maxMant : Nat
  width : Nat
  hasInf : Bool
  deriving DecidableEq, Repr

/-- R27: F32. -/
def fmtF32 : Fmt := { mbits := 23, bias := 127, emax := 127, maxMant := 0xFFFFFF, width := 32, hasInf := true }
/-- R27: F16. -/
def fmtF16 : Fmt := { mbits := 10, bias := 15, emax := 15, maxMant := 0x7FF, width := 16, hasInf := true }
/-- R27: BF16. -/
def fmtBF16 : Fmt := { mbits := 7, bias := 127, emax := 127, maxMant := 0xFF, width := 16, hasInf := true }
/-- R27: E4M3. -/
def fmtE4M3 : Fmt := { mbits := 3, bias := 7, emax := 8, maxMant := 0xE, width := 8, hasInf := false }
/-- R27: E5M2. -/
def fmtE5M2 : Fmt := { mbits := 2, bias := 15, emax := 15, maxMant := 0x7, width := 8, hasInf := true }

/-- The floating format of a tag. -/
def fmtOf : Tag → Option Fmt
  | .f32 => some fmtF32 | .f16 => some fmtF16 | .bf16 => some fmtBF16 | .e4m3 => some fmtE4M3 | .e5m2 => some fmtE5M2
  | _ => none

/-- A floating datum: NaN (signalling or not), infinity, or an exact finite value. -/
inductive FV where
  | nan (signalling : Bool)
  | inf (neg : Bool)
  | fin (neg : Bool) (m : Nat) (e : Int)
  deriving DecidableEq, Repr

/-- A format's sign bit. -/
def Fmt.sign (f : Fmt) (neg : Bool) : Nat := if neg then 2 ^ (f.width - 1) else 0
/-- R28: the canonical NaN. -/
def Fmt.qnan (f : Fmt) : Nat :=
  if f.hasInf then 2 ^ (f.width - 1) - 2 ^ (f.mbits - 1) else 2 ^ (f.width - 1) - 1
/-- Infinity; in E4M3, R31 gives the canonical NaN. -/
def Fmt.inf (f : Fmt) (neg : Bool) : Nat :=
  if f.hasInf then f.sign neg + (2 ^ (f.width - 1) - 2 ^ f.mbits) else f.qnan
/-- The largest finite value of a sign. -/
def Fmt.maxFinite (f : Fmt) (neg : Bool) : Nat := f.sign neg + ((f.emax + f.bias) * 2 ^ f.mbits + (f.maxMant - 2 ^ f.mbits))

/-- R27, R28, R33: the datum of a bit pattern; with `flush`, a subnormal reads as zero of its sign. -/
def Fmt.unpack (f : Fmt) (flush : Bool) (x : Nat) : FV :=
  let neg := bitAt x (f.width - 1)
  let ex := x / 2 ^ f.mbits % 2 ^ (f.width - 1 - f.mbits)
  let mant := x % 2 ^ f.mbits
  let top := 2 ^ (f.width - 1 - f.mbits) - 1
  if f.hasInf && ex == top then
    if mant == 0 then .inf neg else .nan (!(bitAt mant (f.mbits - 1)))
  else if !f.hasInf && ex == top && mant == 2 ^ f.mbits - 1 then .nan false
  else if ex == 0 then .fin neg (if flush then 0 else mant) (1 - (f.bias : Int) - f.mbits)
  else .fin neg (mant + 2 ^ f.mbits) ((ex : Int) - f.bias - f.mbits)

/-- R30: a magnitude over 2^shift rounded to an integer: the integer and whether it is inexact. Codes: 0 RNE, 1 RTZ,
2 RDN, 3 RUP, 4 RNA. -/
def roundShift (rnd : Nat) (neg : Bool) (m shift : Nat) : Nat × Bool :=
  let q := m / 2 ^ shift
  let r := m % 2 ^ shift
  let up := match rnd with
    | 0 => decide (2 ^ shift < 2 * r) || (2 * r == 2 ^ shift && q % 2 == 1)
    | 1 => false
    | 2 => neg
    | 3 => !neg
    | _ => decide (2 ^ shift ≤ 2 * r)
  if r = 0 then (q, false) else (if up then q + 1 else q, true)

/-- A magnitude m · 2^e rounded to a multiple of 2^q, counted in 2^q. -/
def roundAt (rnd : Nat) (neg : Bool) (m : Nat) (e q : Int) : Nat × Bool :=
  if q ≤ e then (m * 2 ^ (e - q).toNat, false) else roundShift rnd neg m (q - e).toNat

/-- R31, R34: the result of an overflow. -/
def Fmt.overflow (f : Fmt) (rnd : Nat) (sat neg : Bool) : FR :=
  let toMax := (rnd == 1) || (rnd == 2 && !neg) || (rnd == 3 && neg)
  let fp8 := f.width == 8
  { bits := if toMax || (fp8 && sat) then f.maxFinite neg else f.inf neg, fl := fOF ||| fNX }

/-- R30–R34: an exact finite value rounded to a format. -/
def Fmt.round (f : Fmt) (rnd : Nat) (flush sat neg : Bool) (m : Nat) (e : Int) : FR :=
  if m = 0 then { bits := f.sign neg, fl := 0 }
  else
    let lead : Int := e + Nat.log2 m
    let emin : Int := 1 - (f.bias : Int)
    let mu := (roundAt rnd neg m e (lead - f.mbits)).1
    let tiny := decide (lead - f.mbits + Nat.log2 mu < emin)
    if tiny && flush then { bits := f.sign neg, fl := fUF ||| fNX }
    else
      let q := max (lead - f.mbits) (emin - f.mbits)
      let r := roundAt rnd neg m e q
      let mr := r.1
      let le : Int := q + Nat.log2 mr
      if decide ((f.emax : Int) < le) || (decide (le = f.emax) && decide (q = (f.emax : Int) - f.mbits) && decide (f.maxMant < mr)) then
        f.overflow rnd sat neg
      else
        let fl := (if r.2 then fNX else 0) ||| (if tiny && r.2 then fUF else 0)
        if mr = 0 then { bits := f.sign neg, fl := fl }
        else if mr < 2 ^ f.mbits then { bits := f.sign neg + mr, fl := fl }
        else
          let mant := (roundAt 1 neg mr q (le - f.mbits)).1 - 2 ^ f.mbits
          { bits := f.sign neg + (le + f.bias).toNat * 2 ^ f.mbits + mant, fl := fl }

/-- The environment of an arithmetic operation: rounding, flush, saturate. -/
structure FEnv where
  rnd : Nat
  flush : Bool
  sat : Bool
  deriving DecidableEq, Repr

/-- R62: the environment of a mode value. -/
def envOf (m : Half) : FEnv := { rnd := modeRound m, flush := modeFlush m, sat := modeSat m }
/-- Round to nearest even, with a flush bit. -/
def envRne (flush : Bool) : FEnv := { rnd := 0, flush := flush, sat := false }

/-- A datum written to a format with one rounding. -/
def Fmt.pack (f : Fmt) (v : FEnv) : FV → FR
  | .nan s => { bits := f.qnan, fl := if s then fNV else 0 }
  | .inf neg => { bits := if f.width == 8 && v.sat then f.maxFinite neg else f.inf neg, fl := 0 }
  | .fin neg m e => f.round v.rnd v.flush v.sat neg m e

/-- An invalid operation. -/
def Fmt.invalid (f : Fmt) : FR := { bits := f.qnan, fl := fNV }
/-- The signalling flag of a datum. -/
def FV.sig : FV → IFlags
  | .nan true => fNV
  | _ => 0
/-- Whether a datum is a NaN. -/
def FV.isNan : FV → Bool
  | .nan _ => true
  | _ => false
/-- The sign of a datum. -/
def FV.neg : FV → Bool
  | .nan _ => false | .inf n => n | .fin n _ _ => n
/-- A NaN result from NaN sources. -/
def Fmt.nanFrom (f : Fmt) (fl : IFlags) : FR := { bits := f.qnan, fl := fl }

/-- The signed integer numerator of a finite value over 2^e0. -/
def numer (neg : Bool) (m : Nat) (e e0 : Int) : Int :=
  let n : Int := (m * 2 ^ (e - e0).toNat : Nat)
  if neg then -n else n

/-- The exact sum of two finite values; a zero sum takes the IEEE sign. -/
def addExact (rnd : Nat) (n1 : Bool) (m1 : Nat) (e1 : Int) (n2 : Bool) (m2 : Nat) (e2 : Int) : FV :=
  let e0 := min e1 e2
  let z := numer n1 m1 e1 e0 + numer n2 m2 e2 e0
  if z = 0 then .fin (if n1 == n2 then n1 else rnd == 2) 0 0 else .fin (decide (z < 0)) z.natAbs e0

/-- R100: a + b. -/
def Fmt.add (f : Fmt) (v : FEnv) (a b : FV) : FR :=
  if a.isNan || b.isNan then f.nanFrom (a.sig ||| b.sig) else
  match a, b with
  | .inf x, .inf y => if x == y then f.pack v (.inf x) else f.invalid
  | .inf x, _ => f.pack v (.inf x)
  | _, .inf y => f.pack v (.inf y)
  | .fin n1 m1 e1, .fin n2 m2 e2 => f.pack v (addExact v.rnd n1 m1 e1 n2 m2 e2)
  | _, _ => f.nanFrom 0

/-- The datum with its sign inverted. -/
def FV.negate : FV → FV
  | .nan s => .nan s | .inf n => .inf !n | .fin n m e => .fin (!n) m e

/-- R100: a · b. -/
def Fmt.mul (f : Fmt) (v : FEnv) (a b : FV) : FR :=
  if a.isNan || b.isNan then f.nanFrom (a.sig ||| b.sig) else
  match a, b with
  | .inf x, .fin y m _ => if m = 0 then f.invalid else f.pack v (.inf (x != y))
  | .fin x m _, .inf y => if m = 0 then f.invalid else f.pack v (.inf (x != y))
  | .inf x, .inf y => f.pack v (.inf (x != y))
  | .fin n1 m1 e1, .fin n2 m2 e2 => f.pack v (.fin (n1 != n2) (m1 * m2) (e1 + e2))
  | _, _ => f.nanFrom 0

/-- R100: a · b + d with one rounding; ∞ · 0 is invalid even beside a quiet NaN. -/
def Fmt.fma (f : Fmt) (v : FEnv) (a b d : FV) : FR :=
  let zeroInf := match a, b with
    | .inf _, .fin _ m _ => m == 0
    | .fin _ m _, .inf _ => m == 0
    | _, _ => false
  if zeroInf then f.invalid
  else if a.isNan || b.isNan || d.isNan then f.nanFrom (a.sig ||| b.sig ||| d.sig)
  else
    let neg := a.neg != b.neg
    match a, b, d with
    | .fin _ m1 e1, .fin _ m2 e2, .fin n3 m3 e3 => f.pack v (addExact v.rnd neg (m1 * m2) (e1 + e2) n3 m3 e3)
    | .fin _ _ _, .fin _ _ _, .inf y => f.pack v (.inf y)
    | _, _, .inf y => if neg == y then f.pack v (.inf neg) else f.invalid
    | _, _, _ => f.pack v (.inf neg)

/-- A magnitude with an odd bit appended where the exact value lies strictly above it. -/
def jam (neg : Bool) (m : Nat) (e : Int) (more : Bool) : FV :=
  if more then .fin neg (2 * m + 1) (e - 1) else .fin neg m e

/-- R100: a / b. -/
def Fmt.div (f : Fmt) (v : FEnv) (a b : FV) : FR :=
  if a.isNan || b.isNan then f.nanFrom (a.sig ||| b.sig) else
  let neg := a.neg != b.neg
  match a, b with
  | .inf _, .inf _ => f.invalid
  | .inf _, _ => f.pack v (.inf neg)
  | _, .inf _ => f.pack v (.fin neg 0 0)
  | .fin _ m1 e1, .fin _ m2 e2 =>
    if m2 = 0 then
      if m1 = 0 then f.invalid else { f.pack { v with sat := false } (.inf neg) with fl := fDZ }
    else
      let s := 80 + Nat.log2 m2
      f.pack v (jam neg (m1 * 2 ^ s / m2) (e1 - e2 - s) (m1 * 2 ^ s % m2 != 0))
  | _, _ => f.nanFrom 0

/-- The integer square root, one bit a step from bit `k − 1` down. -/
def isqrtGo (n : Nat) : Nat → Nat → Nat
  | 0, r => r
  | k + 1, r =>
    let t := r + 2 ^ k
    isqrtGo n k (if t * t ≤ n then t else r)

/-- The integer square root. -/
def isqrt (n : Nat) : Nat := isqrtGo n (Nat.log2 n / 2 + 1) 0

/-- An even exponent and its magnitude. -/
def evenExp (m : Nat) (e : Int) : Nat × Int := if e % 2 = 0 then (m, e) else (2 * m, e - 1)

/-- R100: √a. -/
def Fmt.sqrt (f : Fmt) (v : FEnv) (a : FV) : FR :=
  match a with
  | .nan s => f.nanFrom (if s then fNV else 0)
  | .inf n => if n then f.invalid else f.pack v (.inf false)
  | .fin n m e =>
    if m = 0 then f.pack v (.fin n 0 0)
    else if n then f.invalid
    else
      let p := evenExp m e
      let x := p.1 * 2 ^ 128
      let r := isqrt x
      f.pack v (jam false r (p.2 / 2 - 64) (r * r != x))

/-- R100: 1/a. -/
def Fmt.rcp (f : Fmt) (v : FEnv) (a : FV) : FR := f.div v (.fin false 1 0) a

/-- R100: 1/√a. -/
def Fmt.rsq (f : Fmt) (v : FEnv) (a : FV) : FR :=
  match a with
  | .nan s => f.nanFrom (if s then fNV else 0)
  | .inf n => if n then f.invalid else f.pack v (.fin false 0 0)
  | .fin n m e =>
    if m = 0 then { f.pack { v with sat := false } (.inf n) with fl := fDZ }
    else if n then f.invalid
    else
      let p := evenExp m e
      let s := 100 + Nat.log2 p.1
      let r := isqrt (2 ^ (2 * s) / p.1)
      f.pack v (jam false r (-(p.2 / 2) - s) (r * r * p.1 != 2 ^ (2 * s)))

/-- Working bits of exp2 (log 9). -/
def expBits : Nat := 320

/-- 2^(0.b₁…bₙ) over 2^expBits: the low `n` bits of `x` are the fraction, taken from the least significant upward. -/
def exp2Frac : Nat → Nat → Nat → Nat
  | 0, _, acc => acc
  | n + 1, x, acc => exp2Frac n (x / 2) (isqrt (acc * (1 + x % 2) * 2 ^ expBits))

/-- R100: 2^a, correctly rounded; exact for integers. -/
def Fmt.exp2 (f : Fmt) (v : FEnv) (a : FV) : FR :=
  match a with
  | .nan s => f.nanFrom (if s then fNV else 0)
  | .inf n => if n then f.pack v (.fin false 0 0) else f.pack v (.inf false)
  | .fin n m e =>
    if m = 0 then f.pack v (.fin false 1 0)
    else if 14 < e + Nat.log2 m then f.pack v (.fin false 1 (if n then -40000 else 40000))
    else
      let d := (-e).toNat
      let z := numer n m e (min e 0)
      let ip := z / 2 ^ d
      let fp := (z % 2 ^ d).toNat
      if fp = 0 then f.pack v (.fin false 1 ip)
      else f.pack v (jam false (exp2Frac d fp (2 ^ expBits) / 2 ^ 8) (ip - (expBits : Int) + 8) true)

/-- Fraction bits that log2 forms, and its working bits (log 9). -/
def logBits : Nat := 160
/-- The next bits of log2 y, for y over 2^384 between 1 and 2, by squaring. -/
def log2Frac : Nat → Nat → Nat → Nat
  | 0, _, acc => acc
  | n + 1, y, acc =>
    let y2 := y * y / 2 ^ 384
    if 2 ^ 385 ≤ y2 then log2Frac n (y2 / 2) (2 * acc + 1) else log2Frac n y2 (2 * acc)

/-- R100: log2 a, correctly rounded; exact for powers of two. -/
def Fmt.log2 (f : Fmt) (v : FEnv) (a : FV) : FR :=
  match a with
  | .nan s => f.nanFrom (if s then fNV else 0)
  | .inf n => if n then f.invalid else f.pack v (.inf false)
  | .fin n m e =>
    if m = 0 then { f.pack { v with sat := false } (.inf true) with fl := fDZ }
    else if n then f.invalid
    else
      let l := Nat.log2 m
      let k : Int := e + l
      if m = 2 ^ l then f.pack v (.fin (decide (k < 0)) k.natAbs 0)
      else
        let z : Int := 2 * (k * 2 ^ logBits + log2Frac logBits (m * 2 ^ 384 / 2 ^ l) 0) + 1
        f.pack v (.fin (decide (z < 0)) z.natAbs (-(logBits : Int) - 1))

/-- R101: rounding to an integral value. -/
def Fmt.rint (f : Fmt) (v : FEnv) (a : FV) : FR :=
  match a with
  | .fin n m e =>
    let r := roundAt v.rnd n m e 0
    if 0 ≤ e then f.pack v a else { f.pack v (.fin n r.1 0) with fl := if r.2 then fNX else 0 }
  | _ => f.pack { v with sat := false } a

/-- Whether a < b for data that are no NaN; −0 equals +0. -/
def FV.lt (a b : FV) : Bool :=
  match a, b with
  | .fin n1 m1 e1, .fin n2 m2 e2 => decide (numer n1 m1 e1 (min e1 e2) < numer n2 m2 e2 (min e1 e2))
  | .inf n, .inf k => n && !k
  | .inf n, _ => n
  | _, .inf k => !k
  | _, _ => false
/-- Whether a = b for data that are no NaN. -/
def FV.eq (a b : FV) : Bool := !a.isNan && !b.isNan && !(a.lt b) && !(b.lt a)

/-- R101: minimumNumber (`mx` false) and maximumNumber, −0 below +0. -/
def Fmt.minmax (f : Fmt) (v : FEnv) (mx : Bool) (a b : FV) : FR :=
  let fl := a.sig ||| b.sig
  let r := if a.isNan && b.isNan then .nan false
    else if a.isNan then b
    else if b.isNan then a
    else if a.eq b then (if a.neg == mx then b else a)
    else if a.lt b == mx then b else a
  { bits := (f.pack { v with sat := false, flush := false } r).bits, fl := fl }

/-! ### Integers -/

/-- R24: the element width of a tag; plane words and RAW count as 32 bits. -/
def elemBits : Tag → Nat
  | .i16 | .n16 | .f16 | .bf16 => 16
  | .i8 | .n8 | .e4m3 | .e5m2 => 8
  | _ => 32
/-- R24: elements a lane. -/
def elems (t : Tag) : Nat := 32 / elemBits t
/-- INT of R97. -/
def isInt : Tag → Bool
  | .i32 | .n32 | .i16 | .n16 | .i8 | .n8 => true
  | _ => false
/-- FLT of R97. -/
def isFlt : Tag → Bool
  | .f32 | .f16 | .bf16 => true
  | _ => false
/-- FP8 formats. -/
def isFp8 : Tag → Bool
  | .e4m3 | .e5m2 => true
  | _ => false
/-- R25: the signed types. -/
def isSigned : Tag → Bool
  | .i32 | .i16 | .i8 => true
  | _ => false
/-- The integer value of an element. -/
def intOf (t : Tag) (x : Nat) : Int := if isSigned t then signed (elemBits t) x else x
/-- The least value of an integer type. -/
def intMin (t : Tag) : Int := if isSigned t then -(2 ^ (elemBits t - 1) : Int) else 0
/-- The greatest value of an integer type. -/
def intMax (t : Tag) : Int := if isSigned t then 2 ^ (elemBits t - 1) - 1 else 2 ^ elemBits t - 1
/-- The low bits of a two's-complement result. -/
def intWrap (t : Tag) (x : Int) : Nat := (x % 2 ^ elemBits t).toNat
/-- R34: a result clamped to its type's range. -/
def intClamp (t : Tag) (x : Int) : Nat := intWrap t (max (intMin t) (min (intMax t) x))
/-- R34: an integer result, clamped under saturate. -/
def intResult (t : Tag) (sat : Bool) (x : Int) : Nat := if sat then intClamp t x else intWrap t x

/-- Leading zero bits of an n-bit value. -/
def clzNat (n x : Nat) : Nat := if x = 0 then n else n - 1 - Nat.log2 x
/-- One bits of an n-bit value. -/
def popNat (n x : Nat) : Nat := ((List.range n).filter (bitAt x)).length

/-! ### Conversions (R34–R37, R108) -/

/-- R37: a floating datum to an integer type. -/
def toInt (t : Tag) (rnd : Nat) (a : FV) : FR :=
  match a with
  | .nan _ => { bits := 0, fl := fNV }
  | .inf n => { bits := intWrap t (if n then intMin t else intMax t), fl := fNV }
  | .fin n m e =>
    let r := roundAt rnd n m e 0
    let z : Int := if n then -(r.1 : Int) else r.1
    if z < intMin t then { bits := intWrap t (intMin t), fl := fNV }
    else if intMax t < z then { bits := intWrap t (intMax t), fl := fNV }
    else { bits := intWrap t z, fl := if r.2 then fNX else 0 }

/-- R108: one element from a format to another; neither is RAW or a plane format. -/
def convert (v : FEnv) (src dst : Tag) (x : Nat) : FR :=
  match fmtOf src, fmtOf dst with
  | some f, some g => g.pack v (f.unpack v.flush x)
  | some f, none => toInt dst v.rnd (f.unpack v.flush x)
  | none, some g =>
    let z := intOf src x
    g.round v.rnd v.flush v.sat (decide (z < 0)) z.natAbs 0
  | none, none => { bits := intResult dst v.sat (intOf src x), fl := 0 }

/-! ### Plane-nested integers (R38–R44) -/

/-- R38: the plane words of 32 bytes, plane 0 first. -/
def planesOf (q : List Nat) : List Word :=
  (List.range 8).map (fun k => maskOf (fun j => bitAt (q.getD j 0) (7 - k)))

/-- R39: q of element j from the first p planes: the signed integer they form. -/
def planeElem (p : Nat) (planes : List Word) (j : Nat) : Int :=
  signed p ((List.range p).foldl (fun acc k => 2 * acc + (if laneOn (planes.getD k 0) j then 1 else 0)) 0)

/-- R39: element j as an integer over 2^0, before the scale: 2^(7−p)·(2q+1), or x at eight planes. -/
def planeValue (p : Nat) (planes : List Word) (j : Nat) : Int :=
  if p = 8 then planeElem 8 planes j else 2 ^ (7 - p) * (2 * planeElem p planes j + 1)

/-- R39: blocks a register of 32 lanes or a row of 128 words holds. -/
def plBlocks (words p : Nat) : Nat := words / p

/-- R45: the value of a stored scale: bits 14:0 with a positive sign. -/
def scaleOf (flush : Bool) (x : Half) : FV := fmtBF16.unpack flush (x.toNat % 2 ^ 15)

/-- F32 addition without flags, RNE. -/
def addF32 (a b : Nat) : Nat := (fmtF32.add (envRne false) (fmtF32.unpack false a) (fmtF32.unpack false b)).bits

/-- R43: one stage of the transform at distance h. -/
def hadamardStage (h : Nat) (x : List Nat) : List Nat :=
  (List.range 32).map (fun i =>
    if i / h % 2 = 0 then addF32 (x.getD i 0) (x.getD (i + h) 0)
    else addF32 (x.getD (i - h) 0) (fmtF32.sign true ^^^ x.getD i 0))

/-- R43: the Hadamard transform of a block of F32 patterns; a NaN stays a NaN under the sign change. -/
def hadamard (x : List Nat) : List Nat :=
  let y := [1, 2, 4, 8, 16].foldl (fun acc h => hadamardStage h acc) x
  y.map (fun a => (fmtF32.mul (envRne false) (fmtF32.unpack false a) (fmtF32.unpack false 0x3E3504F3)).bits)

/-- R44: a block quantised: its plane words, the stored scale with its mark, the flags. -/
def quantise (h : Bool) (x : List FV) : List Word × Half × IFlags :=
  let wide := x.map (fun a => (fmtF32.pack (envRne false) a).bits)
  let ys := (if h then hadamard wide else wide).map (fmtF32.unpack false)
  let zeros := planesOf []
  if ys.any (fun a => match a with | .fin _ _ _ => false | _ => true) then (zeros, 0xFFC0, fNV)
  else
    let amax := ys.foldl (fun (acc : FV) a => match a with
      | .fin _ m e => if acc.lt (.fin false m e) then .fin false m e else acc
      | _ => acc) (FV.fin false 0 0)
    match amax with
    | .fin _ 0 _ => (zeros, 0x8000, 0)
    | _ =>
      let sg := (fmtBF16.div { rnd := 3, flush := false, sat := false } amax (.fin false 127 0)).bits
      let sv := fmtBF16.unpack false sg
      let q := ys.map (fun a => match a, sv with
        | .fin n m e, .fin _ sm se =>
          let s := 80 + Nat.log2 sm
          match jam n (m * 2 ^ s / sm) (e - se - s) (m * 2 ^ s % sm != 0) with
          | .fin _ jm je =>
            let r := (roundAt 0 n jm je 0).1
            intClamp .i8 (if n then -(r : Int) else r)
          | _ => 0
        | _, _ => 0)
      let mark := q.all (· == 0)
      (planesOf q, BitVec.ofNat 16 (sg + (if mark then 2 ^ 15 else 0)), 0)

end Sys2Proof.Machine
end

