-- ==== Sys2Proof/Machine/Operands.lean ====
section
/-!
DEFINITION. Operand forms: elements of packed registers, tag checks (R26, R97, R98), and what each vector operation makes
of its operands (R99–R112), as functions on registers alone.
-/
namespace Sys2Proof.Machine

/-! ### Elements (R25) -/

/-- R25: element `e` of a register under tag `t`. -/
def elemAt (t : Tag) (v : VReg) (e : Nat) : Nat :=
  (v.lane (e / elems t)).toNat / 2 ^ (elemBits t * (e % elems t)) % 2 ^ elemBits t

/-- The word of a lane's elements, element 0 lowest. -/
def wordOfElems (t : Tag) (l : List Nat) : Word :=
  BitVec.ofNat 32 (l.foldr (fun x acc => x % 2 ^ elemBits t + 2 ^ elemBits t * acc) 0)

/-- Element results of lane `i`, from element numbers. -/
def laneResults (t : Tag) (f : Nat → FR) (i : Nat) : List FR :=
  (List.range (elems t)).map (fun k => f (i * elems t + k))

/-- The OR of the flags of a list of results. -/
def orFlags (l : List FR) : IFlags := l.foldl (fun acc r => acc ||| r.fl) 0

/-- R64: every active lane of `old` takes its elements from `f`; with the flags of the active lanes (R29). -/
def mapElems (t : Tag) (act : Word) (old : VReg) (f : Nat → FR) : VReg × IFlags :=
  (VReg.merge old t act (fun i => wordOfElems t ((laneResults t f i).map (·.bits))),
   orFlags ((lanesOf act).flatMap (laneResults t f)))

/-! ### Tag checks -/

/-- A FORMAT failure (R70): the field (0 the mode type, 1 a, 2 b, 3 d) and the tag found. -/
structure Bad where
  field : Nat
  tag : Tag
  deriving DecidableEq, Repr

/-- R70: DETAIL of a FORMAT trap: bits 23:22 of `%trapcause` the field, bits 20:16 the tag. -/
def Bad.detail (b : Bad) : Nat := b.field * 64 + tagCode b.tag

/-- The first condition of a list that fails, with its field and tag (R97). -/
def firstBad : List (Bool × Nat × Tag) → Option Bad
  | [] => none
  | (ok, f, t) :: l => if ok then firstBad l else some { field := f, tag := t }

/-- R98: "mode type or RAW". -/
def orRaw (ty t : Tag) : Bool := t == ty || t == .raw
/-- R98: an index vector: I32, N32 or RAW. -/
def isIndex : Tag → Bool
  | .i32 | .n32 | .raw => true
  | _ => false
/-- R98: I32, N32, F32. -/
def isWord : Tag → Bool
  | .i32 | .n32 | .f32 => true
  | _ => false
/-- R59: RAW treated as N32. -/
def asBits : Tag → Tag
  | .raw => .n32
  | t => t

/-! ### Arithmetic (R99–R101) -/

/-- The element-wise operations of 0x40–0x4F. -/
inductive VOp where
  | add | sub | mul | mad | min | max | abs | neg | div | rcp | rsq | sqrt | exp2 | log2 | rnd | mulh
  deriving DecidableEq, Repr

/-- R98: the mode types an operation accepts. -/
def VOp.accepts : VOp → Tag → Bool
  | .mulh, t => isInt t
  | .rcp, t | .rsq, t | .sqrt, t | .exp2, t | .log2, t | .rnd, t => isFlt t
  | _, t => isInt t || isFlt t

/-- R82, R99: truncating division at a type's width. -/
def intDiv (t : Tag) (sat : Bool) (a b : Nat) : Nat :=
  if b = 0 then 2 ^ elemBits t - 1 else intResult t sat (Int.tdiv (intOf t a) (intOf t b))

/-- R99: an integer element. -/
def VOp.int (op : VOp) (t : Tag) (sat : Bool) (a b d : Nat) : Nat :=
  let x := intOf t a
  let y := intOf t b
  match op with
  | .add => intResult t sat (x + y)
  | .sub => intResult t sat (x - y)
  | .mul => intResult t sat (x * y)
  | .mad => intResult t sat (x * y + intOf t d)
  | .min => if x ≤ y then a else b
  | .max => if x ≤ y then b else a
  | .abs => intResult t sat x.natAbs
  | .neg => intResult t sat (-x)
  | .div => intDiv t sat a b
  | .mulh => intWrap t (x * y / 2 ^ elemBits t)
  | _ => 0

/-- R100, R101: a floating element. -/
def VOp.flt (op : VOp) (f : Fmt) (v : FEnv) (a b d : Nat) : FR :=
  let x := f.unpack v.flush a
  let y := f.unpack v.flush b
  match op with
  | .add => f.add v x y
  | .sub => f.add v x y.negate
  | .mul => f.mul v x y
  | .mad => f.fma v x y (f.unpack v.flush d)
  | .min => f.minmax v false x y
  | .max => f.minmax v true x y
  | .abs => { bits := a % 2 ^ (f.width - 1), fl := 0 }
  | .neg => { bits := a ^^^ 2 ^ (f.width - 1), fl := 0 }
  | .div => f.div v x y
  | .rcp => f.rcp v x
  | .rsq => f.rsq v x
  | .sqrt => f.sqrt v x
  | .exp2 => f.exp2 v x
  | .log2 => f.log2 v x
  | .rnd => f.rint v x
  | .mulh => { bits := 0, fl := 0 }

/-- One element of a vector arithmetic operation. -/
def VOp.elem (op : VOp) (t : Tag) (v : FEnv) (a b d : Nat) : FR :=
  match fmtOf t with
  | some f => op.flt f v a b d
  | none => { bits := op.int t v.sat a b d, fl := 0 }

/-- A vector arithmetic operation on registers. -/
def VOp.apply (op : VOp) (t : Tag) (v : FEnv) (act : Word) (a b d : VReg) : VReg × IFlags :=
  mapElems t act d (fun e => op.elem t v (elemAt t a e) (elemAt t b e) (elemAt t d e))

/-! ### Bits and compares (R102, R103) -/

/-- R102: shift left by the low log2(w) bits of the matching element. -/
def shlElem (t : Tag) (a b : Nat) : Nat := a * 2 ^ (b % elemBits t) % 2 ^ elemBits t
/-- R102: shift right, sign bits for I types. -/
def shrElem (t : Tag) (a b : Nat) : Nat := intWrap t (intOf t a / 2 ^ (b % elemBits t))

/-- The compares of 0x58–0x5B. -/
inductive Cmp where
  | eq | ne | lt | le
  deriving DecidableEq, Repr

/-- R103: one lane compared. -/
def Cmp.elem (c : Cmp) (t : Tag) (flush : Bool) (a b : Nat) : Bool × IFlags :=
  match fmtOf t with
  | some f =>
    let x := f.unpack flush a
    let y := f.unpack flush b
    let nan := x.isNan || y.isNan
    let ord := if nan then fNV else 0
    match c with
    | .eq => (x.eq y, x.sig ||| y.sig)
    | .ne => (!(x.eq y), x.sig ||| y.sig)
    | .lt => (!nan && x.lt y, ord)
    | .le => (!nan && !(y.lt x), ord)
  | none =>
    let x := intOf t a
    let y := intOf t b
    match c with
    | .eq => (decide (x = y), 0)
    | .ne => (decide (x ≠ y), 0)
    | .lt => (decide (x < y), 0)
    | .le => (decide (x ≤ y), 0)

/-- R64: a predicate result under a mask. -/
def maskMerge (old act new : Word) : Word := (old &&& ~~~ act) ||| (new &&& act)

/-- R103: a compare on registers. -/
def Cmp.apply (c : Cmp) (t : Tag) (flush : Bool) (act : Word) (a b : VReg) (old : Word) : Word × IFlags :=
  let r := fun i => c.elem t flush (a.lane i).toNat (b.lane i).toNat
  (maskMerge old act (maskOf (fun i => (r i).1)), (lanesOf act).foldl (fun acc i => acc ||| (r i).2) 0)

/-! ### Reductions and scan (R106, R107) -/

/-- The active elements of a register, ascending. -/
def activeElems (t : Tag) (act : Word) (a : VReg) : List Nat :=
  (lanesOf act).flatMap (fun i => (List.range (elems t)).map (fun k => elemAt t a (i * elems t + k)))

/-- The reductions. -/
inductive Red where
  | add | min | max
  deriving DecidableEq, Repr

/-- R106: an integer reduction. -/
def Red.int (r : Red) (t : Tag) (sat : Bool) (l : List Nat) : Int :=
  match r with
  | .add =>
    let z := l.foldl (fun acc x => acc + intOf t x) 0
    if sat then Max.max (intMin t) (Min.min (intMax t) z) else z
  | .min => l.foldl (fun acc x => Min.min acc (intOf t x)) (intMax t)
  | .max => l.foldl (fun acc x => Max.max acc (intOf t x)) (intMin t)

/-- R106: one step of a floating reduction in F32. -/
def Red.step (r : Red) (v : FEnv) (acc : FR) (x : FV) : FR :=
  let y := fmtF32.unpack v.flush acc.bits
  let n := match r with
    | .add => fmtF32.add v y x
    | .min => fmtF32.minmax v false y x
    | .max => fmtF32.minmax v true y x
  { bits := n.bits, fl := acc.fl ||| n.fl }

/-- R106: a floating reduction. -/
def Red.flt (r : Red) (f : Fmt) (v : FEnv) (l : List Nat) : FR :=
  match l.map (f.unpack v.flush) with
  | [] => match r with
    | .add => { bits := 0, fl := 0 }
    | .min => { bits := 0x7F800000, fl := 0 }
    | .max => { bits := 0xFF800000, fl := 0 }
  | x :: xs => xs.foldl (r.step v) (fmtF32.pack v x)

/-- R106: a reduction to a scalar. -/
def Red.apply (r : Red) (t : Tag) (v : FEnv) (act : Word) (a : VReg) : DWord × IFlags :=
  let l := activeElems t act a
  match fmtOf t with
  | some f => let x := r.flt f v l; (BitVec.ofNat 64 x.bits, x.fl)
  | none => (BitVec.ofInt 64 (r.int t v.sat l), 0)

/-- R107: the running F32 sum up to lane `i`. -/
def scanF32 (v : FEnv) (act : Word) (a : VReg) (i : Nat) : FR :=
  Red.flt .add fmtF32 v (((lanesOf act).filter (· ≤ i)).map (fun j => (a.lane j).toNat))

/-- R107: an inclusive prefix sum. -/
def scan (t : Tag) (v : FEnv) (act : Word) (a d : VReg) : VReg × IFlags :=
  mapElems t act d (fun i => match fmtOf t with
    | some _ => scanF32 v act a i
    | none =>
      { bits := intResult t v.sat ((((lanesOf act).filter (· ≤ i)).map (fun j => intOf t (a.lane j).toNat)).foldl (· + ·) 0)
        fl := 0 })

/-! ### Conversions of registers (R108–R111) -/

/-- The plane count and domain of a tag. -/
def plOf : Tag → Option (Bool × Nat)
  | .pl h p => some (h, p)
  | _ => none

/-- R109: VCVT, VPACK and VUNPK on formats that are no plane formats: element `e` from the numbered source elements;
those at or beyond `n` are 0. -/
def convertElems (v : FEnv) (src dst : Tag) (act : Word) (d : VReg) (from' : Nat → Nat) (n : Nat) : VReg × IFlags :=
  mapElems dst act d (fun e => if e < n then convert v src dst (from' e) else { bits := 0, fl := 0 })

/-- R110: planes 0 to q − 1 of each block, repacked. -/
def narrowPl (p q words : Nat) (w : Nat → Word) (i : Nat) : Word :=
  let b := i / q
  if b < plBlocks words p then w (b * p + i % q) else 0

/-- R110: element j of a block at σ = 1, as F32; exact. -/
def unpackPl (p : Nat) (planes : List Word) (j : Nat) : FR :=
  let z := planeValue p planes j
  fmtF32.round 0 false false (decide (z < 0)) z.natAbs 0

/-- R110: the planes of block `b` of a register. -/
def blockPlanes (p : Nat) (a : VReg) (b : Nat) : List Word := (List.range p).map (fun k => a.lane (b * p + k))

/-- R97 stage 3, R108–R110: whether a VCVT pair suits. -/
def cvtPair (src dst : Tag) : Bool :=
  match src, dst with
  | .pl h p, .pl k q => h == k && q ≤ p
  | .pl _ _, _ | _, .pl _ _ => false
  | _, _ => elems src == elems dst
/-- R108: whether a VPACK pair suits. -/
def packPair (src dst : Tag) : Bool :=
  (plOf src).isNone && (plOf dst).isNone && (elems dst == 2 * elems src || elems dst == 4 * elems src)
/-- R109, R110: whether a VUNPK pair and selector suit. -/
def unpkPair (src dst : Tag) (sel : Nat) : Bool :=
  match src with
  | .pl _ p => dst == .f32 && decide (sel < plBlocks 32 p)
  | _ => (plOf dst).isNone && (elems src == 2 * elems dst || elems src == 4 * elems dst)
      && decide (sel < elems src / elems dst)

/-- R111: the flags, planes and scales of a quantised register. -/
def quantRegister (h : Bool) (src : Tag) (flush : Bool) (act : Word) (a : VReg) : List (List Word × Half × IFlags) :=
  (List.range (elems src)).map (fun b =>
    quantise h ((List.range 32).map (fun j =>
      let e := 32 * b + j
      match fmtOf src with
      | some f => if laneOn act (e / elems src) then f.unpack flush (elemAt src a e) else .fin false 0 0
      | none => .fin false 0 0)))

/-! ### Memory operand forms (R113, R116) -/

/-- R116: the access size a mode type gives. -/
def accessBytes (t : Tag) : Nat := elemBits t / 8

/-- R113: per-lane addresses of a gather or scatter; I32 lanes are sign-extended. -/
def gatherAddrs (base : DWord) (b : VReg) : List DWord :=
  b.lanes.map (fun x => base + (if b.tag == .i32 then x.signExtend 64 else x.zeroExtend 64))
/-- R119: a scratchpad lane is always zero-extended. -/
def spAddrs (base : DWord) (b : VReg) : List DWord := b.lanes.map (fun x => base + x.zeroExtend 64)
/-- R115: the 32 word addresses of a contiguous access. -/
def lineAddrs (addr : DWord) : List DWord := (List.range 32).map (fun i => addr + BitVec.ofNat 64 (4 * i))
/-- Address of lane `i`. -/
def addrOf (l : List DWord) (i : Nat) : Nat := (l.getD i 0).toNat
/-- R9, R52: the address of a scalar or contiguous access: signed offset times size. -/
def offsetAddr (base : DWord) (off : BitVec 6) (size : Nat) : DWord := base + BitVec.ofInt 64 (off.toInt * size)
/-- R113: the lowest active lane whose address is misaligned. -/
def misaligned (addrs : List DWord) (act : Word) (size : Nat) : Option DWord :=
  ((lanesOf act).filter (fun i => addrOf addrs i % size != 0)).head?.map (fun i => addrs.getD i 0)

end Sys2Proof.Machine
end

