-- ==== Sys2Proof/Machine/Memory.lean ====
section
/-!
DEFINITION. Home memory, L1 and L2 words, translation, releases and acquires (R205–R218, R226, R292, R330). A word is
named by its physical word number (PA / 4), a line by PA / 128.
-/
namespace Sys2Proof.Machine

/-! ### Homes (R208, R293) -/

/-- R293: the stack of a physical address. -/
def stackOf (pa : Nat) : Nat := pa / 2 ^ 37
/-- R208: the home cluster of a physical address. -/
def homeCluster (pa : Nat) : Nat :=
  let st := stackOf pa
  2 * (st / 3) + (st % 3) % 2
/-- R292: whether the 32-byte sector of a physical address is poisoned or uncorrectable. -/
def State.poisoned (s : State) (pa : Nat) : Bool := member s.poison (pa / 32)
/-- The home copy of word `w`. -/
def State.homeWord (s : State) (w : Nat) : Word := readWord s.mem (4 * w)

/-- Bytes of `new` where the mask is set, of `old` elsewhere. -/
def mergeBytes (old new : Word) (mask : BitVec 4) : Word :=
  BitVec.ofNat 32 (leNat ((List.range 4).map (fun i =>
    BitVec.ofNat 8 ((if mask.getLsbD i then new else old).toNat / 256 ^ i))))

/-- R292: poison after a write of a line's masked bytes: a sector wholly covered is cleared. -/
def poisonAfter (poison : List Nat) (line : Nat) (mask : BitVec 128) : List Nat :=
  (List.range 4).foldl (fun acc k =>
    let part := mask.toNat / 2 ^ (32 * k) % 2 ^ 32
    let sec := 4 * line + k
    if part = 2 ^ 32 - 1 then setErase acc sec else acc) poison

/-- Masked bytes of a line (32 words) written to home memory. -/
def State.homeLine (s : State) (line : Nat) (mask : BitVec 128) (words : Nat → Word) : State :=
  let mem := (List.range 32).foldl (fun m w =>
    let k := BitVec.ofNat 4 (mask.toNat / 2 ^ (4 * w))
    if k = 0 then m else writeWord m (128 * line + 4 * w) (mergeBytes (readWord m (128 * line + 4 * w)) (words w) k)) s.mem
  { s with mem := mem, poison := poisonAfter s.poison line mask }

/-- One word's masked bytes at home. -/
def State.homePut (s : State) (w : Nat) (mask : BitVec 4) (v : Word) : State :=
  s.homeLine (w / 32) (BitVec.ofNat 128 (mask.toNat * 2 ^ (4 * (w % 32)))) (fun _ => v)
/-- R292: the sectors of physical addresses take poisoned data. -/
def State.poisonAt (s : State) (pas : List Nat) : State := { s with poison := pas.foldl (fun p a => setInsert p (a / 32)) s.poison }

/-! ### Slices and replacement (R205, R206, R208, R209) -/

/-- R208: the slice of a physical line: PA bits 12:7 XOR PA bits 18:13. -/
def sliceOf (line : Nat) : Nat := (line % 64) ^^^ (line / 64 % 64)
/-- The set of a slice that a physical line falls in, of 1,024 (log 93). -/
def l2SetOf (line : Nat) : Nat := line / 64 % 1024
/-- The set of an L1 that a virtual line falls in, of 64 (log 93). -/
def l1SetOf (vline : Nat) : Nat := vline % 64
/-- R205, R209: the ways of a slice that are cache: a way of 128 KiB for each that the tile-store share leaves. -/
def State.l2Ways (s : State) (k slice : Nat) : Nat :=
  16 - 4 * (match s.parts.find? (fun p => holdsGranule p.2.pcfg (2 * k + slice / 32)) with
    | some p => sliceSegs p.2.pcfg
    | none => 0)
/-- R206: the victim of a full set: the lowest way of those whose value is highest; `3 - value` raises of the whole set bring it to 3. -/
def victimOf {α : Type} (way rrip : α → Nat) (set : List α) : Option α :=
  let top := (set.map rrip).foldl max 0
  (set.filter (fun x => rrip x == top)).foldl (fun acc x => match acc with
    | some y => if way x < way y then some x else some y
    | none => some x) none
/-- The lowest way that no line of a set holds. -/
def freeWay {α : Type} (n : Nat) (way : α → Nat) (set : List α) : Option Nat :=
  (List.range n).find? (fun w => set.all (fun x => way x != w))

/-! ### The cluster's L2 (R330) -/

/-- A line of a cluster's L2. -/
def State.l2Line (s : State) (k line : Nat) : Option L2Line := cfind (s.cluster k).l2 line
/-- The copy of physical word `w` in a cluster's L2. -/
def State.l2Word (s : State) (k w : Nat) : Option L2Word := (s.l2Line k (w / 32)).bind (fun l => cfind l.words (w % 32))
/-- A word put into a line of a cluster's L2, where the line is present. -/
def State.putL2 (s : State) (k w : Nat) (x : L2Word) : State :=
  s.onCluster k (fun c => match cfind c.l2 (w / 32) with
    | some l => { c with l2 := cput c.l2 (w / 32) { l with words := cput l.words (w % 32) x } }
    | none => c)
/-- The words of a cluster's L2 that satisfy a test; lines stay present. -/
def Cluster.keepL2 (c : Cluster) (keep : Nat → L2Word → Bool) : Cluster :=
  { c with l2 := cmap (fun line l => { l with words := l.words.filter (fun e => keep (32 * line + e.1) e.2) }) c.l2 }

/-- The value of word `w` below the L1s of cluster `k`: its L2 copy, else the home. -/
def State.belowWord (s : State) (k w : Nat) : Word :=
  if homeCluster (4 * w) = k then s.homeWord w
  else match s.l2Word k w with
    | some x => x.data
    | none => s.homeWord w
/-- R292: whether word `w` below the L1s of cluster `k` is poisoned. -/
def State.belowPoison (s : State) (k w : Nat) : Bool :=
  if homeCluster (4 * w) = k then s.poisoned (4 * w)
  else match s.l2Word k w with
    | some x => x.poison
    | none => s.poisoned (4 * w)

/-- The L1 lines of a core that stand for a physical line. -/
def isLine (l : L1Line) (line : Nat) : Bool := l.pline == line && l.peer.isNone
/-- R215: an L1 line with its copy of word `w` INVALID where it owns it. -/
def L1Line.disown (l : L1Line) (w : Nat) : L1Line :=
  if isLine l (w / 32) then
    match cfind l.words (w % 32) with
    | some x => match x.st with
      | .owned _ => { l with words := cdel l.words (w % 32) }
      | _ => l
    | none => l
  else l
/-- R215: every core but the spared ones loses its OWNED copy of word `w`. -/
def State.disownBut (s : State) (spared : Nat → Bool) (w : Nat) : State :=
  { s with cores := cmap (fun c x => if spared c then x else { x with l1 := x.l1.map (fun l => l.disown w) }) s.cores }
/-- R215, R330: word `w` reaches the L2 of cluster `k` from core `core`: other owners in the cluster lose it. -/
def State.revokeIn (s : State) (core k w : Nat) : State := s.disownBut (fun c => core == c || clusterOf c != k) w
/-- R215: word `w` reaches its home from cluster `k` (8: none of the clusters): OWNED copies become INVALID, those of the spared cores apart,
and other clusters' L2 copies registered there are dropped. A copy owned in a cluster's L2 goes with that L2's registration, so that an acquire
of any scope that follows reads the new value (R235, log 106). -/
def State.revoke (s : State) (spared : Nat → Bool) (k w : Nat) : State :=
  let t := s.disownBut spared w
  { t with clusters := cmap (fun c x => if c = k then x else x.keepL2 (fun v y => v != w || y.written != 0 || decide (y.level < 3))) t.clusters }
/-- A cluster's L2 copy of word `w`, if it has one, brought to what the home holds, registered at level 3. -/
def State.refreshL2 (s : State) (k w : Nat) : State := match s.l2Word k w with
  | some _ => s.putL2 k w { data := s.homeWord w, written := 0, level := 3, poison := s.poisoned (4 * w) }
  | none => s
/-- The words of a line that a byte mask touches. -/
def maskWords (mask : BitVec 128) : List Nat := (List.range 32).filter (fun i => bits mask.toNat (4 * i + 3) (4 * i) != 0)
/-- R215, R234: bytes of a line performed at the home, poisoned at the addresses `bad`, for an agent of cluster `k` (8: of none), whose L2 copies
follow the home; the spared cores keep what they own. -/
def State.atHome (s : State) (spared : Nat → Bool) (k line : Nat) (mask : BitVec 128) (words : Nat → Word) (bad : List Nat) : State :=
  let ws := (maskWords mask).map (32 * line + ·)
  let s1 := ws.foldl (fun (t : State) w => t.revoke spared k w) s
  ws.foldl (fun (t : State) w => t.refreshL2 k w) ((s1.homeLine line mask words).poisonAt bad)

/-! ### L1 lines -/

/-- The L1 line of a core for an alias. -/
def State.l1Line (s : State) (core asid vline : Nat) : Option L1Line :=
  (s.core core).l1.find? (fun l => l.asid == asid && l.vline == vline)

/-- An L1 line put in place of the one of its alias, or added. -/
def State.putLine (s : State) (core : Nat) (l : L1Line) : State :=
  s.onCore core (fun c => { c with l1 := l :: c.l1.filter (fun x => !(x.asid == l.asid && x.vline == l.vline)) })

/-- An alias removed from a core's L1. -/
def State.dropLine (s : State) (core asid vline : Nat) : State :=
  s.onCore core (fun c => { c with l1 := c.l1.filter (fun x => !(x.asid == asid && x.vline == vline)) })

/-- The bytes of a line that an L1 holds DIRTY. -/
def dirtyMask (l : L1Line) : BitVec 128 :=
  BitVec.ofNat 128 (l.words.foldl (fun acc e => match e.2.st with
    | .dirty m => acc + m.toNat * 2 ^ (4 * e.1)
    | _ => acc) 0)
/-- A word of an L1 line. -/
def lineWord (l : L1Line) (i : Nat) : Word := ((cfind l.words i).map (·.data)).getD 0
/-- R292: the addresses of a line's DIRTY words that hold poison. -/
def dirtyBad (l : L1Line) : List Nat :=
  (l.words.filter (fun e => e.2.poison && (match e.2.st with | .dirty _ => true | _ => false))).map (fun e => 128 * l.pline + 4 * e.1)
/-- Whether a line holds UPDATE words. -/
def hasUpdate (l : L1Line) : Bool := l.words.any (fun e => match e.2.st with | .update _ => true | _ => false)

/-! ### Requests to peers (R325) -/

/-- The core through whose L1 a strand reads and writes memory: its own; for a second of a PAIR or TRIO its leader's,
which performs every store of the rope, so that R121 holds for the second (log 12). -/
def State.viewCore (s : State) (st : Strand) : Nat :=
  let t := s.team st.team
  if s.ropeLevel st < 2 || st.replica = 0 then t.core
  else match (cfind s.ropes t.rope).bind (fun r => r.teams.head?) with
    | some i => (s.team i).core
    | none => t.core

/-- The mask of one word of a line. -/
def wordMask (va : Nat) : BitVec 128 := BitVec.ofNat 128 (15 * 2 ^ (va % 128 / 4 * 4))

/-- R325: the first tag from `t` on that no request outstanding has; the fuel is the number of these. -/
def freeTag (out : Cells PeerOut) : Nat → Nat → Nat
  | 0, t => t
  | n + 1, t => if (cfind out t).isSome then freeTag out n ((t + 1) % 65536) else t
/-- R325: a request message sent to a peer's home. -/
def State.sendPeerOut (s : State) (o : PeerOut) : State :=
  let tag := freeTag s.fabric.outstanding s.fabric.outstanding.length s.fabric.nextTag
  { s with fabric := { s.fabric with
      nextTag := (tag + 1) % 65536
      outstanding := cput s.fabric.outstanding tag { o with sent := s.time, req := { o.req with tag := tag, src := s.fabric.id } } } }
/-- R325: a request that no strand waits for, of a launch (0: not known) through the L1 of a core. -/
def peerPost (core : Option Nat) (launch : Nat) (r : PeerReq) (home : Nat) (va : DWord) : PeerOut :=
  { strand := 0, launch := launch, stale := 0, report := none, hub := .none, core := core, reuse := 2, places := [], xfer := none, sent := 0, req := r
    home := home, vaddr := va }
/-- R323: a read that nothing waits for any more, made for a launch: unanswered, or refused at its home, it still ends the command, with the event
`report` where it has none. -/
def PeerOut.drop (o : PeerOut) (launch : Nat) (report : Option ErrEvent) : PeerOut :=
  { o with strand := 0, core := none, hub := .dropped, launch := launch, report := o.report.or report }
/-- R234, R235: the reads that a core has sent to peers and that satisfy a test are overtaken by what it does now (log 107). -/
def State.overtake (s : State) (core : Nat) (sel : PeerReq → Bool) (by' : Nat) : State :=
  { s with fabric := { s.fabric with outstanding := cmap (fun _ o =>
      if o.core == some core && o.xfer.isNone && o.req.op == .read && sel o.req then { o with stale := max o.stale by' } else o) s.fabric.outstanding } }
/-- R325: a request that writes a line of a peer's home through a core's L1; what the core still reads of the line, or holds delivered for a
strand, is older. -/
def State.sendWrite (s : State) (core : Nat) (o : PeerOut) : State :=
  let t := s.overtake core (fun r => r.asid == o.req.asid && r.line == o.req.line) 2
  { t with strands := cmap (fun _ st => if t.viewCore st == core then { st with peerLines := cdel st.peerLines o.req.line } else st) t.strands }.sendPeerOut o
/-- R295, R299: the world of a core: that of the partition that holds its granule. -/
def State.coreSecure (s : State) (core : Nat) : Bool := s.parts.any (fun p => bitAt (granules p.2.pcfg) (granuleOf core) && pcfgSecure p.2.pcfg)
/-- R213, R325: whether writes or reductions through a core's L1 to a peer's home are unanswered. -/
def State.peerOwes (s : State) (core : Nat) : Bool := s.fabric.outstanding.any (fun e => e.2.core == some core && e.2.strand == 0 && e.2.xfer.isNone)

/-! ### Combining and write-backs (R206, R213, R226, R330) -/

/-- One partial added to a home word (R226). -/
def addPartial (floating : Bool) (old x : Word) : Word :=
  if floating then BitVec.ofNat 32 (addF32 old.toNat x.toNat) else old + x

/-- R226: the home combines every UPDATE copy of a line, in ascending core order, each combining revoking the
registrations it meets (R215); the L2 copies of the line are discarded unless written. -/
def State.combine (s : State) (line : Nat) : State :=
  if !(s.cores.any (fun c => c.2.l1.any (fun l => isLine l line && hasUpdate l))) then s else
  let s1 := s.cores.foldl (fun t c => c.2.l1.foldl (fun t l =>
    if isLine l line then l.words.foldl (fun t e => match e.2.st with
      | .update fl => (t.homePut (32 * line + e.1) 0xF (addPartial fl (t.homeWord (32 * line + e.1)) e.2.data)).revoke (fun _ => false) (clusterOf c.1) (32 * line + e.1)
      | _ => t) t
    else t) t) s
  { s1 with
    cores := cmap (fun _ x => { x with l1 := x.l1.filter (fun l => !(isLine l line && hasUpdate l)) }) s1.cores
    clusters := cmap (fun _ x => x.keepL2 (fun w y => w / 32 != line || y.written != 0)) s1.clusters }

/-- The other word of a word's doubleword. -/
def partner (i : Nat) : Nat := if i % 2 = 0 then i + 1 else i - 1
/-- R211, R330: an L1's own copy of word `w` takes the value and the poison that the word now has below. -/
def L1Word.renew (x : L1Word) (data : Word) (bad : Bool) : L1Word := match x.st with
  | .owned _ => { x with data := data, poison := bad }
  | _ => x
/-- The same in the line that holds the word. -/
def L1Line.renew (l : L1Line) (w : Nat) (data : Word) (bad : Bool) : L1Line :=
  if isLine l (w / 32) then { l with words := cmap (fun i x => if i = w % 32 then x.renew data bad else x) l.words } else l
/-- R330, R235: the copies of word `w` that the L1s of cluster `k` own stay so, current with the home (log 106). -/
def State.renewOwned (s : State) (k w : Nat) : State :=
  { s with cores := cmap (fun c x => if clusterOf c = k then { x with l1 := x.l1.map (fun l => l.renew w (s.homeWord w) (s.poisoned (4 * w))) } else x) s.cores }
/-- R330: cluster `k` writes home the words it holds written that satisfy a test, each with the other written word of its doubleword (R113); their
copies stay, registered at 3, and so do those that its L1s own. -/
def State.l2WriteHome (s : State) (k : Nat) (sel : Nat → Bool) : State :=
  (s.cluster k).l2.foldl (fun (t : State) e =>
    let hit := e.2.words.filter (fun x => x.2.written != 0 && (sel (32 * e.1 + x.1) || sel (32 * e.1 + partner x.1)))
    if hit.isEmpty then t else
    let mask := BitVec.ofNat 128 (hit.foldl (fun acc x => acc + x.2.written.toNat * 2 ^ (4 * x.1)) 0)
    let bad := (hit.filter (·.2.poison)).map (fun x => 128 * e.1 + 4 * x.1)
    hit.foldl (fun (t : State) x => (t.refreshL2 k (32 * e.1 + x.1)).renewOwned k (32 * e.1 + x.1))
      ((t.combine e.1).atHome (fun c => clusterOf c == k) 8 e.1 mask (fun i => ((cfind e.2.words i).map (·.data)).getD 0) bad)) s

/-- R211: whether an L1 word is DIRTY. -/
def L1Word.isDirty (x : L1Word) : Bool := match x.st with
  | .dirty _ => true
  | _ => false
/-- R234, R325: the DIRTY words of a peer's line go out as one store request for each launch that stored them, each reporting its first store. -/
def State.sendLine (s : State) (core home : Nat) (l : L1Line) (scope : Scope) : State :=
  let ds := l.words.filter (fun e => e.2.isDirty)
  ((ds.map (fun e => e.2.owner)).eraseDups).foldl (fun (t : State) lid =>
    let mine := { l with words := ds.filter (fun e => e.2.owner == lid) }
    let first := (mine.words.head?).map (·.1)
    t.sendWrite core { peerPost (some core) lid
      { src := 0, tag := 0, asid := l.asid, secure := s.coreSecure core, op := .store, scope := scope, line := l.vline, mask := dirtyMask mine
        words := (List.range 32).map (lineWord mine), expected := [], places := []
        poison := BitVec.ofNat 4 (((dirtyBad mine).map (fun a => a % 128 / 32)).eraseDups.foldl (fun acc k => acc + 2 ^ k) 0) }
      home (BitVec.ofNat 64 (128 * l.vline + 4 * first.getD 0)) with report := (mine.words.head?).bind (·.2.report) }) s
/-- R213 step 2, R206, R234: the DIRTY bytes of a line written to its home, what the cluster's L2 holds written of it first; a peer's line goes
out as store requests. -/
def State.writeLineHome (s : State) (core : Nat) (l : L1Line) (scope : Scope) : State :=
  let m := dirtyMask l
  if m = 0 then s else
  match l.peer with
  | some home => s.sendLine core home l scope
  | none => ((s.combine l.pline).l2WriteHome (clusterOf core) (fun w => w / 32 == l.pline)).atHome (fun c => core == c) (clusterOf core) l.pline m (lineWord l) (dirtyBad l)

/-- R206, R330: a line leaves a cluster's L2: its written words are written home first. -/
def State.evictL2 (s : State) (k pline : Nat) : State :=
  (s.l2WriteHome k (fun w => w / 32 == pline)).onCluster k (fun c => { c with l2 := cdel c.l2 pline })
/-- R209: lines in ways that the tile-store share has taken leave every L2. -/
def State.trimL2 (s : State) : State :=
  s.clusters.foldl (fun (t : State) c => c.2.l2.foldl (fun (t : State) e =>
    if t.l2Ways c.1 (sliceOf e.1) ≤ e.2.way then t.evictL2 c.1 e.1 else t) t) s
/-- R206, R208: a line is present in its slice of a cluster's L2, where the slice has cache: a hit sets its value to 0, a fill inserts it at a
class in the place of the set's victim; `quiet` (PREF) changes no other value. -/
def State.l2Touch (s : State) (k line rrip : Nat) (quiet : Bool) : State :=
  match s.l2Line k line with
  | some l => if quiet then s else s.onCluster k (fun c => { c with l2 := cput c.l2 line { l with rrip := 0 } })
  | none =>
    let n := s.l2Ways k (sliceOf line)
    let set := (s.cluster k).l2.filter (fun e => sliceOf e.1 == sliceOf line && l2SetOf e.1 == l2SetOf line)
    let put (t : State) (way : Nat) : State := t.onCluster k (fun c => { c with l2 := cput c.l2 line { way := way, rrip := rrip, words := [] } })
    if n = 0 then s else
    match freeWay n (fun (e : Nat × L2Line) => e.2.way) set, victimOf (fun (e : Nat × L2Line) => e.2.way) (fun e => e.2.rrip) set with
    | some w, _ => put s w
    | none, some v =>
      let s1 := s.evictL2 k v.1
      let s2 := if quiet then s1 else s1.onCluster k (fun c => { c with l2 := cmap (fun x l =>
        if set.any (fun e => e.1 == x) then { l with rrip := l.rrip + (3 - v.2.rrip) } else l) c.l2 })
      put s2 v.2.way
    | none, none => s

/-- R330: a line's DIRTY words written at the cluster's L2 slice, registered there at a level; at the home, where that is its home or has no
cache. -/
def State.writeLineL2 (s : State) (core level : Nat) (l : L1Line) : State :=
  let k := clusterOf core
  if dirtyMask l = 0 then s
  else if l.peer.isSome || homeCluster (128 * l.pline) = k || s.l2Ways k (sliceOf l.pline) = 0 then s.writeLineHome core l .cluster
  else l.words.foldl (fun (t : State) e => match e.2.st with
    | .dirty m =>
      let w := 32 * l.pline + e.1
      let x := (t.l2Word k w).getD { data := t.homeWord w, written := 0, level := 0, poison := t.poisoned (4 * w) }
      (t.revokeIn core k w).putL2 k w { data := mergeBytes x.data e.2.data m, written := x.written ||| m, level := level
                                        poison := e.2.poison || (x.poison && m != 0xF) }
    | _ => t) ((s.combine l.pline).l2Touch k l.pline 2 false)

/-- R206, R226, R234: a line is replaced in an L1: its DIRTY words go to their home, an UPDATE copy is combined. -/
def State.evict (s : State) (core asid vline : Nat) : State :=
  match s.l1Line core asid vline with
  | none => s
  | some l => (if hasUpdate l then s.combine l.pline else s.writeLineHome core l .pkg).dropLine core asid vline

/-- R204, R207: a line leaves an L1, its DIRTY words going to the cluster's L2. -/
def State.evictToL2 (s : State) (core : Nat) (l : L1Line) : State :=
  (if hasUpdate l then s.combine l.pline else s.writeLineL2 core 0 l).dropLine core l.asid l.vline

/-- R113: the words of an L1 line without the VALID partner of word `i`, which is a copy of another moment than the one `i` becomes (log 106). -/
def dropPartner (ws : Cells L1Word) (i : Nat) : Cells L1Word := match cfind ws (partner i) with
  | some y => if y.st == .valid then cdel ws (partner i) else ws
  | none => ws
/-- R215: a registry drops a registration: the owner's word becomes VALID. -/
def State.dropOwner (s : State) (core asid vline word : Nat) : State :=
  match s.l1Line core asid vline with
  | some l => match cfind l.words word with
    | some ⟨.owned _, d, p, o, e⟩ => s.putLine core { l with
        words := cput (dropPartner l.words word) word { st := .valid, data := d, poison := p, owner := o, report := e } }
    | _ => s
  | none => s

/-- R207: copies of a physical line under another alias leave every L1 of the cluster, DIRTY words going to the L2. -/
def State.evictAlias (s : State) (k line asid vline : Nat) : State :=
  s.cores.foldl (fun t c => if clusterOf c.1 = k then
      c.2.l1.foldl (fun t l => if isLine l line && !(l.asid == asid && l.vline == vline) then
        t.evictToL2 c.1 l else t) t
    else t) s

/-- R206: the line of an alias in a core's L1, or a new one in the way of its set's victim, which leaves; `quiet` (PREF) changes no other
line's value. -/
def State.makeRoom (s : State) (core : Nat) (new : L1Line) (quiet : Bool) : L1Line × State :=
  match s.l1Line core new.asid new.vline with
  | some l => (l, s)
  | none =>
    let set := (s.core core).l1.filter (fun l => l1SetOf l.vline == l1SetOf new.vline)
    match freeWay 8 (fun (l : L1Line) => l.way) set, victimOf (fun (l : L1Line) => l.way) (fun l => l.rrip) set with
    | some w, _ => ({ new with way := w }, s)
    | none, some v =>
      let s1 := s.evict core v.asid v.vline
      ({ new with way := v.way }, if quiet then s1 else s1.onCore core (fun c => { c with l1 := c.l1.map (fun l =>
        if l1SetOf l.vline == l1SetOf new.vline then { l with rrip := l.rrip + (3 - v.rrip) } else l) }))
    | none, none => (new, s)

/-! ### Translation (R210, R299) -/

/-- The outcome of a translation: a physical address, a peer's home, or a fatal code (R70). -/
inductive Tr where
  | ok (pa : Nat) (readable writable : Bool)
  | peer (home : Nat) (readable writable : Bool)
  | fail (code : Nat)
  deriving DecidableEq, Repr

/-- The page of an address space that holds an address; an address space is named by its ASID alone, whichever partition uses it (DESIGN CHOICE,
log 126). -/
def State.page (s : State) (asid va : Nat) : Option Page :=
  s.pages.find? (fun p => p.asid == asid && decide (p.base ≤ va) && decide (va < p.base + p.size))

/-- R299: whether an agent's world may reach a physical address. -/
def State.worldOk (s : State) (secure : Bool) (pa : Nat) : Bool := secure || !(member s.secure (pa / 2 ^ 21))

/-- R299: whether an agent's world may walk the page table to a page. -/
def State.walkOk (s : State) (secure : Bool) (p : Page) : Bool := p.table.all (s.worldOk secure)
/-- R210, R247, R299: an access translated and checked: the walk, where no TLB gives the translation, then pinned, then permission (a shared
copy-on-write page has none for writes), then world. -/
def State.translate (s : State) (asid : Nat) (secure rd wr : Bool) (va : Nat) (tlb : Bool := false) : Tr :=
  match s.page asid va with
  | none => .fail 0x10
  | some p =>
    if !tlb && !(s.walkOk secure p) then .fail 0x11
    else if p.pins.isEmpty then .fail 0x10
    else if (rd && !p.readable) || (wr && (!p.writable || p.shared.isSome)) then .fail 0x11
    else match p.frame, p.peer with
      | some f, _ => if s.worldOk secure (f + (va - p.base)) then .ok (f + (va - p.base)) p.readable p.writable else .fail 0x11
      | none, some h => .peer h p.readable p.writable
      | none, none => .fail 0x10

/-! ### What a core reads and writes -/

/-- An agent of the memory system: a core's strand with its launch, address space and world, the launch's dropped pages, and what a failure of
the instruction it performs reports (R262). -/
structure Agent where
  core : Nat
  launch : Nat
  asid : Nat
  secure : Bool
  dropped : List (Nat × Nat)
  event : ErrEvent
  deriving DecidableEq, Repr

/-- R211: how a word stands for a load: 0 not at all, 1 a copy, 2 the core's own, 3 the core's own in part. -/
def L1Word.standing (x : L1Word) : Nat := match x.st with
  | .valid => 1
  | .owned _ => 2
  | .dirty m => if m = 0xF then 2 else 3
  | .update _ => 0
/-- R211, R113: whether a load of `n` bytes at `va` hits a line: 8 bytes do where both words are copies, which are of one moment, or both the
core's own (log 106). -/
def L1Line.serves (l : L1Line) (va n : Nat) : Bool :=
  match cfind l.words (va / 4 % 32), cfind l.words (va / 4 % 32 + 1) with
  | some x, y => x.standing != 0 && (n != 8 || (x.standing != 3 && (y.map L1Word.standing) == some x.standing))
  | none, _ => false
/-- R207, R211: an L1 hit of a load of `n` bytes. -/
def State.l1Hit (s : State) (a : Agent) (va n : Nat) : Option L1Line :=
  match s.l1Line a.core a.asid (va / 128) with
  | some l => if l.serves va n then some l else none
  | none => none

/-- R96: whether TLBINV removed the page from the launch's working set. -/
def State.wasDropped (s : State) (a : Agent) (va : Nat) : Bool :=
  match s.page a.asid va with
  | some p => a.dropped.contains (a.asid, p.base)
  | none => false

/-- R210: whether a core's cluster TLB holds the translation of an address. -/
def State.tlbHas (s : State) (a : Agent) (va : Nat) : Bool := match s.page a.asid va with
  | some p => (s.cluster (clusterOf a.core)).tlb.contains (a.asid, p.base)
  | none => false
/-- R207, R210: a load or store of `n` bytes checked; an L1 hit needs no translation. -/
def State.check (s : State) (a : Agent) (rd wr : Bool) (va : Nat) (n : Nat := 4) : Tr :=
  match (if wr && !rd then s.l1Line a.core a.asid (va / 128) else s.l1Hit a va n) with
  | some l =>
    if (rd && !l.readable) || (wr && !l.writable) then .fail 0x11
    else match l.peer with
      | some h => .peer h l.readable l.writable
      | none => .ok (128 * l.pline + va % 128) l.readable l.writable
  | none => if s.wasDropped a va then .fail 0x10 else s.translate a.asid a.secure rd wr va (s.tlbHas a va)

/-- R68, R210: whether an access misses at the cluster TLB. -/
def State.tlbMiss (s : State) (a : Agent) (va : Nat) (n : Nat := 4) : Bool :=
  match s.l1Hit a va n, s.page a.asid va with
  | some _, _ => false
  | none, some p => !p.pins.isEmpty && !(s.tlbHas a va)
  | none, none => false

/-- R205, R210: the TLB entry of a page filled by a walk that the agent's world may make (R299); of 16,384 entries the oldest gives way (log 93). -/
def State.walk (s : State) (a : Agent) (va : Nat) : State :=
  match s.page a.asid va with
  | some p => if p.pins.isEmpty || !(s.walkOk a.secure p) || s.tlbHas a va then s
    else s.onCluster (clusterOf a.core) (fun c => { c with tlb := ((a.asid, p.base) :: c.tlb).take 16384 })
  | none => s

/-- The value of an aligned word as a core's strand reads it without filling anything: its L1 copy (its own DIRTY bytes
over what lies below), else below. -/
def State.view (s : State) (a : Agent) (va pa : Nat) : Word :=
  let below := s.belowWord (clusterOf a.core) (pa / 4)
  match (s.l1Line a.core a.asid (va / 128)).bind (fun l => cfind l.words (va / 4 % 32)) with
  | some x => match x.st with
    | .dirty m => mergeBytes below x.data m
    | .update _ => below
    | _ => x.data
  | none => below
/-- R123, R292: whether a load of the bytes `need` of an aligned word would consume poison. -/
def State.viewPoison (s : State) (a : Agent) (va pa : Nat) (need : BitVec 4) : Bool :=
  let below := s.belowPoison (clusterOf a.core) (pa / 4)
  match (s.l1Line a.core a.asid (va / 128)).bind (fun l => cfind l.words (va / 4 % 32)) with
  | some x => match x.st with
    | .dirty m => need &&& ~~~ m != 0 && (x.poison || below)
    | .update _ => below
    | _ => x.poison
  | none => below

/-- R208, R330: a cluster's L2 slice reads at the home what it lacks of a line it holds: where a word is missing, or the two words of a
doubleword do not stand alike (R113), every word that is neither written nor registered there is read again. -/
def State.l2Fetch (s : State) (k line : Nat) : State :=
  match s.l2Line k line with
  | none => s
  | some l =>
    let held (i : Nat) : Nat := match cfind l.words i with
      | none => 0
      | some x => if x.level = 0 && x.written = 0 then 1 else 2
    if homeCluster (128 * line) = k || (List.range 32).all (fun i => held i != 0 && held i == held (partner i)) then s else
    let word (i : Nat) : L2Word :=
      let w := 32 * line + i
      match cfind l.words i with
      | some x => if held i = 1 then { data := s.homeWord w, written := 0, level := 0, poison := s.poisoned (4 * w) }
          else if x.written = 0 then x
          else { x with data := mergeBytes (s.homeWord w) x.data x.written, poison := x.poison || (x.written != 0xF && s.poisoned (4 * w)) }
      | none => { data := s.homeWord w, written := 0, level := 0, poison := s.poisoned (4 * w) }
    s.onCluster k (fun c => { c with l2 := cput c.l2 line { l with words := (List.range 32).map (fun i => (i, word i)) } })

/-- R206, R207, R211: a line filled through the cluster's L2, which takes copies of a line homed elsewhere, from the slice that is its home: every
word that is not the core's own becomes VALID, all of one moment. -/
def State.fill (s : State) (a : Agent) (va pa : Nat) (rd wr : Bool) (reuse : Nat) (quiet : Bool) : State :=
  let line := pa / 128
  let k := clusterOf a.core
  let s0 := (s.combine line).evictAlias k line a.asid (va / 128)
  let s1 := if homeCluster pa = k || (s0.l2Line k line).isSome then s0 else s0.l2Touch (homeCluster pa) line reuse quiet
  let s2 := (s1.l2Touch k line reuse quiet).l2Fetch k line
  let r := s2.makeRoom a.core { asid := a.asid, vline := va / 128, pline := line, peer := none, readable := rd, writable := wr, way := 0, rrip := 0, words := [] } quiet
  let copy (i : Nat) : L1Word :=
    { st := .valid, data := r.2.belowWord k (32 * line + i), poison := r.2.belowPoison k (32 * line + i), owner := 0, report := none }
  let words := (List.range 32).map (fun i => match cfind r.1.words i with
    | some x => (i, if x.st == .valid then copy i else x)
    | none => (i, copy i))
  r.2.putLine a.core { r.1 with readable := rd, writable := wr, rrip := reuse, words := words }

/-- R206, R210, R226: the line at `va` as one access loads it, at its addresses `vas` of `n` bytes each: a hit of all of them sets its value to 0,
and what the access needs from below a DIRTY word has UPDATE copies combined; else the line is filled at the access's class. -/
def State.loadLine (s : State) (a : Agent) (vas : List Nat) (n va pa : Nat) (rd wr : Bool) (reuse : Nat) : State :=
  match s.l1Line a.core a.asid (va / 128) with
  | some l =>
    if vas.all (fun v => l.serves v n) then
      (if vas.any (fun v => ((cfind l.words (v / 4 % 32)).map L1Word.standing) == some 3) then s.combine (pa / 128) else s).putLine a.core { l with rrip := 0 }
    else s.fill a va pa rd wr reuse false
  | none => s.fill a va pa rd wr reuse false

/-- R211: a word of an L1 with masked bytes stored into it. -/
def L1Word.stored (old : Option L1Word) (a : Agent) (mask : BitVec 4) (v : Word) : L1Word :=
  let base : L1Word := old.getD { st := .dirty 0, data := 0, poison := false, owner := 0, report := none }
  let m := (match base.st with | .dirty m => m | _ => 0) ||| mask
  { st := .dirty m, data := mergeBytes base.data v mask, poison := base.poison && m != 0xF, owner := a.launch, report := some a.event }
/-- R211, R226, R206: bytes of one access stored into the line at `va` of the core's L1 as DIRTY, later ones over earlier ones (R117). -/
def State.storeLine (s : State) (a : Agent) (va pa : Nat) (peer : Option Nat) (rd wr : Bool) (bytes : List (Nat × Byte)) : State :=
  let line := pa / 128
  let s0 := match peer with
    | some _ => s
    | none => (match s.l1Line a.core a.asid (va / 128) with
      | some l => if hasUpdate l then s.combine line else s
      | none => s).evictAlias (clusterOf a.core) line a.asid (va / 128)
  let hit := (s0.l1Line a.core a.asid (va / 128)).isSome
  let r := s0.makeRoom a.core { asid := a.asid, vline := va / 128, pline := line, peer := peer, readable := rd, writable := wr, way := 0, rrip := 2, words := [] } false
  let words := bytes.foldl (fun (ws : Cells L1Word) b =>
    let i := b.1 % 128 / 4
    cput ws i (L1Word.stored (cfind ws i) a (BitVec.ofNat 4 (2 ^ (b.1 % 4))) (BitVec.ofNat 32 (b.2.toNat * 256 ^ (b.1 % 4))))) r.1.words
  r.2.putLine a.core { r.1 with rrip := if hit then 0 else 2, words := words }

/-- R210, R294: a page gives its frame up: its translations and its lines leave every cluster, what they hold written going
home first (log 40). -/
def State.dropPage (s : State) (p : Page) : State :=
  let s1 := s.cores.foldl (fun (t : State) c => c.2.l1.foldl (fun (t : State) l =>
    if l.asid == p.asid && decide (p.base ≤ 128 * l.vline) && decide (128 * l.vline < p.base + p.size) then t.evict c.1 l.asid l.vline else t) t) s
  let here (line : Nat) : Bool := match p.frame with
    | some f => decide (f ≤ 128 * line) && decide (128 * line < f + p.size)
    | none => false
  let s2 := (List.range 8).foldl (fun (t : State) k =>
    (t.l2WriteHome k (fun w => here (w / 32))).onCluster k (fun c => { c with l2 := c.l2.filter (fun e => !(here e.1)) })) s1
  { s2 with
    clusters := cmap (fun _ k => { k with tlb := k.tlb.filter (fun e => e != (p.asid, p.base)) }) s2.clusters
    pages := s2.pages.map (fun y => if y.asid == p.asid && y.base == p.base then { y with pins := [], frame := none } else y) }

/-- R247: a frame's contents and poison as memory holds them, partial sums combined (R226), copied to another frame. -/
def State.copyFrame (s : State) (src dst size : Nat) : State :=
  let inside (lo a : Nat) : Bool := decide (lo ≤ a) && decide (a < lo + size)
  let lines := s.cores.flatMap (fun c => (c.2.l1.filter (fun l => hasUpdate l && l.peer.isNone && inside src (128 * l.pline))).map (·.pline))
  let t := lines.foldl State.combine s
  let moved (lo a : Nat) : Nat := a - lo + dst
  { t with
    mem := t.mem.filter (fun e => decide (e.1 < dst)) ++ ((t.mem.filter (fun e => inside src e.1)).map (fun e => (moved src e.1, e.2))
      ++ t.mem.filter (fun e => decide (dst + size ≤ e.1)))
    poison := ((t.poison.filter (fun k => inside src (32 * k))).map (fun k => moved src (32 * k) / 32)).foldl setInsert
      (t.poison.filter (fun k => !(inside dst (32 * k)))) }

/-! ### Release and acquire (R212–R214) -/

/-- R212: the level of a scope. -/
def levelOf : Scope → Nat
  | .strand | .team => 1
  | .cluster => 2
  | .die | .pkg => 3
  | .hop1 | .hop2 | .hop3 => 4

/-- R213 step 3: the DIRTY words of a released line become OWNED, whole with the bytes they now stand with at the level; the registration of a
peer's word is dropped at once (log 94), and one that is not whole becomes INVALID, as does a VALID word that stood beside it (R113). -/
def State.ownLine (s : State) (k level : Nat) (l : L1Line) : L1Line :=
  { l with words := l.words.filterMap (fun e => match e.2.st with
    | .dirty m =>
      let w := 32 * l.pline + e.1
      match l.peer with
      | some _ => if m = 0xF then some (e.1, { e.2 with st := .valid, owner := 0, report := none }) else none
      | none =>
        let below := if level = 2 then s.belowWord k w else s.homeWord w
        let bad := if level = 2 then s.belowPoison k w else s.poisoned (4 * w)
        some (e.1, { st := .owned level, data := mergeBytes below e.2.data m, poison := e.2.poison || (m != 0xF && bad), owner := 0, report := none })
    | .valid => if l.peer.isSome && ((cfind l.words (partner e.1)).map L1Word.isDirty) == some true then none else some e
    | _ => some e) }

/-- R213: a release by a core at a scope. -/
def State.release (s : State) (core : Nat) (scope : Scope) : State :=
  let level := levelOf scope
  let k := clusterOf core
  if level = 1 then s else
  let s1 := if 3 ≤ level then s.l2WriteHome k (fun _ => true) else s
  let s2 := (s1.core core).l1.foldl (fun t l => if hasUpdate l then t.combine l.pline
    else if level = 2 then t.writeLineL2 core 2 l else t.writeLineHome core l scope) s1
  s2.onCore core (fun c => { c with l1 := c.l1.map (s2.ownLine k level) })

/-- R214: an acquire by a core at a scope. -/
def State.acquire (s : State) (core : Nat) (scope : Scope) : State :=
  let level := levelOf scope
  let k := clusterOf core
  let keep (x : L1Word) : Bool := match x.st with
    | .valid => false
    | .owned lv => decide (level ≤ lv)
    | _ => true
  let s1 := (s.overtake core (fun _ => true) 1).onCore core (fun c => { c with l1 := c.l1.map (fun l => { l with words := l.words.filter (fun e => keep e.2) }) })
  if level < 3 then s1 else
  (s1.l2WriteHome k (fun _ => true)).onCluster k (fun c => c.keepL2 (fun _ x => decide (level ≤ x.level)))

/-- Whether an entry of a line's words is DIRTY and of the doubleword of word `i`. -/
def dirtyPair (i : Nat) (e : Nat × L1Word) : Bool := e.1 / 2 == i / 2 && e.2.isDirty
/-- R121, R215: before an atomic or an ordered access at the home, the bytes of a word that the core's L1 holds DIRTY and the cluster's L2 holds
written reach the home and leave the L1, with those of the other word of its doubleword, so that an 8-byte store is seen whole (R113). -/
def State.flushWord (s : State) (core w : Nat) : State :=
  let k := clusterOf core
  let s1 := (s.combine (w / 32)).l2WriteHome k (fun v => v == w)
  let s2 := (s1.core core).l1.foldl (fun t l =>
    if isLine l (w / 32) then
      let mine := { l with words := l.words.filter (dirtyPair (w % 32)) }
      if mine.words.isEmpty then t else t.atHome (fun c => core == c) k (w / 32) (dirtyMask mine) (lineWord mine) (dirtyBad mine)
    else t) s1
  s2.onCore core (fun c => { c with l1 := c.l1.map (fun l =>
    if isLine l (w / 32) then { l with words := l.words.filter (fun e => !(dirtyPair (w % 32) e)) } else l) })

/-- Word `w` leaves a core's L1. -/
def State.forgetWord (s : State) (core w : Nat) : State :=
  s.onCore core (fun c => { c with l1 := c.l1.map (fun l => if isLine l (w / 32) then { l with words := cdel l.words (w % 32) } else l) })

/-- R234: what a core's L1 holds DIRTY of word `w`, and its cluster's L2 written, reaches the home and leaves the L1. -/
def State.shedWord (s : State) (core w : Nat) : State :=
  let dirty := (s.core core).l1.any (fun l => isLine l (w / 32) && ((cfind l.words (w % 32)).map L1Word.isDirty) == some true)
  if dirty then s.flushWord core w else s

/-- R215, R224: a new value of word `w` performed at the home by a core; every registration is revoked. -/
def State.performHome (s : State) (core w : Nat) (mask : BitVec 4) (v : Word) : State :=
  (s.atHome (fun _ => false) (clusterOf core) (w / 32) (BitVec.ofNat 128 (mask.toNat * 2 ^ (4 * (w % 32)))) (fun _ => v) []).forgetWord core w

/-- R208: the current home value of a word for an agent that reads at the home; UPDATE lines are combined first. -/
def State.homeRead (s : State) (w : Nat) : Word × State := let s1 := s.combine (w / 32); (s1.homeWord w, s1)

/-- Bytes written at the home at given physical addresses of one line, as one write of an agent that has no L1, of cluster `k` (8: none): UPDATE
copies are combined and the cluster's written words sent home first, registrations revoked. The sectors of the addresses `bad` take poisoned
data. -/
def State.homeBytes (s : State) (k : Nat) (ws : List (Nat × Byte)) (bad : List Nat) : State :=
  match ws with
  | [] => s
  | (pa, _) :: _ =>
    let line := pa / 128
    let t := (s.combine line).l2WriteHome k (fun w => w / 32 == line)
    let at' (i : Nat) : Option Byte := (ws.reverse.find? (fun w => w.1 == i)).map (·.2)
    let mask := BitVec.ofNat 128 ((List.range 128).foldl (fun acc i => acc + (if (at' (128 * line + i)).isSome then 2 ^ i else 0)) 0)
    let words := fun w => BitVec.ofNat 32 (leNat ((List.range 4).map (fun i => (at' (128 * line + 4 * w + i)).getD 0)))
    t.atHome (fun _ => false) k line mask words bad
/-- A write of consecutive bytes by an agent that has no L1 (hub, host, peer): at the home, line by line. -/
def State.homeStore (s : State) (pa : Nat) (bs : List Byte) : State :=
  let ws := (List.range bs.length).zipWith (fun i b => (pa + i, b)) bs
  ((ws.map (fun w => w.1 / 128)).eraseDups).foldl (fun (t : State) line => t.homeBytes 8 (ws.filter (fun w => w.1 / 128 == line)) []) s

/-- Bytes read at the homes of consecutive physical addresses. -/
def State.homeLoad (s : State) (pa n : Nat) : List Byte × State :=
  let s1 := (((List.range n).map (fun i => (pa + i) / 128)).eraseDups).foldl (fun t line => t.combine line) s
  (readBytes s1.mem pa n, s1)

/-- A number of bytes of a virtual range, each page translated: the physical pieces, or the failing address and code. -/
def State.transBytes (s : State) (asid : Nat) (secure rd wr : Bool) (va : Nat) : Nat → Except (Nat × Nat) (List Nat)
  | 0 => .ok []
  | n + 1 => match s.translate asid secure rd wr va with
    | .ok pa _ _ => match State.transBytes s asid secure rd wr (va + 1) n with
      | .ok l => .ok (pa :: l)
      | .error e => .error e
    | .peer _ _ _ => .error (va, 0)
    | .fail c => .error (va, c)

/-- R325: a byte that a hub unit reads: at a physical address of this module, or delivered by a peer. -/
inductive HubByte where
  | here (pa : Nat)
  | far (b : Byte)
  deriving DecidableEq, Repr
/-- A byte of a virtual address as a user of the hub finds it, or the failure's code; code 0: its line is still to be asked for. A poisoned word is not
delivered. -/
def State.hubByte (s : State) (user asid : Nat) (secure : Bool) (va : Nat) : Except Nat HubByte :=
  match s.translate asid secure true false va with
  | .ok pa _ _ => .ok (.here pa)
  | .fail c => .error c
  | .peer _ _ _ => match s.hub.lines.find? (fun l => l.user == user && l.asid == asid && l.secure == secure && l.line == va / 128) with
    | none => .error 0
    | some l => if l.fail != 0 then .error l.fail else match cfind l.words (va / 4 % 32) with
      | some w => .ok (.far (BitVec.ofNat 8 (w.toNat / 256 ^ (va % 4))))
      | none => .error 0x12
/-- The bytes of a virtual range, or the failing address and code. -/
def State.hubBytes (s : State) (user asid : Nat) (secure : Bool) (va : Nat) : Nat → Except (Nat × Nat) (List HubByte)
  | 0 => .ok []
  | n + 1 => match s.hubByte user asid secure va with
    | .error c => .error (va, c)
    | .ok b => match State.hubBytes s user asid secure (va + 1) n with
      | .ok l => .ok (b :: l)
      | .error e => .error e
/-- The physical address of a byte of this module. -/
def HubByte.home : HubByte → Option Nat
  | .here pa => some pa
  | .far _ => none

/-- A read on behalf of a user of the hub under an address space and world (R299): bytes, or the failing address and code (0: a line of a peer's that
must be asked for, R325); poisoned bytes are not taken (R292, log 95). -/
def State.hubRead (s : State) (user asid : Nat) (secure : Bool) (va n : Nat) : Except (Nat × Nat) (List Byte × State) :=
  match s.hubBytes user asid secure va n with
  | .error e => .error e
  | .ok bs =>
    let pas := bs.map HubByte.home
    match (List.range n).find? (fun i => (pas.getD i none).any s.poisoned) with
    | some i => .error (va + i, 0x12)
    | none =>
      let s1 := (((pas.filterMap id).map (· / 128)).eraseDups).foldl (fun t line => t.combine line) s
      .ok (bs.map (fun b => match b with | .here pa => readByte s1.mem pa | .far v => v), s1)
/-- R325: a request of a hub unit to a peer's home. -/
def State.hubSend (s : State) (use : HubUse) (op : PeerOp) (home asid : Nat) (secure : Bool) (va : Nat) (mask : BitVec 128) (words : List Word)
    (places : List Nat) : State :=
  s.sendPeerOut { peerPost none 0
    { src := 0, tag := 0, asid := asid, secure := secure, op := op, scope := .pkg, line := va / 128, mask := mask, words := words, expected := []
      places := places, poison := 0 } home (BitVec.ofNat 64 va) with hub := use }
/-- R325: a user of the hub asks a peer for a line, where it does not wait already. -/
def State.hubAsk (s : State) (user asid : Nat) (secure : Bool) (va : Nat) : State :=
  if s.fabric.outstanding.any (fun e => e.2.hub == .read user) then s else
  match s.translate asid secure true false va with
  | .peer h _ _ => s.hubSend (.read user) .read h asid secure va (wordMask va) [] []
  | _ => s
/-- The launch that a user of the hub reads for (log 111): a task's, or that of a LAUNCH; 0 for a ring. -/
def State.hubLaunch (s : State) (user : Nat) : Nat :=
  if user % 3 = 1 then ((cfind s.tasks (user / 3)).bind (·.launch)).getD 0
  else if user % 3 = 2 then ((s.strandAt (user / 3)).map (fun st => (s.team st.team).launch)).getD 0
  else 0
/-- A user of the hub is done with the lines it has read and asked for. -/
def State.hubDone (s : State) (user : Nat) : State :=
  { s with hub := { s.hub with lines := s.hub.lines.filter (fun l => l.user != user) }
           fabric := { s.fabric with outstanding := cmap (fun _ o => if o.hub == .read user then o.drop (s.hubLaunch user) none else o) s.fabric.outstanding } }

/-- A write on behalf of the hub, of consecutive bytes of one line; at a peer's home it is sent (R325). -/
def State.hubWrite (s : State) (use : HubUse) (asid : Nat) (secure : Bool) (va : Nat) (bs : List Byte) : Except (Nat × Nat) State :=
  match s.translate asid secure false true va with
  | .peer h _ _ =>
    let byte (k : Nat) : Byte := bs.getD (k - va % 128) 0
    .ok (s.hubSend use .store h asid secure va (BitVec.ofNat 128 ((2 ^ bs.length - 1) * 2 ^ (va % 128)))
      ((List.range 32).map (fun i => BitVec.ofNat 32 (leNat ((List.range 4).map (fun j => if va % 128 ≤ 4 * i + j then byte (4 * i + j) else 0))))) [])
  | _ => match s.transBytes asid secure false true va bs.length with
    | .error e => .error e
    | .ok pas => .ok (match pas with
      | [] => s
      | p :: _ => s.homeStore p bs)

end Sys2Proof.Machine
end

