-- ==== Sys2Proof/Machine/Ops.lean ====
section
/-!
DEFINITION. Shared operations: completing an instruction, taking a trap and returning from it (R70–R73, R78), barriers
(R228–R231), kills, tear-downs and retirement of teams (R258–R262), rope checkpoints, rollbacks and rebuilds (R277–R288).
-/
namespace Sys2Proof.Machine

/-- The outcome of a step. -/
abbrev Out := Host.Outcome State Fault Refusal

/-- A meaning acts for the current strand. -/
def onCur (s : State) (f : Strand → Out) : Out :=
  match s.strand? with
  | some st => f st
  | none => .fault .noStrand

/-- The core a strand stands on. -/
def State.coreOf (s : State) (st : Strand) : Nat := (s.team st.team).core
/-- The gang of a strand's team. -/
def State.gangOf (s : State) (st : Strand) : Gang := s.gang (s.team st.team).gang
/-- R68: the pc of the request being performed: its log entry's, else the strand's. -/
def Strand.reqPc (st : Strand) : Nat := match st.log with
  | e :: _ => e.pc
  | [] => st.pc
/-- R262: the error event a strand's failure makes. -/
def State.errorEvent (s : State) (st : Strand) (cls : Cls) (cause : Nat) (pc : Nat) (addr : DWord) : ErrEvent :=
  { cls := cls, addr := addr, team := (s.team st.team).index, strand := st.idx, hub := false, pc := pc, unit := s.coreOf st, cause := cause }
/-- The agent a strand is to the memory system. -/
def State.agentOf (s : State) (st : Strand) : Agent :=
  let l := s.launchOf st
  { core := s.viewCore st, launch := (s.team st.team).launch, asid := l.asid, secure := l.secure, dropped := l.dropped
    event := s.errorEvent st .ok 0 st.reqPc 0 }
/-- R91: an atomic or release clears the team's idempotent mark. -/
def State.noteSync (s : State) (st : Strand) : State := s.onTeam st.team (fun t => { t with idemp := false, synced := true })

/-! ### Ropes: who belongs to what (R265–R267) -/

/-- The rope level of a strand, 0 for SOLO. -/
def State.level (s : State) (st : Strand) : Nat := s.ropeLevel st
/-- The rope record of a strand's team. -/
def State.ropeOf (s : State) (st : Strand) : Rope :=
  (cfind s.ropes (s.team st.team).rope).getD
    { teams := [st.team], log := [], retry := 0, mismatches := 0, minorities := [], event := [], logFull := false, rolling := none
      saveXfers := [], saveNextXfer := [], saveSegs := [], saveImem := [] }
/-- A rope changed. -/
def State.onRope (s : State) (i : Nat) (f : Rope → Rope) : State :=
  match cfind s.ropes i with
  | some r => { s with ropes := cput s.ropes i (f r) }
  | none => s
/-- The strands of the teams of a rope (of the one team under SOLO). -/
def State.ropeStrands (s : State) (st : Strand) : List (Nat × Strand) :=
  if s.level st = 0 then s.strands.filter (fun e => e.2.team == st.team)
  else let r := s.ropeOf st; s.strands.filter (fun e => r.teams.contains e.2.team)
/-- R272: the counterparts: the same `%strand` in every other replica. -/
def State.counterparts (s : State) (st : Strand) : List (Nat × Strand) :=
  (s.ropeStrands st).filter (fun e => e.2.idx == st.idx && e.2.replica != st.replica)
/-- R273: a value handed to every counterpart of the leader. -/
def State.pushValue (s : State) (st : Strand) (v : RopeValue) : State :=
  if s.level st = 0 || st.replica != 0 then s
  else (s.counterparts st).foldl (fun t e => t.onStrandAt e.1 (fun c => { c with values := c.values ++ [v] })) s

/-! ### Barriers (R228–R231) -/

/-- The index of a barrier in a strand's record of arrivals; 256 more marks a MEET that has arrived and not completed. -/
def barKey (lv : BarLevel) (n : Nat) : Nat := levelCode lv * 16 + n
/-- R20: the declared count at a level. -/
def barCount (h : Header) : BarLevel → Nat
  | .team => h.tbar | .gang => h.gbar | .range => h.gbarRange | .launch => h.lbar
/-- A barrier's entry. -/
def State.barrier (s : State) (st : Strand) (lv : BarLevel) (n : Nat) : Barrier :=
  (match lv with
    | .team => cfind (s.team st.team).tbars n
    | .gang => cfind (s.gangOf st).gbars n
    | .range => cfind (s.launchOf st).rbars (dieOf (s.coreOf st) * 16 + n)
    | .launch => cfind (s.launchOf st).lbars n).getD Barrier.fresh
/-- A barrier's entry replaced. -/
def State.putBarrier (s : State) (st : Strand) (lv : BarLevel) (n : Nat) (b : Barrier) : State :=
  match lv with
  | .team => s.onTeam st.team (fun t => { t with tbars := cput t.tbars n b })
  | .gang => s.onGang (s.team st.team).gang (fun g => { g with gbars := cput g.gbars n b })
  | .range => s.onLaunch (s.team st.team).launch (fun l => { l with rbars := cput l.rbars (dieOf (s.coreOf st) * 16 + n) b })
  | .launch => s.onLaunch (s.team st.team).launch (fun l => { l with lbars := cput l.lbars n b })
/-- R229, R267: the strands in the table that take part at a level: leaders only. -/
def State.barDomain (s : State) (st : Strand) (lv : BarLevel) : List Strand :=
  (s.strands.filter (fun e => e.2.replica == 0 && match lv with
    | .team => e.2.team == st.team
    | .gang => (s.team e.2.team).gang == (s.team st.team).gang
    | .range => (s.team e.2.team).launch == (s.team st.team).launch && dieOf (s.coreOf e.2) == dieOf (s.coreOf st)
    | .launch => (s.team e.2.team).launch == (s.team st.team).launch)).map (·.2)
/-- R229: the number of participants. -/
def State.barTotal (s : State) (st : Strand) (lv : BarLevel) (b : Barrier) : Nat :=
  match lv with
  | .launch => let l := s.launchOf st; l.nx * l.ny * l.nz * l.header.strands
  | _ => (s.barDomain st lv).length + b.gone
/-- R231: participants that ended and have not arrived at the current phase. -/
def State.barGone (s : State) (st : Strand) (lv : BarLevel) (n : Nat) (b : Barrier) : Nat :=
  ((s.barDomain st lv).filter (fun x => x.run != .running && cfind x.arrivals (barKey lv n) != some (b.phase + 1))).length
/-- R230: the phase completes when every participant has arrived or is gone. -/
def State.barCheck (s : State) (st : Strand) (lv : BarLevel) (n : Nat) : State :=
  let b := s.barrier st lv n
  if s.barTotal st lv b ≤ b.count + s.barGone st lv n b + b.gone && (b.count != 0 || (s.barDomain st lv).any (·.run == .running)) then
    s.putBarrier st lv n { b with phase := b.phase + 1, count := 0 }
  else s
/-- R328: whether a launch's queue is bound to a span record. -/
def State.spanned (s : State) (lid : Nat) : Bool := (cfind s.fabric.spans (s.launch lid).queue).isSome
/-- R328: the other parts of a spanning launch are told something about a launch barrier (log 44). -/
def State.tellParts (s : State) (lid n : Nat) (k : PeerBarrier) : State :=
  if s.spanned lid then { s with fabric := { s.fabric with told := s.fabric.told ++ [.barrier lid n k] } } else s
/-- The index in a strand's arrivals that says its end has been told; it outlives a rollback, since a logged EXIT is performed once (R276). -/
def goneMark : Nat := 200
/-- R328, R231: the end of strand `i` told to the other parts of its launch, once. -/
def State.tellEnd (s : State) (i : Nat) (st : Strand) (killed : Bool) : State :=
  let lid := (s.team st.team).launch
  if st.replica != 0 || !(s.spanned lid) || (cfind st.arrivals goneMark).isSome then s
  else ((List.range (s.headerOf st).lbar).foldl (fun (t : State) n =>
    let p := (s.barrier st .launch n).phase
    t.tellParts lid n (match killed, cfind st.arrivals (barKey .launch n) == some (p + 1) with
      | false, false => .gone
      | true, false => .killed
      | false, true => .goneArrived p
      | true, true => .killedArrived p)) s).onStrandAt i (fun x => { x with arrivals := cput x.arrivals goneMark 1 })
/-- The levels. -/
def barLevels : List BarLevel := [.team, .gang, .range, .launch]
/-- Every declared barrier of a strand, in order. -/
def State.eachBar (s : State) (st : Strand) (f : State → BarLevel → Nat → State) : State :=
  barLevels.foldl (fun t lv => (List.range (barCount (s.headerOf st) lv)).foldl (fun t n => f t lv n) t) s
/-- R231: a participant ended: phases it kept open may complete, and a kill sets ABANDONED. -/
def State.barEnded (s : State) (st : Strand) (killed : Bool) : State :=
  if st.replica != 0 then s else
  s.eachBar st (fun t lv n =>
    let t1 := if killed then t.putBarrier st lv n { t.barrier st lv n with abandoned := true } else t
    let b := t1.barrier st lv n
    if b.count = 0 then t1 else t1.barCheck st lv n)

/-! ### The barrier table (R205, R228) -/

/-- R228: whether an entry is a borrowed one. -/
def BarOwner.borrowed : BarOwner → Bool
  | .range _ _ | .launch _ _ => true
  | .team _ _ | .gang _ _ => false
/-- Whether a team's context is its partition's working one. -/
def State.onPlane (s : State) (l : Launch) : Bool := l.plane == (s.part l.part).plane
/-- R228, R267: the entries that must stand in a core's share of cluster `k`, with that core: leaders' alone. DESIGN CHOICE (log 115): the team
entries of a moved team stand in its new core's share. -/
def State.barShares (s : State) (k : Nat) : List (Nat × BarOwner) :=
  (s.teams.filter (fun e => clusterOf e.2.core == k && e.2.replica == 0 && s.onPlane (s.launch e.2.launch))).flatMap (fun e =>
    (List.range (s.launch e.2.launch).header.tbar).map (fun n => (e.2.core, BarOwner.team e.1 n)))
  ++ (s.gangs.filter (fun e => e.2.cluster == k && e.2.replica == 0 && s.onPlane (s.launch e.2.launch))).flatMap (fun e =>
    (List.range (s.launch e.2.launch).header.gbar).map (fun n => (e.2.barCore, BarOwner.gang e.1 n)))
/-- R228, R267: the range and launch entries that launches with a leader team in cluster `k` take. -/
def State.barBorrows (s : State) (k : Nat) : List BarOwner :=
  (s.launches.filter (fun e => s.onPlane e.2 && s.teams.any (fun t => t.2.launch == e.1 && t.2.replica == 0 && clusterOf t.2.core == k))).flatMap (fun e =>
    (List.range e.2.header.gbarRange).map (BarOwner.range e.1) ++ (List.range e.2.header.lbar).map (BarOwner.launch e.1))
/-- R228: an entry of a core's share takes a free place of the share, or that of a borrowed entry, which is spilled. -/
def barTake (t : Cells BarOwner) (core : Nat) (o : BarOwner) : Cells BarOwner :=
  let share := (List.range 16).map (16 * (core % 256) + ·)
  if t.any (fun e => e.2 == o && share.contains e.1) then t else
  let t := t.filter (fun e => e.2 != o)
  match share.find? (fun n => (cfind t n).isNone), share.find? (fun n => ((cfind t n).map BarOwner.borrowed) == some true) with
  | some n, _ | none, some n => cput t n o
  | none, none => t
/-- R228: a borrowed entry takes the lowest free place, where there is one. -/
def barBorrow (t : Cells BarOwner) (o : BarOwner) : Cells BarOwner :=
  if t.any (fun e => e.2 == o) then t else match (List.range 4096).find? (fun n => (cfind t n).isNone) with
    | some n => cput t n o
    | none => t
/-- R228: the barrier table of cluster `k` brought up to date: entries whose users have gone are freed, new ones placed, spilled ones return. -/
def State.settleBars (s : State) (k : Nat) : State :=
  let own := s.barShares k
  let lent := s.barBorrows k
  if own.isEmpty && lent.isEmpty && (s.cluster k).bars.isEmpty then s else
  s.onCluster k (fun c =>
    let kept := c.bars.filter (fun e => own.any (fun o => o.2 == e.2) || lent.contains e.2)
    { c with bars := lent.foldl barBorrow (own.foldl (fun t o => barTake t o.1 o.2) kept) })
/-- R228: the barrier tables brought up to date; a range or launch barrier with an entry that stands in no table is marked spilled. -/
def State.settleSpills (s : State) : State :=
  let t := (List.range 8).foldl State.settleBars s
  let out (o : BarOwner) (k : Nat) : Bool := (t.barBorrows k).contains o && !((t.cluster k).bars.any (fun e => e.2 == o))
  { t with launches := cmap (fun lid l => { l with
      rbars := cmap (fun x b => { b with spilled := [2 * (x / 16), 2 * (x / 16) + 1].any (out (.range lid (x % 16))) }) l.rbars
      lbars := cmap (fun n b => { b with spilled := (List.range 8).any (out (.launch lid n)) }) l.lbars }) t.launches }

/-! ### Resident strands -/

/-- R201: a strand whose context is the working one of a core that is not halted. -/
def State.resident (s : State) (st : Strand) : Bool :=
  let t := s.team st.team
  st.run == .running && t.plane == (s.part (s.launch t.launch).part).plane && !(s.core t.core).halted && !s.power.stopped
/-- R282 step 1: whether a rollback of a strand's rope is under way, which stops critical strands too. -/
def State.rolling (s : State) (st : Strand) : Bool := ((cfind s.ropes (s.team st.team).rope).bind (·.rolling)).isSome
/-- R94, R200, R204, R232: a strand that a halt asked of its core, or a migration ordered, has stopped: a critical one not before 100 µs. -/
def State.halting (s : State) (st : Strand) : Bool :=
  let stops : Option Nat → Bool
    | some t => !st.crit || decide (t + 100000 ≤ s.time)
    | none => false
  stops (s.core (s.coreOf st)).haltAsked || stops (s.gangOf st).moving
/-- R94, R200, R204, R282: a strand that a requested stop has stopped. -/
def State.stopping (s : State) (st : Strand) : Bool := s.rolling st || s.halting st
/-- A strand that may issue. -/
def State.working (s : State) (st : Strand) : Bool := s.resident st && !s.stopping st

/-! ### Retirement of teams (R79, R192, R219, R258) -/

/-- R145: a transfer has ended. -/
def Xfer.ended (x : Xfer) : Bool := match x.state with
  | .done | .aborted | .fault => true
  | _ => false
/-- R79, R282: every strand of the team, in every replica, has ended and so have the transfers. -/
def State.teamDone (s : State) (tid : Nat) : Bool :=
  let t := s.team tid
  let group := match cfind s.ropes t.rope with
    | some r => if t.rope = 0 then [tid] else r.teams
    | none => [tid]
  s.strands.all (fun e => !(group.contains e.2.team) || e.2.run != .running)
    && group.all (fun i => (s.team i).xfers.all Xfer.ended)
/-- R219: a team leaves its knit; an entry without members is free. -/
def State.leaveKnit (s : State) (tid : Nat) : State :=
  let t := s.team tid
  s.onCluster t.knitCluster (fun c => match cfind c.knits t.knit with
    | some k =>
      let k1 := { k with members := cdel k.members t.knitMember }
      { c with knits := cput c.knits t.knit { k1 with used := k1.used && !k1.members.isEmpty } }
    | none => c)
/-- R219: the lowest free entry of a cluster's knit table taken for teams 0, 1, …; its number. -/
def State.takeKnit (s : State) (k : Nat) (part : Nat) (secure : Bool) (teams : List Nat) : Nat × State :=
  let c := s.cluster k
  let free (n : Nat) : Bool := match cfind c.knits n with | some e => !e.used | none => true
  let n := ((List.range 4096).find? free).getD 0
  let gen := ((cfind c.knits n).map (·.gen)).getD 0 + 1
  let e : Knit := { gen := if gen = 0 then 1 else gen, used := true, part := part, secure := secure
                    members := (List.range teams.length).zip teams }
  let s1 := s.onCluster k (fun c => { c with knits := cput c.knits n e })
  (n, ((List.range teams.length).zip teams).foldl (fun t e => t.onTeam e.2 (fun x => { x with knit := n, knitMember := e.1, knitCluster := k })) s1)
/-- A team whose strands and transfers have ended leaves the core, with what it holds alone. -/
def State.removeTeam (s : State) (tid : Nat) : State :=
  let t := s.team tid
  let mine := s.strands.filter (fun e => e.2.team == tid)
  let s1 := (s.leaveKnit tid)
  -- R231: strands of a retired team stay gone at wider barriers
  let s2 := mine.foldl (fun u e => if e.2.replica != 0 then u else
    u.eachBar e.2 (fun u lv n => match lv with
      | .team => u
      | _ =>
        let b := u.barrier e.2 lv n
        let here := cfind e.2.arrivals (barKey lv n) == some (b.phase + 1)
        u.putBarrier e.2 lv n { b with gone := b.gone + 1, count := if here then b.count - 1 else b.count })) s1
  let s3 := { s2 with strands := s2.strands.filter (fun e => e.2.team != tid), teams := cdel s2.teams tid }
  let s4 := s3.onGang t.gang (fun g => { g with teams := g.teams.filter (· != tid) })
  let s5 := if (s4.gang t.gang).teams.isEmpty then { s4 with gangs := cdel s4.gangs t.gang } else s4
  -- R192: the imem half is freed with the launch's last team on the core
  let s6 := if s5.teams.any (fun e => e.2.launch == t.launch && e.2.core == t.core) then s5
    else s5.onLaunch t.launch (fun l => { l with imems := cdel l.imems t.core })
  s6.settleSpills
/-- Teams of a rope (or the team alone) that are done retire. -/
def State.reap (s : State) (tid : Nat) : State :=
  if (cfind s.teams tid).isNone || !(s.teamDone tid) then s else
  let t := s.team tid
  let group := match cfind s.ropes t.rope with
    | some r => if t.rope = 0 then [tid] else r.teams
    | none => [tid]
  let s1 := group.foldl (fun u i => u.removeTeam i) s
  if t.rope = 0 then s1 else { s1 with ropes := cdel s1.ropes t.rope }

/-! ### Ends of strands (R79, R258) -/

/-- R196: a core's scheduler. -/
def Core.sched (c : Core) (i : Bool) : Sched := if i then c.s1 else c.s0
/-- A scheduler of a core changed. -/
def Core.onSched (c : Core) (i : Bool) (f : Sched → Sched) : Core := if i then { c with s1 := f c.s1 } else { c with s0 := f c.s0 }
/-- R198, R232: the critical strands that a scheduler holds, of the context that works there. -/
def State.critHeld (s : State) (core : Nat) (sched : Bool) : Nat :=
  (s.strands.filter (fun e => e.2.crit && e.2.run == .running && e.2.sched == sched && s.coreOf e.2 == core && s.onPlane (s.launchOf e.2))).length
/-- R198, R200: the oldest waiting CRIT of a scheduler, of a strand that no stop has stopped. -/
def State.oldestCrit (s : State) (core : Nat) (sched : Bool) : Option Nat :=
  ((s.core core).sched sched).critWait.find? (fun w => ((s.strandAt w).map s.working).getD false)
/-- R198: the oldest waiting CRIT of a scheduler completes where the scheduler holds fewer than four critical strands. -/
def State.grantCrit (s : State) (core : Nat) (sched : Bool) : State :=
  if 4 ≤ s.critHeld core sched then s else match s.oldestCrit core sched with
  | none => s
  | some w => (s.onCore core (fun c => c.onSched sched (fun q => { q with critWait := q.critWait.filter (· != w) }))).onStrandAt w
      (fun x => ({ x with crit := true, wait := .none }).advance)
/-- R198: a strand's CRIT is over: the oldest waiting CRIT on its scheduler completes. -/
def State.endCrit (s : State) (i : Nat) (st : Strand) : State :=
  (s.onStrandAt i (fun x => { x with crit := false })).grantCrit (s.coreOf st) st.sched
/-- A strand leaves the waiting lists of its gang's queues. -/
def State.unqueue (s : State) (i gang : Nat) : State :=
  s.onGang gang (fun g => { g with queues := cmap (fun _ q =>
    { q with pushers := q.pushers.filter (· != i), poppers := q.poppers.filter (· != i) }) g.queues })
/-- R325: the lines that a strand has asked peers for are no longer awaited: it goes elsewhere. -/
def State.abandonReads (s : State) (i : Nat) : State :=
  match s.strandAt i with
  | none => s
  | some st => { s with fabric := { s.fabric with outstanding := cmap (fun _ o =>
      if o.strand == i && o.req.op == .read then o.drop (s.team st.team).launch (some (s.errorEvent st .ok 0 st.reqPc 0)) else o) s.fabric.outstanding } }
/-- A strand ends: its log and pending nodes are discarded (R79, R258), barriers and queues take note. -/
def State.endStrand (s : State) (i : Nat) (how : Run) : State :=
  match s.strandAt i with
  | none => s
  | some st =>
    let core := s.coreOf st
    let s1 := (if st.crit then s.endCrit i st else s).onStrandAt i (fun x => { (x.setLog []) with
      run := how, wait := .none, flip := none, nodes := [], timer := none, timerDue := false, crit := false, presented := none, committed := false })
    let s2 := s1.onCore core (fun c => c.onSched st.sched (fun q => { q with critWait := q.critWait.filter (· != i) }))
    let s3 := (s2.unqueue i (s.team st.team).gang).abandonReads i
    let st1 := (s3.strandAt i).getD st
    (s3.tellEnd i st1 (how == .killed)).barEnded st1 (how == .killed)

/-- R262: an error event of a device time recorded: the first sets CLASS unless a tear-down does, the others are counted; of kills at one time
the first is that of the lowest team index, then strand (log 66). -/
def recordEvent (now : Nat) (e : ErrEvent) (tear : Bool) (l : Launch) : Launch :=
  match l.event with
  | none => { l with event := some e, eventAt := now, torn := if tear then some e.cls else l.torn }
  | some old =>
    let earlier := l.eventAt == now && (decide (e.team < old.team) || (e.team == old.team && decide (e.strand < old.strand)))
    if l.torn.isNone && (tear || earlier) then
      { l with event := some e, eventAt := now, torn := if tear then some e.cls else l.torn, count := min 255 (l.count + 1) }
    else { l with count := min 255 (l.count + 1) }

/-- R258: a strand killed. -/
def State.killStrand (s : State) (i : Nat) (cls : Cls) (cause : Nat) (pc : Nat) (addr : DWord) : State :=
  match s.strandAt i with
  | none => s
  | some st =>
    ((s.onLaunch (s.team st.team).launch (recordEvent s.time (s.errorEvent st cls cause pc addr) false)).endStrand i .killed).reap st.team

/-- R259: a line of a core's L1 as a tear-down of launch `lid` leaves it: each word it stored and has not released is performed at its home or
discarded. -/
def State.decideLine (s : State) (lid core : Nat) (l : L1Line) : State :=
  let mine (e : Nat × L1Word) : Bool := e.2.owner == lid && (match e.2.st with | .dirty _ => true | _ => false)
  if !(l.words.any mine) then s else
  let kept := { l with words := l.words.filter (fun e => mine e && Config.tearDownPerforms s.fresh (128 * l.pline + 4 * e.1)) }
  (s.writeLineHome core kept .pkg).putLine core { l with words := l.words.filter (fun e => !(mine e)) }
/-- R259: the words of a launch that were not released are decided one by one, in whatever L1 they stand; partial sums are combined, and words
that lost their L1 to another alias (R207) reach the home (log 98). -/
def State.decideWords (s : State) (lid : Nat) : State :=
  let asid := (s.launch lid).asid
  let s1 := s.cores.foldl (fun (t : State) c => c.2.l1.foldl (fun (t : State) l =>
    if l.asid != asid then t else if hasUpdate l then t.combine l.pline else t.decideLine lid c.1 l) t) s
  let ours (w : Nat) : Bool := s1.pages.any (fun p => p.asid == asid && (match p.frame with
    | some f => decide (f ≤ 4 * w) && decide (4 * w < f + p.size)
    | none => false))
  let s2 := (List.range 8).foldl (fun (t : State) k => t.l2WriteHome k (fun w => ours w && ((t.l2Word k w).map (·.level)) == some 0)) s1
  { s2 with fresh := s2.fresh + 1 }

/-- R259: a command torn down with a class: strands discarded, transfers ended FAULT, everything it holds freed. -/
def State.tearDown (s : State) (lid : Nat) (e : ErrEvent) : State :=
  if (cfind s.launches lid).isNone || (s.launch lid).torn.isSome then s.onLaunch lid (recordEvent s.time e true) else
  let s0 := (s.onLaunch lid (recordEvent s.time e true)).decideWords lid
  let mine := (s0.teams.filter (fun x => x.2.launch == lid)).map (·.1)
  let s0 := if s0.spanned lid then (s0.strands.filter (fun x => mine.contains x.2.team && x.2.run == .running)).foldl (fun t x => t.tellEnd x.1 x.2 false) s0
    else s0
  let s2 := mine.foldl (fun t i => t.leaveKnit i) s0
  let ids := (s2.strands.filter (fun x => mine.contains x.2.team)).map (·.1)
  let s3 := { s2 with
    strands := s2.strands.filter (fun x => !(mine.contains x.2.team))
    teams := s2.teams.filter (fun x => x.2.launch != lid)
    gangs := s2.gangs.filter (fun x => x.2.launch != lid)
    ropes := s2.ropes.filter (fun x => !(x.2.teams.any mine.contains))
    cores := cmap (fun _ c => { c with
      s0 := { c.s0 with critWait := c.s0.critWait.filter (fun w => !(ids.contains w)) }
      s1 := { c.s1 with critWait := c.s1.critWait.filter (fun w => !(ids.contains w)) } }) s2.cores }
  let s4 := (s0.strands.filter (fun x => mine.contains x.2.team && x.2.crit)).foldl (fun t x => t.grantCrit (s0.coreOf x.2) x.2.sched) s3
  (s4.onLaunch lid (fun l => { l with imems := [], rbars := [], lbars := [] })).settleSpills

/-! ### Traps (R70–R73) -/

/-- R70: what a trap writes. -/
structure Trap where
  cause : Nat
  detail : Nat
  pc : Nat
  epc : Nat
  addr : DWord
  info : DWord
  deriving DecidableEq, Repr

/-- R70: a trap taken at issue, with no effect. -/
def Trap.atIssue (st : Strand) (cause detail : Nat) (addr : DWord) : Trap :=
  { cause := cause, detail := detail, pc := st.pc, epc := st.pc, addr := addr, info := 0 }

/-- R71: ACTIVE. -/
def Strand.active? (st : Strand) : Bool := st.trapcause.getLsbD 63

/-- R283: a strand is in the handler of MINORITY, which no other replica runs. -/
def Strand.inMinority (st : Strand) : Bool := st.active? && st.trapcause.toNat % 256 == 0x0C
/-- Whether an instruction that a strand has issued waits at its pc; a release that stands in the operand log waits elsewhere. -/
def Strand.atPc (st : Strand) : Bool := st.wait != .none && !(st.wait == .release && !st.log.isEmpty)
/-- R272, R274: the instructions a strand has issued, one that waits at its pc not counted. -/
def Strand.completed (st : Strand) : Nat := if st.atPc && !st.inMinority then st.issued - 1 else st.issued
/-- R200: a strand whose waiting instruction is presented again counts it then. -/
def Strand.unissue (st : Strand) : Strand :=
  { st with issued := st.completed, handled := if st.atPc && st.active? && !st.inMinority then st.handled - 1 else st.handled }
/-- R183: the passes of a strand that comes to a core wait for its matrix unit. -/
def Strand.parkPasses (st : Strand) : Strand :=
  { st with nodes := st.nodes.map (fun n => { n with pass := n.pass.map (fun p => { p with waits := true }) }) }

/-- R73: the registers of trap entry. What an instruction that waits at the pc has read is forgotten, what one of the operand log has read is not. -/
def Strand.enterTrap (st : Strand) (t : Trap) : Strand :=
  { st with
    trapcause := BitVec.ofNat 64 (2 ^ 63 + (t.detail % 2 ^ 16) * 2 ^ 16 + t.cause)
    trappc := BitVec.ofNat 64 t.pc
    epc := BitVec.ofNat 64 t.epc
    trapaddr := t.addr
    trapinfo := t.info
    pc := st.trapvec.toNat
    wait := .none
    flip := none
    presented := none
    committed := false
    copied := if st.log.isEmpty then none else st.copied
    peerLines := [] }

/-- A strand no longer waits for a critical slot of its scheduler. -/
def State.leaveCritWait (s : State) (i : Nat) (st : Strand) : State :=
  if st.wait != .crit then s else
  s.onCore (s.coreOf st) (fun c => c.onSched st.sched (fun q => { q with critWait := q.critWait.filter (· != i) }))

/-- R262, R72: the PC that the kill of an unhandled trap reports: the APPC of node work for TILE. -/
def Trap.app (t : Trap) : Nat := if t.cause = 0x0A then t.info.toNat % 2 ^ 16 else t.pc
/-- R73, R23, R285: strand `i` takes a non-fatal trap: TIMER in a handler stays pending; with no handler, or in one, the
strand is killed (under a rope the cause is first presented for comparison). -/
def State.takeTrap (s : State) (i : Nat) (t : Trap) : State :=
  match s.strandAt i with
  | none => s
  | some st =>
    if st.active? && t.cause == 0x08 then s.putStrandAt i { st with timerDue := true }
    else if st.active? || st.trapvec == 0xFFFFFFFF then
      if s.level st = 0 then s.killStrand i .strandKilled t.cause t.app t.addr
      else s.putStrandAt i { st with wait := .release, presented := some (.cause t.cause t.pc t.app t.addr), committed := false }
    else (s.leaveCritWait i st).putStrandAt i (st.enterTrap t)

/-- A trap of the current strand. -/
def trapCur (s : State) (t : Trap) : Out := .next (s.takeTrap s.cur t)
/-- ILLEGAL at issue (R57). -/
def illegal (s : State) (st : Strand) (addr : DWord) : Out := trapCur s (Trap.atIssue st 0x01 0 addr)
/-- FORMAT at issue (R57, R70). -/
def formatTrap (s : State) (st : Strand) (b : Bad) : Out := trapCur s (Trap.atIssue st 0x03 b.detail 0)
/-- ALIGN at issue. -/
def alignTrap (s : State) (st : Strand) (addr : DWord) : Out := trapCur s (Trap.atIssue st 0x04 0 addr)

/-- R78: the return from a handler, to a checked target. -/
def Strand.returnFromTrap (st : Strand) : Strand :=
  { st with trapcause := st.trapcause &&& 0x7FFFFFFFFFFFFFFF, pc := st.epc.toNat }

/-- R66, R29: strand `i`, its results written in `st` at the instruction's pc, completes: flags are set, the pc advances,
and an enabled flag traps ARITH. -/
def State.complete (s : State) (i : Nat) (st : Strand) (fl : IFlags) : State :=
  let st1 := { st with flags := st.flags ||| fl, wait := .none }.advance
  let en := fl &&& (s.headerOf st).trapen
  let s1 := s.putStrandAt i st1
  if en = 0 then s1
  else s1.takeTrap i { cause := 0x05, detail := en.toNat, pc := st.pc, epc := st.pc + 4, addr := 0, info := 0 }

/-- The current strand's instruction completes. -/
def finish (s : State) (st : Strand) (fl : IFlags) : Out := .next (s.complete s.cur st fl)

/-- R58: the trap of a control target, if it has one: outside 0 to 65,532 ILLEGAL; a register target not a multiple of
4 ALIGN. -/
def targetTrap (st : Strand) (reg : Bool) (t : DWord) : Option Trap :=
  if reg && t.toNat % 4 != 0 then some (Trap.atIssue st 0x04 0 t)
  else if 65536 ≤ t.toNat then some (Trap.atIssue st 0x01 0 t)
  else none

/-- A taken transfer to a checked target. -/
def jumpTo (s : State) (st : Strand) (reg : Bool) (t : DWord) (after : Strand → Strand) : Out :=
  match targetTrap st reg t with
  | some tr => trapCur s tr
  | none => .next (s.putStrand { (after st) with pc := t.toNat })

/-! ### Rope checkpoints, rollbacks and rebuilds (R277–R288) -/

/-- R277: the key in a strand's arrivals that says its CKPT has been released and waits at the gathering. -/
def ckptMark : Nat := 512
/-- R277, R278: what a checkpoint saves of a strand, and the copy of its working plane. One `gathered` by CKPT takes the strand past it; that of
a full log leaves a strand at the gathering where it is. -/
def Strand.checkpoint (gathered : Bool) (x : Strand) : Strand :=
  let past := gathered && x.wait == .ckpt
  let st : Strand := if gathered then { x with arrivals := cdel x.arrivals ckptMark } else x
  let pc := if past then st.pc + 4 else st.pc
  let again := if past then st else st.unissue
  let sv : StrandSave := { pc := pc, flags := st.flags, trapcause := st.trapcause, trappc := st.trappc, trapaddr := st.trapaddr
                           trapinfo := st.trapinfo, epc := st.epc, trapvec := st.trapvec, timer := st.timer
                           timerDue := st.timerDue, ropeseq := st.ropeseq
                           issued := again.issued, handled := again.handled
                           nodes := st.nodes, batch := st.batch, run := st.run
                           marks := st.arrivals.filter (fun e => decide (256 ≤ e.1)), buffer := st.buffer, sig := st.sig }
  { (st.withStaging st.slot) with save := some sv, pc := pc, wait := if past then .none else st.wait }

/-- R277, R278: a checkpoint of the team in every replica. -/
def State.checkpoint (s : State) (rid : Nat) (gathered : Bool) : State :=
  match cfind s.ropes rid with
  | none => s
  | some r =>
    let s1 := { s with
      strands := cmap (fun _ st => if r.teams.contains st.team then st.checkpoint gathered else st) s.strands
      teams := cmap (fun i t => if r.teams.contains i then { t with sp := t.sp.copy } else t) s.teams }
    s1.onRope rid (fun r => { r with
      log := [], logFull := false
      saveXfers := r.teams.map (fun i => (i, (s.team i).xfers))
      saveNextXfer := r.teams.map (fun i => (i, (s.team i).nextXfer))
      saveSegs := r.teams.map (fun i => (i, (s.gang (s.team i).gang).segs.map (·.sel)))
      saveImem := r.teams.map (fun i => (i, (((cfind (s.launch (s.team i).launch).imems (s.team i).core).map (·.planes.sel)).getD false))) })

/-- R282 step 4: a strand restored to the checkpoint. DESIGN CHOICE (log 114): one that was critical is not so afterwards, wherever its checkpoint
stands. -/
def Strand.restore (st : Strand) : Strand :=
  match st.save with
  | none => st
  | some v =>
    let x := st.withSlot st.staging
    Strand.parkPasses { x with
      pc := v.pc, flags := v.flags, trapcause := v.trapcause, trappc := v.trappc, trapaddr := v.trapaddr, trapinfo := v.trapinfo
      epc := v.epc, trapvec := v.trapvec, timer := v.timer, timerDue := v.timerDue, ropeseq := v.ropeseq, nodes := v.nodes, batch := v.batch
      run := v.run, wait := .none, buffer := v.buffer, values := [], sig := v.sig, presented := none, committed := false, issued := v.issued, handled := v.handled
      tstDone := 0, peerLines := [], peerDone := [], copied := none, flip := none, crit := false, arrivals := st.arrivals.filter (fun e => decide (e.1 < 256)) ++ v.marks }

/-- R287: the last event of every replica of a rope. -/
def setEvents (replicas : List Nat) (f : Nat → Nat) (ev : Cells Nat) : Cells Nat := replicas.foldl (fun m k => cput m k (f k)) ev
/-- The replica indices of a rope. -/
def State.replicas (s : State) (st : Strand) : List Nat := ((s.ropeStrands st).map (·.2.replica)).eraseDups

/-- R276, R281: the command torn down DIVERGED, reported for the leader strand. -/
def State.diverge (s : State) (st : Strand) (pc : Nat) : State :=
  let lead := (((s.ropeStrands st).find? (fun e => e.2.idx == st.idx && e.2.replica == 0)).map (·.2)).getD st
  s.tearDown (s.team st.team).launch (s.errorEvent lead .diverged 0x13 pc 0)

/-- R281, R282 steps 1 and 2: a rollback of the rope of `st` ordered, its strands stopping. `event` is the code of R287, `pc` and `seq` name the
disagreement, `sigOf` gives each replica's `%trapinfo`. The one that brings RETRY to 3 tears the command down. -/
def State.rollback (s : State) (st : Strand) (event pc seq : Nat) (sigOf : Nat → DWord) : State :=
  let r := s.ropeOf st
  if r.rolling.isSome then s
  else if 3 ≤ r.retry + 1 then s.diverge st pc
  else s.onRope (s.team st.team).rope (fun r => { r with
    rolling := some { event := event, pc := pc, seq := seq, infos := (s.replicas st).map (fun k => (k, sigOf k)) } })
/-- R242, R282: whether a strand performs a matched release, or has sent to peers what they have still to answer; it is finished first. -/
def State.midRelease (s : State) (i : Nat) (st : Strand) : Bool :=
  st.committed || !st.peerDone.isEmpty || s.fabric.outstanding.any (fun e => e.2.strand == i && e.2.req.op != .read)
/-- R282 step 3: every transfer of a rope's teams has ended, or has failed and waits for the comparison. -/
def State.ropeXfersEnded (s : State) (r : Rope) : Bool := r.teams.all (fun i => (s.team i).xfers.all (fun x => x.ended || x.fault != 0))
/-- R282 steps 4 to 6: the rollback `h` of the rope of `st` carried out. -/
def State.rollbackNow (s : State) (st : Strand) (h : RopeHalt) : State :=
  let rid := (s.team st.team).rope
  let r := s.ropeOf st
  let ids := (s.ropeStrands st).map (·.1)
  let sa := (s.ropeStrands st).foldl (fun u e => if e.2.crit then u.endCrit e.1 e.2 else u) s
  let s := (s.ropeStrands st).foldl (fun u e => ((u.leaveCritWait e.1 e.2).unqueue e.1 (u.team e.2.team).gang).abandonReads e.1) sa
  let s1 := { s with
    strands := cmap (fun i x => if ids.contains i then x.restore else x) s.strands
    teams := cmap (fun i t => if r.teams.contains i then { t with
        sp := t.sp.withWork t.sp.stage
        xfers := (cfind r.saveXfers i).getD t.xfers, nextXfer := (cfind r.saveNextXfer i).getD t.nextXfer } else t) s.teams }
  let s2 := r.teams.foldl (fun u i =>
    let t := u.team i
    let u1 := u.onGang t.gang (fun g => { g with segs := (List.range g.segs.length).map (fun k =>
      let p := g.segs.getD k Planes.empty
      { p with sel := ((cfind r.saveSegs i).getD []).getD k p.sel }) })
    u1.onLaunch t.launch (fun l => match cfind l.imems t.core with
      | some im => { l with imems := cput l.imems t.core { im with planes := { im.planes with sel := (cfind r.saveImem i).getD im.planes.sel } } }
      | none => l)) s1
  let s3 := s2.onRope rid (fun r => { r with
    rolling := none, logFull := false, retry := r.retry + 1, mismatches := min 65535 (r.mismatches + 1), event := setEvents (s.replicas st) (fun _ => h.event) r.event })
  ids.foldl (fun u i => match u.strandAt i with
    | some x => if x.run == .running && x.trapvec != 0xFFFFFFFF && !x.active? then
        u.putStrandAt i (x.enterTrap { cause := 0x0B, detail := h.seq % 2 ^ 16, pc := h.pc, epc := x.pc, addr := 0, info := cget 0 h.infos x.replica })
      else u
    | none => u) s3
/-- R282 step 3: a rollback goes on once every transfer has ended and no matched release is still being performed. -/
def State.rollTry (s : State) (st : Strand) (h : RopeHalt) : State :=
  if s.ropeXfersEnded (s.ropeOf st) && !((s.ropeStrands st).any (fun e => s.midRelease e.1 e.2)) then s.rollbackNow st h else s

/-- R283: the donor's context copied into the odd replica, strand by strand, keeping the odd one's place and its standing at its scheduler. A CRIT
that waits is presented again (R200). DESIGN CHOICE (log 114): where the scheduler of the odd one has no room for a critical strand, the copy of a
critical one is not critical. -/
def copyStrand (odd donor : Strand) (room : Bool) : Strand :=
  let x := if donor.wait == .crit then { donor.unissue with wait := .none } else donor
  Strand.parkPasses { x with
    team := odd.team, replica := odd.replica, sched := odd.sched, slotNo := odd.slotNo, age := odd.age, readyFor := odd.readyFor, promoted := odd.promoted
    crit := donor.crit && room }
/-- R283, R198: strand `i` of the odd second given the donor's context: it leaves its scheduler's critical strands and waiters first. -/
def State.copyOver (s : State) (i : Nat) (odd donor : Strand) : State :=
  let u := s.leaveCritWait i odd
  let v := (if odd.crit then u.endCrit i odd else u).abandonReads i
  v.putStrandAt i (copyStrand odd donor (decide (v.critHeld (s.coreOf odd) odd.sched < 4)))

/-- R283: the odd second rebuilt from the donor, its team's cells and its core's imem half among it; MINORITY follows when the release has
completed. -/
def State.rebuild (s : State) (st : Strand) (odd donor : Nat) : State :=
  let rs := s.ropeStrands st
  let rid := (s.team st.team).rope
  let s1 := rs.foldl (fun u e => if e.2.replica != odd then u else
    match rs.find? (fun d => d.2.replica == donor && d.2.idx == e.2.idx) with
    | some d => u.copyOver e.1 e.2 d.2
    | none => u) s
  let teamOf (k : Nat) : Option Nat := (rs.find? (fun e => e.2.replica == k)).map (·.2.team)
  let s2 := match teamOf odd, teamOf donor with
    | some o, some d =>
      let y := s1.team d
      let half : Option Imem := cfind (s1.launch y.launch).imems y.core
      (s1.onTeam o (fun t => { t with sp := y.sp, xfers := y.xfers, nextXfer := y.nextXfer, cbs := y.cbs })).onLaunch y.launch (fun l =>
        match half, (cfind l.imems (s1.team o).core).isSome with
        | some im, true => { l with imems := cput l.imems (s1.team o).core im }
        | _, _ => l)
    | _, _ => s1
  s2.onRope rid (fun r => { r with
    minorities := cput r.minorities odd (min 65535 (cget 0 r.minorities odd + 1))
    event := setEvents (s.replicas st) (fun k => if k = odd then 2 else 3) r.event })

/-- R283: MINORITY taken by the strands of the rebuilt replica. -/
def State.minority (s : State) (st : Strand) (odd pc seq : Nat) (sig : DWord) : State :=
  (s.ropeStrands st).foldl (fun u e => match u.strandAt e.1 with
    | some x => if x.replica == odd && x.run == .running && x.trapvec != 0xFFFFFFFF && !x.active? then
        (u.abandonReads e.1).putStrandAt e.1 (x.unissue.enterTrap { cause := 0x0C, detail := seq % 2 ^ 16, pc := pc, epc := x.pc, addr := 0, info := sig })
      else u
    | none => u) s

/-- R285, R261: an error in one replica of a rope is a mismatch in which that replica is the odd one. -/
def State.ropeError (s : State) (st : Strand) (pc : Nat) : State :=
  let seq := st.ropeseq + 1
  if s.level st = 3 && st.replica != 0 then
    let donor := if st.replica = 1 then 2 else 1
    let s1 := s.rebuild st st.replica donor
    (s1.onRope (s.team st.team).rope (fun r => { r with event := setEvents (s.replicas st) (fun k => if k = st.replica then 5 else 3) r.event })).minority
      st st.replica pc seq 0
  else s.rollback st 5 pc seq (fun _ => 0)

/-- R70, R210, R123, R285: strand `i` meets a fatal cause at an instruction's `pc`, reported with `app`: a consumed uncorrectable error kills
the strand, translation and permission failures tear the command down; under a rope the first is a mismatch and the others are compared. -/
def State.fatalAt (s : State) (i : Nat) (code pc app : Nat) (addr : DWord) : State :=
  match s.strandAt i with
  | none => s
  | some st =>
    if code = 0x12 then
      if s.level st = 0 then s.killStrand i .uncorrectable 0x12 app addr
      else (s.onStrandAt i (fun x => { x with committed := false })).ropeError st app
    else if s.level st = 0 then
      s.tearDown (s.team st.team).launch (s.errorEvent st (if code = 0x10 then .translation else .permission) code app addr)
    else s.putStrandAt i { st with wait := .release, presented := some (.cause code pc app addr), committed := false }
/-- A fatal cause at an instruction that is no node work. -/
def State.fatal (s : State) (i : Nat) (code : Nat) (pc : Nat) (addr : DWord) : State := s.fatalAt i code pc pc addr

end Sys2Proof.Machine
end

