-- ==== Sys2Proof/Machine/Access.lean ====
section
/-!
DEFINITION. The accesses of strands and walkers: lanes of memory (R113–R118, R210), the scratchpad (R119, R120, R136),
tile store and staging storage (R126), transfer and tile descriptors as images (R138, R180), the compare buffer's overlay
(R271) and the rope signature (R268, R269).
-/
namespace Sys2Proof.Machine

/-! ### Banks (R124, R136) -/

/-- Bytes written to a bank at given offsets: a sector that takes poisoned data (at an offset of `bad`) is poisoned, and one that
is wholly covered otherwise loses its poison (log 39). -/
def Bank.store (b : Bank) (ws : List (Nat × Byte)) (bad : List Nat) : Bank :=
  let bytes := ws.foldl (fun m w => writeBytes m w.1 [w.2]) b.bytes
  let secs := (ws.map (fun w => w.1 / 32)).eraseDups
  let covered (k : Nat) : Bool := (List.range 32).all (fun i => ws.any (fun w => w.1 == 32 * k + i))
  { bytes := bytes
    poison := secs.foldl (fun p k => if bad.any (fun o => o / 32 == k) then setInsert p k else if covered k then setErase p k else p) b.poison }
/-- Whether bytes of a bank stand in a poisoned sector. -/
def Bank.poisoned (b : Bank) (off n : Nat) : Bool := (List.range n).any (fun i => member b.poison ((off + i) / 32))

/-! ### The scratchpad from a strand (R119) -/

/-- How an access by a strand can fail: a fatal code with an address, KNIT with its member index, or a peer's line that
is not yet here, `n` bytes of it needed. -/
inductive AccFail where
  | fatal (code : Nat) (addr : DWord)
  | knit (addr : DWord) (member : Nat)
  | peer (home : Nat) (va : DWord) (n : Nat)
  deriving DecidableEq, Repr

/-- R119: a scratchpad address's form: member index and offset, `none` for the local form. -/
def spForm (x : DWord) : Option (Option Nat × Nat) :=
  let v := x.toNat
  if v / 2 ^ 23 != 0 then none
  else if bitAt v 22 then some (some (bits v 21 17), v % 2 ^ 17)
  else if bits v 21 17 != 0 then none
  else some (none, v % 2 ^ 17)

/-- The scratchpad bytes of a team. -/
def State.spBytes (s : State) (tid : Nat) : Nat := (s.launch (s.team tid).launch).header.spbytes

/-- R119: the team and offset an address names, for the team `tid`. -/
def State.spTarget (s : State) (tid : Nat) (x : DWord) : Except AccFail (Nat × Nat) :=
  match spForm x with
  | none => .error (.fatal 0x11 x)
  | some (none, off) => if off < s.spBytes tid then .ok (tid, off) else .error (.fatal 0x11 x)
  | some (some m, off) =>
    let t := s.team tid
    match (cfind (s.cluster t.knitCluster).knits t.knit).bind (fun k => cfind k.members m) with
    | some u => if off < s.spBytes u then .ok (u, off) else .error (.knit x m)
    | none => .error (.knit x m)

/-- R119: the failure of a set of lanes: malformed and local failures first, then KNIT, each at the lowest lane. -/
def State.spFailure (s : State) (tid : Nat) (addrs : List DWord) (act : Word) : Option AccFail :=
  let l := (lanesOf act).filterMap (fun i => match s.spTarget tid (addrs.getD i 0) with
    | .error e => some e
    | .ok _ => none)
  match l.find? (fun e => match e with | .fatal _ _ => true | _ => false) with
  | some e => some e
  | none => l.head?

/-- A lane's scratchpad bytes as a number; 0 where the address is no address. -/
def State.spRead (s : State) (tid : Nat) (x : DWord) (n : Nat) : Nat :=
  match s.spTarget tid x with
  | .ok (u, off) => leNat (readBytes (s.team u).sp.work.bytes off n)
  | .error _ => 0
/-- Whether a lane would consume poison. -/
def State.spPoisoned (s : State) (tid : Nat) (x : DWord) (n : Nat) : Bool :=
  match s.spTarget tid x with
  | .ok (u, off) => (s.team u).sp.work.poisoned off n
  | .error _ => false

/-- Scratchpad writes of one instruction, lanes ascending (R117), grouped by team. -/
def State.spStore (s : State) (tid : Nat) (ws : List (DWord × List Byte)) : State :=
  let put := ws.filterMap (fun w => match s.spTarget tid w.1 with
    | .ok (u, off) => some (u, (List.range w.2.length).zipWith (fun i b => (off + i, b)) w.2)
    | .error _ => none)
  ((put.map (·.1)).eraseDups).foldl (fun t u =>
    t.onTeam u (fun x => { x with sp := x.sp.withWork (x.sp.work.store ((put.filter (fun p => p.1 == u)).flatMap (·.2)) []) })) s

/-! ### Memory from a strand -/

/-- The place a memory address names, whatever alias names it: its physical address, or, at a peer's home, the address itself. -/
def State.memPlace (s : State) (a : Agent) (va : Nat) : Nat := match s.translate a.asid a.secure false false va true with
  | .ok pa _ _ => pa
  | _ => 2 ^ 64 + va
/-- The place a scratchpad address of a team names, whatever form names it. -/
def State.spPlace (s : State) (tid x : Nat) : Nat := match s.spTarget tid (BitVec.ofNat 64 x) with
  | .ok (u, off) => u * 2 ^ 17 + off
  | .error _ => 2 ^ 80 + x
/-- R271, R121: a compare-buffer entry's bytes over a value of `n` bytes read at address `x`; `place` says what an address names. -/
def overlayEntry (place : Nat → Nat) (x n : Nat) (v : List Byte) (e : BufEntry) : List Byte :=
  let at' := place x
  e.items.foldl (fun v t =>
    let base := place t.addr.toNat
    (List.range n).zipWith (fun k b => if base ≤ at' + k && decide (at' + k < base + t.size)
      then BitVec.ofNat 8 (t.data.toNat / 256 ^ (at' + k - base)) else b) v) v
/-- R121, R271: a value with the stores of a compare buffer to the memory (or the remote windows) over it. -/
def overlay (remote : Bool) (place : Nat → Nat) (buf : List BufEntry) (x n : Nat) (v : List Byte) : List Byte :=
  buf.foldl (fun v e => if e.remote == remote then overlayEntry place x n v e else v) v
/-- R121, R271: bytes read at a scratchpad address, the strand's own buffered stores to remote windows over them. -/
def State.spSeen (s : State) (st : Strand) (x n : Nat) (v : List Byte) : List Byte := overlay true (s.spPlace st.team) st.buffer x n v
/-- R121: a byte stored at place `p` after an item was buffered: the item gives the byte its newer value. -/
def BufItem.overwrite (place : Nat → Nat) (t : BufItem) (p : Nat) (b : Byte) : BufItem :=
  let base := place t.addr.toNat
  if base ≤ p && decide (p < base + t.size) then
    { t with data := BitVec.ofNat 64 (leNat ((List.range 8).map (fun j => if base + j = p then b else BitVec.ofNat 8 (t.data.toNat / 256 ^ j)))) }
  else t
/-- R121: bytes stored at places after an item was buffered. -/
def BufItem.overwriteAll (place : Nat → Nat) (ws : List (Nat × Byte)) (t : BufItem) : BufItem := ws.foldl (fun t w => t.overwrite place w.1 w.2) t
/-- R121: bytes stored at once in a scratchpad while entries for remote windows are buffered. -/
def BufEntry.overwrite (place : Nat → Nat) (ws : List (Nat × Byte)) (e : BufEntry) : BufEntry :=
  if e.remote then { e with items := e.items.map (BufItem.overwriteAll place ws) } else e
/-- The bytes of an aligned word that an access of `n` bytes at `va` needs. -/
def needMask (va n : Nat) : BitVec 4 := BitVec.ofNat 4 ((2 ^ min n 4 - 1) * 2 ^ (va % 4))

/-- The distinct keys of lanes, in the order of their lowest lane, each with its lanes. -/
def groupLanes (lanes : List Nat) (key : Nat → Nat) : List (Nat × List Nat) :=
  ((lanes.map key).eraseDups).map (fun k => (k, lanes.filter (fun j => key j == k)))

/-- R325: a word that a peer has delivered for the strand's instruction. -/
def Strand.peerGot (st : Strand) (va : Nat) : Option Word := cfind (cget [] st.peerLines (va / 128)) (va / 4 % 32)
/-- R325: whether an access of `n` bytes is among the words peers have delivered for the strand's instruction. -/
def Strand.holdsPeer (st : Strand) (va n : Nat) : Bool := (st.peerGot va).isSome && (n != 8 || (st.peerGot (va + 4)).isSome)
/-- R211: whether a core's L1 gives the whole of a load of `n` bytes of a peer's line. -/
def L1Line.whole (l : L1Line) (va n : Nat) : Bool :=
  l.serves va n && (match (cfind l.words (va / 4 % 32)).map L1Word.st with
    | some (.dirty m) => needMask va n &&& ~~~ m == 0
    | _ => true)
/-- R325: a load of `n` bytes of a peer's line that is neither in the L1 nor delivered. -/
def State.peerMiss (s : State) (a : Agent) (st : Strand) (va n : Nat) : Bool :=
  !(((s.l1Line a.core a.asid (va / 128)).map (fun l => l.whole va n)) == some true) && !(st.holdsPeer va n)
/-- A word of a peer's line as the strand reads it: its L1 copy, or what the peer has delivered with the core's DIRTY bytes over it. -/
def State.peerWord (s : State) (a : Agent) (st : Strand) (hit : Bool) (va : Nat) : Word :=
  let got := (st.peerGot va).getD 0
  match (s.l1Line a.core a.asid (va / 128)).bind (fun l => cfind l.words (va / 4 % 32)) with
  | some x => match x.st with
    | .dirty m => mergeBytes got x.data m
    | _ => if hit then x.data else got
  | none => got

/-- The value of `n` bytes at `va` for a strand whose L1 holds the line, all of one moment (R113), its buffered stores over it (R121). -/
def State.laneValue (s : State) (a : Agent) (st : Strand) (va n : Nat) : Nat :=
  let word : Nat → Word := match s.check a true false va n with
    | .ok pa _ _ => fun k => s.view a (va / 4 * 4 + k) (pa / 4 * 4 + k)
    | .peer _ _ _ => s.peerWord a st (((s.l1Line a.core a.asid (va / 128)).map (fun l => l.whole va n)) == some true) ∘ (va + ·)
    | .fail _ => fun _ => 0
  let raw := leBytes 8 ((word 0).toNat + 2 ^ 32 * (if n = 8 then word 4 else 0).toNat)
  leNat (overlay false (s.memPlace a) st.buffer va n ((raw.drop (va % 4)).take n))
/-- R123: whether a load of `n` bytes at `va` would consume poison. -/
def State.lanePoison (s : State) (a : Agent) (va n : Nat) : Bool := match s.check a true false va n with
  | .ok pa _ _ => s.viewPoison a va pa (needMask va n) || (n == 8 && s.viewPoison a (va + 4) (pa + 4) 0xF)
  | _ => false

/-- What the lanes of a load give: the values by lane, the lanes that met poison, and the state. -/
abbrev Loaded := List (Nat × Nat) × List Nat × State
/-- R206, R117: the lanes of a load that name one line, read at once. A peer's line that was filled for this load stays at its class. -/
def State.loadGroup (s : State) (a : Agent) (st : Strand) (addrs : List DWord) (n reuse : Nat) (lanes : List Nat) : Loaded :=
  let va := addrOf addrs (lanes.headD 0)
  let t := match s.check a true false va n with
    | .ok pa r w => s.loadLine a (lanes.map (addrOf addrs)) n va pa r w reuse
    | .peer _ _ _ => match s.l1Line a.core a.asid (va / 128) with
      | some l => if lanes.all (fun j => l.whole (addrOf addrs j) n) && (cfind st.peerLines (va / 128)).isNone then s.putLine a.core { l with rrip := 0 } else s
      | none => s
    | .fail _ => s
  (lanes.map (fun j => (j, t.laneValue a st (addrOf addrs j) n)), lanes.filter (fun j => t.lanePoison a (addrOf addrs j) n), t)
/-- Active lanes loaded, line by line in the order of the lowest lanes: a line is touched once by an access. -/
def State.loadAll (s : State) (a : Agent) (st : Strand) (addrs : List DWord) (act : Word) (n reuse : Nat) : Loaded :=
  (groupLanes (lanesOf act) (fun i => addrOf addrs i / 128)).foldl (fun (acc : Loaded) g =>
    let x := acc.2.2.loadGroup a st addrs n reuse g.2
    (acc.1 ++ x.1, acc.2.1 ++ x.2.1, x.2.2)) ([], [], s)
/-- A lane's value among those loaded. -/
def laneOf (vs : List (Nat × Nat)) (i : Nat) : Nat := ((vs.find? (fun e => e.1 == i)).map (·.2)).getD 0
/-- Active lanes loaded: the values by lane, and the state. -/
def State.loadLanes (s : State) (a : Agent) (st : Strand) (addrs : List DWord) (act : Word) (n reuse : Nat) : (Nat → Nat) × State :=
  let r := s.loadAll a st addrs act n reuse
  (laneOf r.1, r.2.2)
/-- The value of `n` bytes at `va` for a strand, filling its L1. -/
def State.loadLane (s : State) (a : Agent) (st : Strand) (va n reuse : Nat) : Nat × State :=
  let r := s.loadGroup a st [BitVec.ofNat 64 va] n reuse [0]
  (laneOf r.1 0, r.2.2)

/-- R325: strand `i` asks a peer's home for a line, naming the words it needs; it asks for one at a time. What fails is reported at
the strand's instruction, or as `report` says (node work). -/
def State.askHome (s : State) (i home : Nat) (va : DWord) (n reuse : Nat) (scope : Scope := .hop3)
    (report : Option ErrEvent := none) : State :=
  match s.strandAt i with
  | none => s
  | some st =>
    if s.fabric.outstanding.any (fun e => e.2.strand == i) then s else
    let a := s.agentOf st
    let r : PeerReq := { src := 0, tag := 0, asid := a.asid, secure := a.secure, op := .read, scope := scope, line := va.toNat / 128
                         mask := wordMask va.toNat ||| (if n = 8 then wordMask (va.toNat + 4) else 0), words := [], expected := [], places := [], poison := 0 }
    s.sendPeerOut { peerPost (some a.core) 0 r home va with strand := i, reuse := reuse, report := report }
/-- R210: the failure of a set of loading lanes before anything is performed, at the lowest lane: translation, permission and world first; then
a peer's line that is not here. -/
def State.loadBarred (s : State) (a : Agent) (st : Strand) (addrs : List DWord) (act : Word) (size : Nat) : Option AccFail :=
  let ls := (lanesOf act).map (fun i => addrs.getD i 0)
  match ls.findSome? (fun x => match s.check a true false x.toNat size with | .fail c => some (AccFail.fatal c x) | _ => none) with
  | some e => some e
  | none => ls.findSome? (fun x => match s.check a true false x.toNat size with
      | .peer h _ _ => if s.peerMiss a st x.toNat size then some (AccFail.peer h x size) else none
      | _ => none)
/-- R210, R123: a set of lanes loaded: their values, or the failure; poison is met at the lowest lane once the lines are here. -/
def State.tryLoad (s : State) (a : Agent) (st : Strand) (addrs : List DWord) (act : Word) (size reuse : Nat) :
    Except (AccFail × State) ((Nat → Nat) × State) :=
  match s.loadBarred a st addrs act size with
  | some e => .error (e, s)
  | none =>
    let r := s.loadAll a st addrs act size reuse
    match (lanesOf act).find? r.2.1.contains with
    | some j => .error (.fatal 0x12 (addrs.getD j 0), r.2.2)
    | none => .ok (laneOf r.1, r.2.2)
/-- R210, R123: the failure of a set of loading lanes. -/
def State.loadFailure (s : State) (a : Agent) (st : Strand) (addrs : List DWord) (act : Word) (size reuse : Nat) : Option AccFail :=
  match s.tryLoad a st addrs act size reuse with
  | .error e => some e.1
  | .ok _ => none

/-- R210: the failure of a set of storing lanes. -/
def State.storeFailure (s : State) (a : Agent) (addrs : List DWord) (act : Word) : Option AccFail :=
  ((lanesOf act).map (fun i => addrs.getD i 0)).findSome? (fun x => match s.check a false true x.toNat with
    | .fail c => some (AccFail.fatal c x)
    | _ => none)

/-- R113, R117, R206: what one instruction stores, in order, performed in the core's L1 line by line: a byte stored twice takes its last value. -/
def State.storeItems (s : State) (a : Agent) (ws : List (Nat × List Byte)) : State :=
  let bs := ws.flatMap (fun w => (List.range w.2.length).zipWith (fun k b => (w.1 + k, b)) w.2)
  ((bs.map (fun b => b.1 / 128)).eraseDups).foldl (fun (t : State) line =>
    let mine := bs.filter (fun b => b.1 / 128 == line)
    let va := (mine.head?.map (·.1)).getD 0
    match t.check a false true va with
    | .ok pa r w => t.storeLine a va pa none r w mine
    | .peer h r w => t.storeLine a va 0 (some h) r w mine
    | .fail _ => t) s
/-- One lane's bytes stored into the core's L1. -/
def State.storeLane (s : State) (a : Agent) (va n : Nat) (data : DWord) : State := s.storeItems a [(va, leBytes n data.toNat)]
/-- Active lanes stored (R117). -/
def State.storeLanes (s : State) (a : Agent) (addrs data : List DWord) (act : Word) (n : Nat) : State :=
  s.storeItems a ((lanesOf act).map (fun i => (addrOf addrs i, leBytes n (data.getD i 0).toNat)))

/-! ### The rope signature (R268, R269) -/

/-- R269: one bit of CRC-64, ECMA-182, most significant first. -/
def crcBit (c : DWord) (b : Bool) : DWord := if c.getLsbD 63 != b then (c <<< 1) ^^^ 0x42F0E1EBA9EA3693 else c <<< 1
/-- R269: the signature after one byte. -/
def crcByte (c : DWord) (b : Byte) : DWord := (List.range 8).foldl (fun c i => crcBit c (b.getLsbD (7 - i))) c
/-- R268: an entry's bytes: ADDR, SIZE, LANE, DATA. -/
def sigEntry (c addr : DWord) (size lane : Nat) (data : DWord) : DWord :=
  (leBytes 8 addr.toNat ++ [BitVec.ofNat 8 size, BitVec.ofNat 8 lane] ++ leBytes size data.toNat).foldl crcByte c
/-- R268: entries of the active lanes of a vector store or atomic. -/
def sigLanes (c : DWord) (addrs data : List DWord) (act : Word) (size : Nat) : DWord :=
  (lanesOf act).foldl (fun c i => sigEntry c (addrs.getD i 0) size i (data.getD i 0)) c

/-! ### Tile store and tile descriptors (R167, R180) -/

/-- R180: the fields of a tile descriptor's 32 bytes. -/
def tileDescOf (b : List Byte) : TileDesc × Option Tag :=
  let v := leNat b
  let tag := tagOfCode (bits v 250 246)
  ({ space := bits v 252 251, tag := tag.getD .raw, kbytes := bits v 245 236, steps := bits v 235 224
     sinc := signed 16 (bits v 223 208), spitch := bits v 207 192, inc := signed 32 (bits v 191 160), pitch := bits v 159 128
     sbase := BitVec.ofNat 64 (bits v 127 64), base := BitVec.ofNat 64 (bits v 63 0) }, tag)

/-- R154: scales per row of a tag. -/
def scalesPerRow : Tag → Nat
  | .e4m3 | .e5m2 => 16
  | .pl _ p => plBlocks 128 p
  | _ => 0

/-- R209: a byte of the working plane of a gang's tile store; segment·262,144 + offset. -/
def Gang.segByte (g : Gang) (off : Nat) : Byte := readByte (g.segs.getD (off / 262144) Planes.empty).work.bytes (off % 262144)
/-- Whether a byte of the tile store is poisoned. -/
def Gang.segPoisoned (g : Gang) (off : Nat) : Bool := member (g.segs.getD (off / 262144) Planes.empty).work.poison (off % 262144 / 32)

/-- R164, R185: a word of a descriptor source, as a plain read of the strand when the group runs. DESIGN CHOICE (log 116): at an address that is no
multiple of 4, which an INC gives that is none (R180), it is the aligned word at or below. -/
def State.srcWord (s : State) (st : Strand) (space : Nat) (addr : DWord) : Except AccFail Word :=
  let v := addr.toNat / 4 * 4
  match space with
  | 0 =>
    let a := s.agentOf st
    match s.check a true false v with
    | .fail c => .error (.fatal c addr)
    | .peer h _ _ => if s.peerMiss a st v 4 then .error (.peer h addr 4) else .ok (BitVec.ofNat 32 (s.laneValue a st v 4))
    | .ok _ _ _ => if s.lanePoison a v 4 then .error (.fatal 0x12 addr) else .ok (BitVec.ofNat 32 (s.laneValue a st v 4))
  | 1 => match s.spTarget st.team addr with
    | .error e => .error e
    | .ok _ => if s.spPoisoned st.team (BitVec.ofNat 64 v) 4 then .error (.fatal 0x12 addr)
        else .ok (BitVec.ofNat 32 (leNat (s.spSeen st v 4 (leBytes 4 (s.spRead st.team (BitVec.ofNat 64 v) 4)))))
  | _ =>
    let g := s.gangOf st
    if g.segPoisoned v then .error (.fatal 0x12 addr)
    else .ok (BitVec.ofNat 32 (leNat ((List.range 4).map (fun i => g.segByte (v + i)))))

/-- A byte of a descriptor source. -/
def State.srcByte (s : State) (st : Strand) (space : Nat) (addr : DWord) : Except AccFail Nat :=
  match s.srcWord st space addr with
  | .ok w => .ok (w.toNat / 2 ^ (8 * (addr.toNat % 4)) % 256)
  | .error e => .error e
/-- R180: a 2-byte scale of a descriptor source, at any address (an odd SINC gives odd ones). -/
def State.srcHalf (s : State) (st : Strand) (space : Nat) (addr : DWord) : Except AccFail Half :=
  match s.srcByte st space addr, s.srcByte st space (addr + 1) with
  | .ok lo, .ok hi => .ok (BitVec.ofNat 16 (lo + 256 * hi))
  | .error e, _ | _, .error e => .error e

end Sys2Proof.Machine
end

