-- ==== Sys2Proof/Machine/Skein.lean ====
section
/-!
DEFINITION. The skein (R156–R191): what each node computes for a row group, demands, forcing, appending, supersession,
the source-range table and late faults.
-/
namespace Sys2Proof.Machine

/-! ### Rows of tiles (R153–R155) -/

/-- Word `w` of row `r`. -/
def Tile.word (t : Tile) (r w : Nat) : Word := cget 0 t.words (128 * r + w)
/-- Element `e` of row `r` under a tag. -/
def Tile.elem (t : Tile) (ty : Tag) (r e : Nat) : Nat :=
  (t.word r (e / elems ty)).toNat / 2 ^ (elemBits ty * (e % elems ty)) % 2 ^ elemBits ty
/-- Row max of row `r`. -/
def Tile.mrow (t : Tile) (r : Nat) : Word := cget 0 t.m r
/-- Row sum of row `r`. -/
def Tile.lrow (t : Tile) (r : Nat) : Word := cget 0 t.l r
/-- Scale `i` of the scale array. -/
def Tile.scale (t : Tile) (i : Nat) : Half := cget 0 t.scales i
/-- −∞ in F32. -/
def negInf : Word := 0xFF800000

/-- What a node gives one row of its destination: words, row max, row sum, scales, flags. -/
structure RowOut where
  words : List Word
  m : Word
  l : Word
  scales : List Half
  fl : IFlags
  deriving DecidableEq, Repr

/-- A row as it stands. -/
def Tile.row (t : Tile) (r B : Nat) : RowOut :=
  { words := (List.range 128).map (t.word r), m := t.mrow r, l := t.lrow r, scales := (List.range B).map (fun b => t.scale (r * B + b)), fl := 0 }
/-- A row of zeros with m = −∞ and l = +0. -/
def zeroRow (B : Nat) : RowOut := { words := List.replicate 128 0, m := negInf, l := 0, scales := List.replicate B 0, fl := 0 }
/-- R160: a row committed. -/
def Tile.putRow (t : Tile) (r : Nat) (x : RowOut) : Tile :=
  { t with words := csetRange 0 t.words (128 * r) x.words, m := cset 0 t.m r x.m, l := cset 0 t.l r x.l
           scales := csetRange 0 t.scales (r * x.scales.length) x.scales }
/-- R136: sectors of a tile that have been wholly written lose their poison. -/
def Tile.cleanse (t : Tile) (ks : List Nat) : Tile := if t.poison.isEmpty then t else { t with poison := t.poison.filter (fun k => !(ks.contains k)) }

/-- R126, R136: what is read of a row of a tile: words of its data, its row max and row sum, and scales, by block of the `B` a row has. -/
structure RowUse where
  words : List Nat
  m : Bool
  l : Bool
  scales : List Nat
  B : Nat
  deriving DecidableEq, Repr
/-- R136: whether what is read of row `r` stands in a poisoned sector. -/
def Tile.taints (t : Tile) (r : Nat) (u : RowUse) : Bool :=
  !t.poison.isEmpty && (u.words.any (fun w => member t.poison (16 * r + w / 8)) || (u.m && member t.poison (512 + r / 8))
    || (u.l && member t.poison (516 + r / 8)) || u.scales.any (fun b => member t.poison (520 + 2 * (r * u.B + b) / 32)))
/-- All the data of a row. -/
def useData : RowUse := { words := List.range 128, m := false, l := false, scales := [], B := 0 }
/-- The data and the side storage of a row. -/
def useSides : RowUse := { useData with m := true, l := true }
/-- The whole of a row with `B` scales. -/
def useRow (B : Nat) : RowUse := { useSides with scales := List.range B, B := B }

/-! ### Element-wise rows (R173, R174) -/

/-- Words of a row from element results. -/
def rowOfElems (ty : Tag) (f : Nat → FR) : List Word × IFlags :=
  let l := (List.range 128).map (laneResults ty f)
  (l.map (fun x => wordOfElems ty (x.map (·.bits))), orFlags l.flatten)

/-- R173: TADD, TMUL, TMAX on one row; side storage and scales from a. -/
def binRow (op : TileOp) (ty : Tag) (v : FEnv) (a b : Tile) (r B : Nat) : RowOut :=
  let vop := match op with | .add => VOp.add | .mul => VOp.mul | .max => VOp.max
  let x := rowOfElems ty (fun e => vop.elem ty v (a.elem ty r e) (b.elem ty r e) 0)
  { a.row r B with words := x.1, fl := x.2 }

/-- R173: TEXP2. -/
def exp2Row (ty : Tag) (v : FEnv) (a : Tile) (r B : Nat) : RowOut :=
  let x := rowOfElems ty (fun e => VOp.exp2.elem ty { v with rnd := 0 } (a.elem ty r e) 0 0)
  { a.row r B with words := x.1, fl := x.2 }

/-- R173: TSCL: each element over the row's sum. -/
def sclRow (v : FEnv) (d : Tile) (r B : Nat) : RowOut :=
  let x := rowOfElems .f32 (fun e => VOp.div.elem .f32 v (d.elem .f32 r e) (d.lrow r).toNat 0)
  { d.row r B with words := x.1, fl := x.2 }

/-- R174: a datum times a block scale, exactly. -/
def scaled (x sc : FV) : FV × IFlags :=
  match x, sc with
  | .nan _, _ | _, .nan _ => (.nan false, x.sig ||| sc.sig)
  | .inf n, .inf _ => (.inf n, 0)
  | .inf n, .fin _ m _ => if m = 0 then (.nan false, fNV) else (.inf n, 0)
  | .fin n m _, .inf _ => if m = 0 then (.nan false, fNV) else (.inf n, 0)
  | .fin n m e, .fin _ sm se => (.fin n (m * sm) (e + se), 0)

/-- R174: one element converted; an FP8 source is first multiplied by its block scale. -/
def tcvtElem (v : FEnv) (src dst : Tag) (a : Tile) (r e : Nat) : FR :=
  let x := a.elem src r e
  match fmtOf src with
  | some f =>
    if isFp8 src then
      let y := scaled (f.unpack v.flush x) (scaleOf v.flush (a.scale (16 * r + e / 32)))
      let z := match fmtOf dst with
        | some g => g.pack v y.1
        | none => toInt dst v.rnd y.1
      { bits := z.bits, fl := z.fl ||| y.2 }
    else convert v src dst x
  | none => convert v src dst x

/-- R42: element e of a PL row as F32 with its block's scale, which flush does not touch. Where R42 names no result the model chooses (log 85): an
infinite scale of a zero element is invalid, and a zero product keeps the element's sign. -/
def plElem (p : Nat) (v : FEnv) (a : Tile) (r e : Nat) : FR :=
  let B := plBlocks 128 p
  let z := planeValue p ((List.range p).map (fun k => a.word r (e / 32 * p + k))) (e % 32)
  match scaleOf false (a.scale (r * B + e / 32)) with
  | .nan _ => { bits := fmtF32.qnan, fl := 0 }
  | sc => fmtF32.mul v (.fin (decide (z < 0)) z.natAbs 0) sc

/-- R174: TCVT on one row; blocks beyond the source's elements get the scale 0 (log 104). -/
def cvtRow (src dst : Tag) (v : FEnv) (a : Tile) (r : Nat) : RowOut :=
  let side (words : List Word) (sc : List Half) (fl : IFlags) : RowOut :=
    { words := words, m := a.mrow r, l := a.lrow r, scales := sc, fl := fl }
  match src, dst with
  | .pl _ p, .pl _ q =>
    side ((List.range 128).map (narrowPl p q 128 (a.word r)))
      ((List.range (plBlocks 128 q)).map (fun b => if b < plBlocks 128 p then a.scale (r * plBlocks 128 p + b) else 0)) 0
  | .pl _ p, _ =>
    let x := rowOfElems .f32 (plElem p v a r)
    side x.1 [] x.2
  | _, .pl h _ =>
    let blocks := (List.range (elems src * 4)).map (fun b => quantise h ((List.range 32).map (fun j =>
      match fmtOf src with
      | some f => f.unpack v.flush (a.elem src r (32 * b + j))
      | none => .fin false 0 0)))
    side ((List.range 128).map (fun w => ((blocks.getD (w / 8) ([], 0, 0)).1).getD (w % 8) 0))
      ((List.range 16).map (fun b => (blocks.getD b ([], 0, 0)).2.1)) (blocks.foldl (fun acc x => acc ||| x.2.2) 0)
  | _, _ =>
    let x := rowOfElems dst (fun e => if e < 128 * elems src then tcvtElem v src dst a r e else { bits := 0, fl := 0 })
    side x.1 (List.replicate (scalesPerRow dst) 0x3F80) x.2

/-- R174: what TCVT reads of a row of its source: elements beyond the destination's count are not read. -/
def cvtUse (src dst : Tag) : RowUse :=
  match src, dst with
  | .pl _ p, .pl _ q =>
    { useSides with words := (List.range (plBlocks 128 p)).flatMap (fun b => (List.range q).map (fun k => b * p + k))
                    scales := List.range (plBlocks 128 p), B := plBlocks 128 p }
  | .pl _ p, _ => { useSides with words := List.range (4 * p), scales := List.range 4, B := plBlocks 128 p }
  | _, .pl _ _ => useSides
  | _, _ =>
    let n := 128 * min (elems src) (elems dst)
    { useSides with words := List.range (n / elems src), scales := if isFp8 src then List.range (n / 32) else [], B := 16 }

/-- R175: TROWRED on one row. -/
def rowredRow (ty : Tag) (v : FEnv) (kind : Nat) (a d : Tile) (r B : Nat) : RowOut :=
  match fmtOf ty with
  | some f =>
    let xs := (List.range (128 * elems ty)).map (fun e => a.elem ty r e)
    let w := { v with rnd := 0 }
    let x := if kind = 0 then Red.flt .max f w xs else Red.flt .add f w xs
    let y := { d.row r B with fl := x.fl }
    if kind = 0 then { y with m := BitVec.ofNat 32 x.bits } else { y with l := BitVec.ofNat 32 x.bits }
  | none => d.row r B

/-- R176: TMAP on one row of the destination; `B` scales per row of a's tag. -/
def mapRow (map : RowMap) (a : Tile) (r B : Nat) : RowOut :=
  match map with
  | .ident => a.row r B
  | .shift k =>
    let q := (r : Int) + k
    if 0 ≤ q ∧ q < 32 then a.row q.toNat B else zeroRow B
  | .bcast k => a.row k B
  | .trans => { zeroRow B with words := (List.range 128).map (fun w => a.word (w % 32) (w / 32 * 32 + r)) }
  | .side => { zeroRow 0 with words := [a.mrow r, a.lrow r] ++ List.replicate 126 0 }

/-! ### The matrix unit (R46–R48, R181, R182) -/

/-- R46: whether two tags are a pair of the matrix unit. -/
def pairOk (a b : Tag) : Bool :=
  match a, b with
  | .f16, .f16 | .bf16, .bf16 => true
  | .pl h p, .pl k q => h == k && p == q
  | x, y => isFp8 x && isFp8 y
/-- R181: groups per step. -/
def groupsPerStep (t : Tag) (kbytes : Nat) : Nat :=
  match t with
  | .f16 | .bf16 => kbytes / 64
  | .pl _ p => if p = 8 then kbytes / 32 else kbytes / (4 * p)
  | _ => kbytes / 32
/-- Words of one group of a format. -/
def groupWords : Tag → Nat
  | .f16 | .bf16 => 16
  | .pl _ p => p
  | _ => 8

/-- The signed sum of exact finite products. -/
def sumFV (l : List FV) : FV :=
  l.foldl (fun acc x => match acc, x with
    | .fin n1 m1 e1, .fin n2 m2 e2 => addExact 0 n1 m1 e1 n2 m2 e2
    | .fin _ _ _, y => y
    | y, _ => y) (match l with | x :: _ => (match x with | .fin n _ _ => .fin n 0 0 | _ => .fin false 0 0) | [] => .fin false 0 0)

/-- Product of two data, exactly; ∞ · 0 is a NaN marked signalling (invalid). -/
def mulFV (a b : FV) : FV :=
  match a, b with
  | .nan s, .nan t => .nan (s || t)
  | .nan s, _ | _, .nan s => .nan s
  | .inf x, .inf y => .inf (x != y)
  | .inf x, .fin y m _ | .fin y m _, .inf x => if m = 0 then .nan true else .inf (x != y)
  | .fin x m e, .fin y k f => .fin (x != y) (m * k) (e + f)

/-- Whether a datum is zero. -/
def FV.isZero : FV → Bool
  | .fin _ m _ => m == 0
  | _ => false
/-- Whether a datum is infinite. -/
def FV.isInf : FV → Bool
  | .inf _ => true
  | _ => false
/-- R48: whether a group's exact sum and its two scales raise invalid: a signalling NaN (which also marks ∞ · 0 and opposed infinities among
the products), or a zero against an infinity. -/
def groupInvalid (sum sa sb : FV) : Bool :=
  let clash (x y : FV) : Bool := (x.isInf && y.isZero) || (x.isZero && y.isInf)
  [sum, sa, sb].any (fun x => x.sig != 0) || clash sum sa || clash sum sb || clash sa sb
/-- R47, R48: a group's exact sum times the scales, rounded once to F32. A zero scale makes the exact value of a nonzero sum +0. -/
def groupRound (flush : Bool) (sum sa sb : FV) : FR :=
  if groupInvalid sum sa sb then { bits := fmtF32.qnan, fl := fNV }
  else if [sum, sa, sb].any FV.isNan then { bits := fmtF32.qnan, fl := 0 }
  else if (sa.isZero || sb.isZero) && !sum.isZero then { bits := 0, fl := 0 }
  else fmtF32.pack (envRne flush) (mulFV sum (mulFV sa sb))

/-- R47, R48: a floating group of two words lists. -/
def floatGroup (flush : Bool) (ta tb : Tag) (a b : List Word) (sa sb : FV) : FR :=
  match fmtOf ta, fmtOf tb with
  | some f, some g =>
    let el (f : Fmt) (t : Tag) (w : List Word) (e : Nat) : FV :=
      f.unpack flush ((w.getD (e / elems t) 0).toNat / 2 ^ (elemBits t * (e % elems t)) % 2 ^ elemBits t)
    let ps := (List.range 32).map (fun e => mulFV (el f ta a e) (el g tb b e))
    let nan := ps.any FV.isNan
    let sig := ps.any (fun x => match x with | .nan true => true | _ => false)
    let pinf := ps.any (fun x => match x with | .inf false => true | _ => false)
    let ninf := ps.any (fun x => match x with | .inf true => true | _ => false)
    let sum : FV := if nan then .nan (sig || (pinf && ninf)) else if pinf && ninf then .nan true
      else if pinf then .inf false else if ninf then .inf true else sumFV ps
    groupRound flush sum sa sb
  | _, _ => { bits := 0, fl := 0 }

/-- R47: a plane group. -/
def planeGroup (flush : Bool) (p : Nat) (a b : List Word) (sa sb : FV) : FR :=
  let el (w : List Word) (j : Nat) : Int := if p = 8 then planeElem 8 w j else 2 * planeElem p w j + 1
  let z := (List.range 32).foldl (fun acc j => acc + el a j * el b j) 0
  groupRound flush (.fin (decide (z < 0)) z.natAbs (if p = 8 then 0 else 14 - 2 * p)) sa sb

/-- R47: one group of a pair. -/
def groupValue (flush : Bool) (ta tb : Tag) (a b : List Word) (sa sb : FV) : FR :=
  match ta with
  | .pl _ p => planeGroup flush p a b sa sb
  | _ => floatGroup flush ta tb a b sa sb

/-- Groups of an operand row: each its words and its scale. -/
abbrev OpRow := List (List Word × FV)

/-- R182: the row of C after every group of a row of A and a row of B. -/
def accRow (flush : Bool) (ta tb : Tag) (c : Nat) (a b : OpRow) : FR :=
  (a.zip b).foldl (fun acc g =>
    let v := groupValue flush ta tb g.1.1 g.2.1 g.1.2 g.2.2
    let n := fmtF32.add (envRne flush) (fmtF32.unpack flush acc.bits) (fmtF32.unpack flush v.bits)
    { bits := n.bits, fl := acc.fl ||| v.fl ||| n.fl }) { bits := c, fl := 0 }

/-- 1.0 as a scale. -/
def oneFV : FV := .fin false 1 0

/-- Results of a list of fallible reads, in order. -/
def seqE {ε α : Type} : List (Except ε α) → Except ε (List α)
  | [] => .ok []
  | .error e :: _ => .error e
  | .ok x :: l => match seqE l with
    | .ok xs => .ok (x :: xs)
    | .error e => .error e

/-- R182, R185: the groups that step `k` reads of row `j` of a descriptor operand. -/
def State.descRow (s : State) (st : Strand) (flush : Bool) (d : TileDesc) (k j : Nat) : Except AccFail OpRow :=
  let gw := groupWords d.tag
  seqE ((List.range (groupsPerStep d.tag d.kbytes)).map (fun (q : Nat) =>
    let base := d.base + BitVec.ofInt 64 (((j * d.pitch + 4 * gw * q : Nat) : Int) + (k : Int) * d.inc)
    match seqE ((List.range gw).map (fun w => s.srcWord st d.space (base + BitVec.ofNat 64 (4 * w)))) with
    | .error e => .error e
    | .ok ws =>
      if scalesPerRow d.tag = 0 then .ok (ws, oneFV)
      else if d.sbase = 0 then .ok (ws, oneFV)
      else match s.srcHalf st d.space (d.sbase + BitVec.ofInt 64 (((j * d.spitch + 2 * q : Nat) : Int) + (k : Int) * d.sinc)) with
        | .ok h => .ok (ws, scaleOf flush h)
        | .error e => .error e))

/-- R182: `n` groups from group `g0` of row `r` of an A tile. -/
def tileRowGroups (flush : Bool) (t : Tile) (tag : Tag) (g0 n r : Nat) : OpRow :=
  (List.range n).map (fun i =>
    let q := g0 + i
    ((List.range (groupWords tag)).map (fun w => t.word r (groupWords tag * q + w)),
     if scalesPerRow tag = 0 then oneFV else scaleOf flush (t.scale (r * scalesPerRow tag + q))))

/-! ### TSOFT (R189) -/

/-- F32 operations RNE with flags collected. -/
def f32op (flush : Bool) (op : VOp) (a b : FR) : FR :=
  let r := op.flt fmtF32 (envRne flush) a.bits b.bits 0
  { bits := r.bits, fl := r.fl }

/-- R189: one row: the new O row, the new S words, m, l and the flags. -/
def softRow (flush : Bool) (c : Word) (o sT : Tile) (r : Nat) : RowOut × List Word :=
  let fr (w : Word) : FR := { bits := w.toNat, fl := 0 }
  let v := envRne flush
  let xs := (List.range 128).map (fun j => f32op flush .mul (fr (sT.word r j)) (fr c))
  let mx := match xs with
    | [] => fr 0
    | x :: l => l.foldl (fun acc y => let z := f32op flush .max acc y; { z with fl := z.fl ||| acc.fl ||| y.fl }) x
  let mold := fr (o.mrow r)
  let mnew := let z := f32op flush .max mold mx; { z with fl := z.fl ||| mx.fl }
  let fx (x : FR) : FV := fmtF32.unpack flush x.bits
  let ps := xs.map (fun x => if x.bits == negInf.toNat then { bits := 0, fl := 0 } else
    let d := f32op flush .sub x mnew
    let p := fmtBF16.exp2 v (fx d)
    { bits := p.bits, fl := d.fl ||| p.fl : FR })
  let f : FR := if (fx mold).eq (fx mnew) then { bits := 0x3F800000, fl := 0 } else
    let d := f32op flush .sub mold mnew
    let e := fmtF32.exp2 v (fx d)
    { bits := e.bits, fl := d.fl ||| e.fl }
  let s0 := f32op flush .mul (fr (o.lrow r)) f
  let sum := ps.foldl (fun acc p =>
    let z := fmtF32.add v (fx acc) (fmtBF16.unpack flush p.bits)
    { bits := z.bits, fl := acc.fl ||| z.fl : FR }) s0
  let os := (List.range 128).map (fun j => f32op flush .mul (fr (o.word r j)) f)
  ({ words := os.map (fun x => BitVec.ofNat 32 x.bits), m := BitVec.ofNat 32 mnew.bits, l := BitVec.ofNat 32 sum.bits, scales := []
     fl := mnew.fl ||| orFlags ps ||| f.fl ||| sum.fl ||| orFlags os },
   (List.range 128).map (fun w => if w < 64 then
     BitVec.ofNat 32 ((ps.getD (2 * w) { bits := 0, fl := 0 }).bits + 2 ^ 16 * (ps.getD (2 * w + 1) { bits := 0, fl := 0 }).bits) else 0))

/-! ### Nodes (R156–R158) -/

/-- The tiles a node writes. -/
def Node.tiles (n : Node) : List Nat := match n.op with
  | .tsoft s _ => [n.dst, s]
  | _ => [n.dst]
/-- R159: whether a node's write groups on a tile include group `g`. -/
def Node.writesGroup (n : Node) (t g : Nat) : Bool := n.tiles.contains t && n.writes.getLsbD g
/-- R158, R159: a node's tile sources with their maps, in the order a, b, then d. -/
def Node.sources (n : Node) : List (Nat × RowMap) := match n.op with
  | .tld _ | .tzero => []
  | .tvr _ _ _ | .tscl => [(n.dst, .ident)]
  | .bin _ _ a b => [(a, .ident), (b, .ident)]
  | .texp2 _ a | .tcvt _ _ a => [(a, .ident)]
  | .trowred _ a _ => [(a, .ident), (n.dst, .ident)]
  | .tmap m a => [(a, m)]
  | .tmma (.tile t _) _ => [(t, .ident), (n.dst, .ident)]
  | .tmma (.desc _) _ => [(n.dst, .ident)]
  | .tsoft s _ => [(s, .ident), (n.dst, .ident)]
/-- R161 step 3: whether a node reads a tile. -/
def Node.reads (n : Node) (t : Nat) : Bool := n.sources.any (fun x => x.1 == t)
/-- R158: the source groups a map needs for group `g`. -/
def groupsNeeded (m : RowMap) (g : Nat) : List Nat := match m with
  | .ident | .side => [g]
  | .bcast k => [k / 8]
  | .trans => [0, 1, 2, 3]
  | .shift k => (List.range 4).filter (fun h => (List.range 8).any (fun i => let q := (8 * g + i : Nat) + k; decide (8 * (h : Int) ≤ q) && decide (q < 8 * h + 8)))
/-- R159: a TMMA node. -/
def Node.isTmma (n : Node) : Bool := match n.op with | .tmma _ _ => true | _ => false
/-- R41: a TCVT of a tile in place to fewer planes. Its scales move to lower indexes of the rows, onto those of rows that follow, so that its groups are
computed before any of them is committed (log 104). -/
def Node.narrowsInPlace (n : Node) : Bool := match n.op with
  | .tcvt (.pl _ p) (.pl _ q) a => a == n.dst && decide (q < p)
  | _ => false
/-- R159: a self-mapped node, whose groups are computed together. -/
def Node.selfMapped (n : Node) : Bool :=
  n.narrowsInPlace || n.sources.any (fun x => x.1 == n.dst && x.2 != .ident && x.2 != .side)
/-- The groups pending. -/
def Node.groups (n : Node) : List Nat := (List.range 4).filter (fun g => n.pending.getLsbD g)
/-- R162: a node that writes whole groups of its tile and has no source in it. -/
def Node.supersedes (n : Node) : Bool := match n.op with
  | .tvr _ _ _ | .trowred _ _ _ | .tscl | .tmma _ _ | .tsoft _ _ => false
  | _ => !(n.reads n.dst)

/-- R166: what stops node work. -/
structure NodeFault where
  fail : Option AccFail
  flags : IFlags
  node : Node
  group : Nat
  deriving DecidableEq, Repr

/-- R325, R166: a line that a node of strand `i` needs is asked of a peer; a failure of it is reported with the node's APPC. -/
def State.askForNode (s : State) (i : Nat) (f : NodeFault) (home : Nat) (va : DWord) (n : Nat) : State :=
  s.askHome i home va n 2 .hop3 ((s.strandAt i).map (fun st => s.errorEvent st .ok 0 f.node.appc 0))

/-- The result of node work: done; a TMMA pass under way with steps still to run (R182, R190); or stopped by a fault. -/
inductive Work where
  | ok (s : State)
  | busy (s : State)
  | fault (s : State) (f : NodeFault)
  deriving DecidableEq, Repr

/-- Node work that goes on where the work before it succeeded. -/
def Work.andThen (w : Work) (f : State → Work) : Work :=
  match w with
  | .ok s => f s
  | .busy s => .busy s
  | .fault s e => .fault s e
/-- Node work done for each element of a list, in order, stopping at a fault. -/
def eachWork {α : Type} (f : α → State → Work) : List α → State → Work
  | [], s => .ok s
  | x :: l, s => (f x s).andThen (eachWork f l)

/-- The live node of a strand by its number. -/
def State.node? (s : State) (i nid : Nat) : Option Node := (s.strandAt i).bind (fun st => st.nodes.find? (fun n => n.id == nid))
/-- A node replaced. -/
def State.putNode (s : State) (i : Nat) (n : Node) : State :=
  s.onStrandAt i (fun st => { st with nodes := st.nodes.map (fun x => if x.id == n.id then n else x) })

/-- R72: the row group whose work raised an enabled flag of a node. DESIGN CHOICE (log 108): the lowest of several. -/
def Node.raiser (n : Node) (en : IFlags) : Nat := ((List.range 4).find? (fun g => cget 0 n.raised g &&& en != 0)).getD 0
/-- R166, R66: nodes whose mask is empty retire, merging their flags. DESIGN CHOICE (log 108): the enabled flags of the oldest of them that has any
are the fault, and what the others raised is merged and not reported. -/
def State.retireNodes (s : State) (i : Nat) : Work :=
  match s.strandAt i with
  | none => .ok s
  | some st =>
    let done := st.nodes.filter (fun n => n.pending == 0)
    let s1 := s.putStrandAt i { st with
      nodes := st.nodes.filter (fun n => n.pending != 0), flags := done.foldl (fun acc n => acc ||| n.flags) st.flags }
    match done.find? (fun n => n.flags &&& (s.headerOf st).trapen != 0) with
    | some n => .fault s1 { fail := none, flags := n.flags &&& (s.headerOf st).trapen, node := n, group := n.raiser (s.headerOf st).trapen }
    | none => .ok s1

/-- R331, R162: groups `H` of tile `t` leave the pending masks of nodes older than `nid` that write it. -/
def dropGroups (nid t : Nat) (H : List Nat) (nodes : List Node) : List Node :=
  nodes.map (fun n => if n.id < nid && n.tiles.contains t then
    { n with pending := BitVec.ofNat 4 ((n.groups.filter (fun g => !(H.contains g))).foldl (fun acc g => acc + 2 ^ g) 0) } else n)

/-- A row of a TLD (R168). -/
def State.tldRow (s : State) (st : Strand) (d : TileDesc) (r : Nat) : Except AccFail RowOut :=
  let base := d.base + BitVec.ofNat 64 (r * d.pitch)
  let B := scalesPerRow d.tag
  match seqE ((List.range (d.kbytes / 4)).map (fun w => s.srcWord st d.space (base + BitVec.ofNat 64 (4 * w)))) with
  | .error e => .error e
  | .ok ws =>
    let out (sc : List Half) : RowOut :=
      { words := ws ++ List.replicate (128 - d.kbytes / 4) 0, m := negInf, l := 0, scales := sc, fl := 0 }
    if d.sbase = 0 || B = 0 then .ok (out (List.replicate B 0x3F80))
    else match seqE ((List.range B).map (fun b => s.srcHalf st d.space (d.sbase + BitVec.ofNat 64 (r * d.spitch + 2 * b)))) with
      | .error e => .error e
      | .ok sc => .ok (out sc)

/-- R158, R136: what a node reads for row `r` of its destination: tiles, their rows and the parts of those. What a node leaves as it is, it does
not read (log 109). -/
def Strand.nodeUses (st : Strand) (n : Node) (r : Nat) : List (Nat × Nat × RowUse) := match n.op with
  | .tld _ | .tzero | .tvr _ _ _ => []
  | .bin _ _ a b => [(a, r, useSides), (b, r, useData)]
  | .texp2 _ a => [(a, r, useSides)]
  | .tscl => [(n.dst, r, { useData with l := true })]
  | .tcvt src dst a => [(a, r, cvtUse src dst)]
  | .trowred _ a _ => [(a, r, useData)]
  | .tmap m a =>
    let whole := useRow (scalesPerRow (st.getT a).tag)
    match m with
    | .ident => [(a, r, whole)]
    | .shift k => let q := (r : Int) + k; if 0 ≤ q ∧ q < 32 then [(a, q.toNat, whole)] else []
    | .bcast k => [(a, k, whole)]
    | .trans => (List.range 32).map (fun q => (a, q, { useData with words := (List.range 4).map (fun j => 32 * j + r) }))
    | .side => [(a, r, { useSides with words := [] })]
  | .tmma _ _ => [(n.dst, r, useData)]
  | .tsoft sT _ => [(n.dst, r, useSides), (sT, r, useData)]
/-- R136: whether a node would consume poison for row `r`. -/
def Strand.nodePoison (st : Strand) (n : Node) (r : Nat) : Bool := (st.nodeUses n r).any (fun u => (st.getT u.1).taints u.2.1 u.2.2)
/-- One row of a node's destination, for nodes that work row by row. TZERO's zero scales are those of the tag it gives the tile, its mode's type
(log 104). -/
def State.nodeRow (s : State) (st : Strand) (n : Node) (r : Nat) : Except AccFail RowOut :=
  let v := envOf n.mode
  let d := st.getT n.dst
  if st.nodePoison n r then .error (.fatal 0x12 0) else
  match n.op with
  | .tld de => s.tldRow st de r
  | .tzero => .ok (zeroRow (scalesPerRow (modeType n.mode)))
  | .tvr row q lanes =>
    let x := d.row r (scalesPerRow d.tag)
    .ok (if r = row then { x with words := (List.range 128).map (fun w => if w / 32 = q then lanes.getD (w % 32) 0 else d.word r w) } else x)
  | .bin op ty a b => .ok (binRow op ty v (st.getT a) (st.getT b) r 0)
  | .texp2 ty a => .ok (exp2Row ty v (st.getT a) r 0)
  | .tscl => .ok (sclRow v d r 0)
  | .tcvt src dst a => .ok (cvtRow src dst v (st.getT a) r)
  | .trowred ty a kind => .ok (rowredRow ty v kind (st.getT a) d r (scalesPerRow d.tag))
  | .tmap m a => .ok (mapRow m (st.getT a) r (scalesPerRow (st.getT a).tag))
  | .tmma _ _ => .ok (d.row r 0)
  | .tsoft sT c => .ok (softRow (modeFlush n.mode) c d (st.getT sT) r).1
/-- R136: the sectors of its destination that a node's commit of group `g` wholly writes, with `B` scales a row. -/
def Node.covers (n : Node) (g B : Nat) : List Nat :=
  let data := (List.range 128).map (128 * g + ·)
  let scales := (List.range (16 * (g + 1) * B / 32 - (16 * g * B + 31) / 32)).map (520 + (16 * g * B + 31) / 32 + ·)
  match n.op with
  | .tvr row q _ => (List.range 4).map (16 * row + 4 * q + ·)
  | .trowred _ _ kind => if kind = 0 then [512 + g] else [516 + g]
  | .tscl | .tmma _ _ => data
  | .tsoft _ _ | .bin _ _ _ _ | .texp2 _ _ => data ++ [512 + g, 516 + g]
  | .tld _ | .tzero | .tcvt _ _ _ | .tmap _ _ => data ++ [512 + g, 516 + g] ++ scales

/-- The rows of row groups. -/
def rowsOf (H : List Nat) : List Nat := H.flatMap (fun g => (List.range 8).map (fun i => 8 * g + i))

/-- R182, R191: a pass of groups `H` begun: its private accumulators are the rows of C. -/
def Strand.beginPass (st : Strand) (n : Node) (H : List Nat) : Except (AccFail × Nat) Pass :=
  let c := st.getT n.dst
  match (rowsOf H).find? (fun r => c.taints r useData) with
  | some r => .error (.fatal 0x12 0, r / 8)
  | none => .ok { waits := false, groups := H, step := 0, acc := (rowsOf H).map (fun r => (r, (List.range 128).map (c.word r))), flags := [] }
/-- R182: the groups of A's row `r` that step `k` of a pass reads. -/
def State.passRow (s : State) (st : Strand) (flush : Bool) (a : AOperand) (nb k r : Nat) : Except AccFail (Tag × OpRow) :=
  match a with
  | .tile t tag =>
    let gs := (List.range nb).map (k * nb + ·)
    let use : RowUse := { useData with
      words := gs.flatMap (fun q => (List.range (groupWords tag)).map (groupWords tag * q + ·))
      scales := if scalesPerRow tag = 0 then [] else gs, B := scalesPerRow tag }
    if (st.getT t).taints r use then .error (.fatal 0x12 0) else .ok (tag, tileRowGroups flush (st.getT t) tag (k * nb) nb r)
  | .desc d => match s.descRow st flush d k r with
    | .ok x => .ok (d.tag, x)
    | .error e => .error e
/-- R182, R183: the next step of a pass: A's rows, then B's, then their products; or the failure and the group it is laid to (R191). -/
def State.passStep (s : State) (st : Strand) (n : Node) (a : AOperand) (b : TileDesc) (p : Pass) : Except (AccFail × Nat) Pass :=
  let flush := modeFlush n.mode
  match seqE (p.acc.map (fun e => match s.passRow st flush a (groupsPerStep b.tag b.kbytes) p.step e.1 with
      | .ok x => .ok (e, x)
      | .error f => .error (f, e.1 / 8))) with
  | .error f => .error f
  | .ok arows => match seqE ((List.range 128).map (fun j => s.descRow st flush b p.step j)) with
    | .error f => .error (f, 0)
    | .ok brows =>
      let out := arows.map (fun x => (x.1.1, List.zipWith (fun br (c : Word) => accRow flush x.2.1 b.tag c.toNat x.2.2 br) brows x.1.2))
      .ok { p with
        step := p.step + 1, acc := out.map (fun x => (x.1, x.2.map (fun y => BitVec.ofNat 32 y.bits)))
        flags := out.foldl (fun m x => cput m (x.1 / 8) (cget 0 m (x.1 / 8) ||| orFlags x.2)) p.flags }
/-- R182: the rows of C that a pass commits. -/
def Pass.rows (p : Pass) (c : Tile) : List (Nat × RowOut) := p.acc.map (fun e => (e.1, { c.row e.1 0 with words := e.2, fl := cget 0 p.flags (e.1 / 8) }))

/-- The groups `H` of a node that is no TMMA computed into private buffers (R160): rows of its destination. -/
def State.nodeGroups (s : State) (st : Strand) (n : Node) (H : List Nat) : Except (AccFail × Nat) (List (Nat × RowOut)) :=
  seqE ((rowsOf H).map (fun r =>
      match s.nodeRow st n r with
      | .ok x => .ok (r, x)
      | .error e => .error (e, r / 8)))

/-- R184: arithmetic cycles of a TMMA step. -/
def stepCycles (d : TileDesc) : Nat := match d.tag with
  | .pl _ p => if p = 8 then d.kbytes else d.kbytes * p / 8
  | _ => d.kbytes
/-- R300: the charge of `k` row groups of a node, or of a TMMA pass. -/
def Node.chargeOf (n : Node) (k : Nat) : Nat := match n.op with
  | .tmma _ b => 2400 * b.steps * stepCycles b
  | .tsoft _ _ => 16000 * k
  | _ => 6000 * k
/-- R274: the first boundary of TIMER in a strand's value queue, and the queue without it; values of instructions that its log still holds may stand
before it. -/
def takeBoundary : List RopeValue → Option (Nat × List RopeValue)
  | [] => none
  | .timer c :: l => some (c, l)
  | v :: l => (takeBoundary l).map (fun e => (e.1, v :: e.2))
/-- R89, R274: whether a strand's TIMER, or the boundary its leader passed on, waits to be taken. -/
def Strand.timerWaits (st : Strand) : Bool :=
  st.timerDue || (match takeBoundary st.values with
    | some (c, _) => st.replica != 0 && decide (c ≤ st.completed)
    | none => false)
/-- R159, R160: computed rows committed, the pending masks updated, complete nodes retired. A group that waited for peers' lines ends the work for now where
the strand's timer waits, so that TIMER comes after its commit (R332). -/
def State.commitGroups (s : State) (i : Nat) (n : Node) (H : List Nat) (rows : List (Nat × RowOut)) : Work :=
  match s.strandAt i with
  | none => .ok s
  | some st =>
    let o := st.getT n.dst
    let st1 : Strand := match n.op with
      | .tsoft sT c =>
        let src := st.getT sT
        st.setT sT (rows.foldl (fun (t : Tile) (x : Nat × RowOut) =>
          t.putRow x.1 { t.row x.1 0 with words := (softRow (modeFlush n.mode) c o src x.1).2 })
            (src.cleanse (H.flatMap (fun g => (List.range 128).map (128 * g + ·)))))
      | _ => st
    let B := ((rows.head?).map (·.2.scales.length)).getD 0
    let st2 := st1.setT n.dst (rows.foldl (fun (t : Tile) (x : Nat × RowOut) => t.putRow x.1 x.2) ((st1.getT n.dst).cleanse (H.flatMap (fun g => n.covers g B))))
    let flOf (g : Nat) : IFlags := rows.foldl (fun acc (x : Nat × RowOut) => if x.1 / 8 = g then acc ||| x.2.fl else acc) 0
    let fl : IFlags := rows.foldl (fun acc (x : Nat × RowOut) => acc ||| x.2.fl) 0
    let mine := st2.nodes.map (fun (x : Node) => if x.id == n.id then
      { x with flags := x.flags ||| fl, raised := H.foldl (fun m g => cput m g (flOf g)) x.raised
               pending := BitVec.ofNat 4 ((x.groups.filter (fun g => !(H.contains g))).foldl (fun acc g => acc + 2 ^ g) 0) } else x)
    let rest := n.tiles.foldl (fun ns t => dropGroups n.id t H ns) mine
    let w := ((s.putStrandAt i { st2 with nodes := rest, peerLines := [] }).addCharge (clusterOf (s.coreOf st)) (n.chargeOf H.length)).retireNodes i
    if st.timerWaits && !st.peerLines.isEmpty then w.andThen (fun t => .busy t) else w

/-- R183: a pass that runs on its core's matrix unit. -/
def Node.running (n : Node) : Bool := match n.pass with
  | some p => !p.waits
  | none => false
/-- R183: another strand resident on the core has a pass running on the core's matrix unit. -/
def State.matrixBusy (s : State) (i : Nat) (st : Strand) : Bool :=
  s.strands.any (fun e => e.1 != i && s.coreOf e.2 == s.coreOf st && s.resident e.2 && e.2.nodes.any Node.running)
/-- R305: whether a core's granule has issue cycles left by its partition's duty. -/
def State.ungated (s : State) (st : Strand) : Bool :=
  decide ((s.cluster (clusterOf (s.coreOf st))).cycles % 64 < (s.part (s.launchOf st).part).duty)
/-- R182, R190, R191, R305: one step of the pass of a TMMA node over groups `H`, continued where it stands at those groups. After the last
step of several the groups are committed and the demand is presented once more, so that a strand timer may come between passes (R332).
A fault discards the pass; a peer's missing line keeps it. -/
def State.runPass (s : State) (i : Nat) (st : Strand) (n : Node) (a : AOperand) (b : TileDesc) (H : List Nat) : Work :=
  let keep (p : Option Pass) : State := s.putNode i { n with pass := p }
  let p0 : Except (AccFail × Nat) Pass := match n.pass with
    | some p => if p.groups = H then .ok { p with waits := false } else st.beginPass n H
    | none => st.beginPass n H
  if !(s.ungated st) || (!n.running && s.matrixBusy i st) then .busy s else
  match p0 with
  | .error (e, g) => .fault (keep none) { fail := some e, flags := 0, node := n, group := g }
  | .ok p => match s.passStep st n a b p with
    | .error (e, g) =>
      .fault (keep (match e with | .peer _ _ _ => some p | _ => none)) { fail := some e, flags := 0, node := n, group := g }
    | .ok q =>
      let keep (p : Option Pass) : State := (keep p).onStrandAt i (fun x => { x with peerLines := [] })
      if q.step < b.steps then .busy (keep (some q))
      else
        let w := (keep none).commitGroups i n H (q.rows (st.getT n.dst))
        if 2 ≤ b.steps then w.andThen (fun t => .busy t) else w
/-- R159: the youngest node appended before `p` whose write groups on `t` include `g`. -/
def youngestWriter (nodes : List Node) (t g p : Nat) : Option Node :=
  (nodes.filter (fun n => n.id < p && n.writesGroup t g)).getLast?

/-- R159: demand(t, G, P), with `run` doing the work of one node. -/
def State.demandWith (run : State → Nat → List Nat → Work) (s : State) (i t : Nat) (G : List Nat) (p : Nat) : Work :=
  eachWork (fun g s =>
    let nodes := ((s.strandAt i).map (·.nodes)).getD []
    match youngestWriter nodes t g p with
    | some n =>
      if !(n.pending.getLsbD g) then .ok s
      else if n.isTmma then run s n.id (G.filter (fun h => n.pending.getLsbD h && (youngestWriter nodes t h p).map (·.id) == some n.id))
      else if n.selfMapped then run s n.id n.groups
      else run s n.id [g]
    | none => .ok s) G s

/-- Whether two byte ranges of one space overlap. -/
def overlaps (a : Range) (space lo hi : Nat) : Bool := a.space == space && decide (a.lo ≤ hi) && decide (lo ≤ a.hi)
/-- R226: UPDATE copies of the lines that a descriptor source's ranges name are combined before it is read. -/
def State.combineFor (s : State) (st : Strand) (rs : List Range) : State :=
  let asid := (s.launchOf st).asid
  let named (line : Nat) : Bool := s.pages.any (fun p => p.asid == asid && (match p.frame with
    | some f => decide (f ≤ 128 * line) && decide (128 * line < f + p.size)
        && rs.any (fun r => overlaps r 0 (p.base + (128 * line - f)) (p.base + (128 * line - f) + 127))
    | none => false))
  let lines := (s.cores.flatMap (fun c => (c.2.l1.filter hasUpdate).map (·.pline))).eraseDups
  (lines.filter named).foldl (fun t l => t.combine l) s
/-- R159: run(N, H). The first argument bounds the chain of nodes, each older than the last. -/
def State.runGo : Nat → Nat → State → Nat → List Nat → Work
  | 0, _, s, _, _ => Work.ok s
  | f + 1, i, s, nid, H =>
    match s.node? i nid with
    | none => .ok s
    | some n =>
      (eachWork (fun (src : Nat × RowMap) s => eachWork (fun g s =>
          State.demandWith (fun s m G => State.runGo f i s m G) s i src.1 (groupsNeeded src.2 g) nid) H s) n.sources s).andThen fun s1 =>
        match s1.strandAt i with
        | none => .ok s1
        | some st =>
          let s2 := s1.combineFor st n.ranges
          match n.op with
          | .tmma a b => s2.runPass i st n a b H
          | _ => match s2.nodeGroups st n H with
            | .error (e, g) => .fault s2 { fail := some e, flags := 0, node := n, group := g }
            | .ok rows => s2.commitGroups i n H rows

/-- The number of live nodes of a strand, which bounds every chain. -/
def State.depth (s : State) (i : Nat) : Nat := (((s.strandAt i).map (·.nodes)).getD []).length + 1

/-- R159: a demand of a strand at its own position. -/
def State.demand (s : State) (i t : Nat) (G : List Nat) : Work :=
  s.demandWith (fun s n H => s.runGo (s.depth i) i n H) i t G (((s.strandAt i).map (·.nextNode)).getD 0)

/-- R159: a node forced whole. -/
def State.force (s : State) (i nid : Nat) : Work :=
  match s.node? i nid with
  | none => .ok s
  | some n =>
    if n.isTmma || n.selfMapped then s.runGo (s.depth i) i nid n.groups
    else eachWork (fun g s => match s.node? i nid with
      | some m => if m.pending.getLsbD g then s.runGo (s.depth i) i nid [g] else .ok s
      | none => .ok s) n.groups s

/-- Nodes forced whole in append order. -/
def State.forceAll (s : State) (i : Nat) (l : List Nat) : Work := eachWork (fun n s => s.force i n) l s

/-! ### The source-range table (R163) -/

/-- R163: the entries a strand's live nodes occupy. -/
def tableEntries (nodes : List Node) : List Range := (nodes.flatMap (·.ranges)).eraseDups
/-- R163: the nodes that a store of bytes forces. -/
def Strand.readersOf (st : Strand) (bytes : List (Nat × Nat × Nat)) : List Nat :=
  (st.nodes.filter (fun n => n.pending != 0 && n.ranges.any (fun r => bytes.any (fun b => overlaps r b.1 b.2.1 b.2.2)))).map (·.id)
/-- R163: a store's forcing; `bytes` gives space, lowest and highest byte of each part. -/
def State.forceForStore (s : State) (i : Nat) (bytes : List (Nat × Nat × Nat)) : Work :=
  match s.strandAt i with
  | some st => if st.nodes.isEmpty then .ok s else s.forceAll i (st.readersOf bytes)
  | none => .ok s
/-- The parts of a lane store: space and bytes of each active lane. -/
def laneParts (space : DWord → Nat) (addrs : List DWord) (act : Word) (n : Nat) : List (Nat × Nat × Nat) :=
  (lanesOf act).map (fun i => (space (addrs.getD i 0), addrOf addrs i, addrOf addrs i + n - 1))
/-- R163: the space of a scratchpad address: 1 local, 3 remote. -/
def spSpace (x : DWord) : Nat := if x.getLsbD 22 then 3 else 1

/-! ### Descriptors checked (R167, R181) -/

/-- The trap of a descriptor check. -/
inductive DescBad where
  | trap (cause : Nat) (addr : DWord)
  | fatal (addr : DWord)
  deriving DecidableEq, Repr

/-- R163, R167: lowest and highest byte (as integers, not modulo 2^64) of `rows` rows of `len` bytes, over the steps. -/
def spanOf (base : Nat) (pitch rows : Nat) (inc : Int) (steps len : Nat) : Int × Int :=
  let last : Int := inc * ((steps : Int) - 1)
  ((base : Int) + min 0 last, (base : Int) + ((rows - 1) * pitch + len - 1 : Nat) + max 0 last)

/-- R167: a descriptor read from the local scratchpad address `x` and checked, for `rows` rows and the steps that
matter, with `len` data bytes and `sc` scale bytes a row. TST does not check TAG (R169). DESIGN CHOICE (log 116): poison in the sector that holds it
is not looked at. -/
def State.descCheckTag (s : State) (st : Strand) (needTag : Bool) (x : DWord) : Except DescBad TileDesc :=
  match spForm x with
  | some (none, off) =>
    if x.toNat % 32 != 0 then .error (.trap 0x04 x)
    else if s.spBytes st.team ≤ off then .error (.fatal x)
    else
      let (d, tag) := tileDescOf (s.spSeen st x.toNat 32 (readBytes (s.team st.team).sp.work.bytes off 32))
      if d.base.toNat % 4 != 0 || d.pitch % 4 != 0 then .error (.trap 0x04 d.base)
      else if d.sbase.toNat % 2 != 0 || d.spitch % 2 != 0 then .error (.trap 0x04 d.sbase)
      else if 2 < d.space || !([128, 256, 512].contains d.kbytes) || (needTag && tag.isNone) then .error (.trap 0x01 x)
      else .ok d
  | _ => if x.toNat % 32 != 0 then .error (.trap 0x04 x) else .error (.fatal x)

/-- R167: a descriptor read and checked, its TAG too. -/
def State.descCheck (s : State) (st : Strand) (x : DWord) : Except DescBad TileDesc := s.descCheckTag st true x

/-- R163, R180: the same where an address passes an end of the address space, each row of each step taken modulo 2^64. -/
def wrapSpan (base : Nat) (pitch rows : Nat) (inc : Int) (steps len : Nat) : Nat × Nat :=
  (List.range rows).foldl (fun acc j => (List.range steps).foldl (fun (acc : Nat × Nat) (k : Nat) =>
    let a := (BitVec.ofInt 64 ((base : Int) + ((j * pitch : Nat) : Int) + ((k : Nat) : Int) * inc)).toNat
    if a + len ≤ 2 ^ 64 then (min acc.1 a, max acc.2 (a + len - 1)) else (0, 2 ^ 64 - 1)) acc) (2 ^ 64 - 1, 0)
/-- The data and scale ranges of a descriptor source (R163, R167, R181): the lowest to the highest byte that any step reads, addresses modulo
2^64 (R180); none where no step reads any. -/
def descRanges (d : TileDesc) (rows steps len sc : Nat) : List Range :=
  let space (a : DWord) : Nat := if d.space = 1 then spSpace a else d.space
  let mk (sp base pitch : Nat) (inc : Int) (len : Nat) : Range :=
    let x := spanOf base pitch rows inc steps len
    if 0 ≤ x.1 ∧ x.2 < 2 ^ 64 then { space := sp, lo := x.1.toNat, hi := x.2.toNat }
    else let y := wrapSpan base pitch rows inc steps len; { space := sp, lo := y.1, hi := y.2 }
  if steps = 0 || rows = 0 then [] else
  (if len = 0 then [] else [mk (space d.base) d.base.toNat d.pitch d.inc len])
    ++ (if d.sbase != 0 && sc != 0 then [mk (space d.sbase) d.sbase.toNat d.spitch d.sinc sc] else [])

/-- R167: SPACE 2 within the gang's segments. -/
def segsOk (segs : Nat) (d : TileDesc) (rs : List Range) : Bool :=
  d.space != 2 || rs.all (fun r => decide (r.hi < segs * 262144))

/-! ### Late faults and appending (R161, R166) -/

/-- R166, R72: the trap or fatal cause that a fault in node work raises at a demanding instruction of strand `i`; a
peer's missing line leaves the strand waiting for it. Every fatal cause, UNCORRECTABLE among them, ends the command (log 48). -/
def State.nodeFault (s : State) (i : Nat) (f : NodeFault) : State :=
  match s.strandAt i with
  | none => s
  | some st =>
    let info := BitVec.ofNat 64 (f.node.opcode * 2 ^ 40 + f.node.dst * 2 ^ 34 + f.group * 2 ^ 32 + (f.node.batch.toNat % 2 ^ 16) * 2 ^ 16 + f.node.appc % 2 ^ 16)
    let tile (under : Nat) (fl : IFlags) (addr : DWord) : State :=
      s.takeTrap i { cause := 0x0A, detail := fl.toNat * 2 ^ 8 + under, pc := st.pc, epc := st.pc, addr := addr, info := info }
    match f.fail with
    | none => tile 0x05 f.flags 0
    | some (.knit a _) => tile 0x09 0 a
    | some (.fatal c a) =>
      if c = 0x12 && s.level st = 0 then s.tearDown (s.team st.team).launch (s.errorEvent st .uncorrectable c f.node.appc a)
      else s.fatalAt i c st.pc f.node.appc a
    | some (.peer h va n) => (s.askForNode i f h va n).onStrandAt i (fun x => { x with wait := .line })

/-- R156: the quota of live nodes of a strand. -/
def State.quota (s : State) (st : Strand) : Nat := let h := s.headerOf st; h.skein * 8 / h.strands

/-- R163: the oldest node with a descriptor source forced until the new ranges fit; the fuel is the number of nodes. -/
def State.roomInTable : Nat → Nat → State → List Range → Work
  | 0, _, s, _ => Work.ok s
  | f + 1, i, s, rs =>
    let nodes := ((s.strandAt i).map (·.nodes)).getD []
    if (tableEntries nodes ++ rs).eraseDups.length ≤ 16 then Work.ok s
    else match nodes.find? (fun n => !n.ranges.isEmpty) with
      | none => Work.ok s
      | some n => (s.force i n.id).andThen (fun s => State.roomInTable f i s rs)

/-- R161: the node an append makes. -/
def Strand.newNode (st : Strand) (opcode : Nat) (op : NodeOp) (dst : Nat) (writes : BitVec 4) (ranges : List Range) : Node :=
  { id := st.nextNode, opcode := opcode, op := op, dst := dst, writes := writes, pending := writes, mode := st.mode
    appc := st.pc, batch := st.batch, flags := 0, raised := [], ranges := ranges, pass := none }

/-- R161: steps 2 to 6 of an append by strand `i`; `tags` are the destinations' new tags. -/
def State.append (s : State) (i : Nat) (n0 : Node) (tags : List (Nat × Tag)) : Work :=
  match s.strandAt i with
  | none => .ok s
  | some st =>
    (if s.quota st ≤ st.nodes.length then (match st.nodes.head? with | some n => s.force i n.id | none => Work.ok s) else Work.ok s).andThen fun s1 =>
    let readers := ((((s1.strandAt i).map (·.nodes)).getD []).filter (fun n => n.pending != 0 && n0.tiles.any n.reads)).map (·.id)
    (s1.forceAll i readers).andThen fun s2 =>
    (State.roomInTable (s2.depth i) i s2 n0.ranges).andThen fun s3 =>
    let s4 := if n0.supersedes then s3.onStrandAt i (fun x => { x with nodes := dropGroups n0.id n0.dst n0.groups x.nodes }) else s3
    (s4.retireNodes i).andThen fun s5 => .ok (s5.onStrandAt i (fun x =>
      let y := tags.foldl (fun y t => y.setT t.1 { y.getT t.1 with tag := t.2 }) x
      { y with nodes := y.nodes ++ [n0], nextNode := y.nextNode + 1 }))

end Sys2Proof.Machine
end

