-- ==== Sys2Proof/Machine/Tasks.lean ====
section
/-!
DEFINITION. Packets and tasks (R247–R252), signals (R255), and the entering of a packet as a task, by a packet processor
or by LAUNCH (R246, R254).
-/
namespace Sys2Proof.Machine

/-! ### Packets (R247) -/

/-- Bits high:low of a packet. -/
def pkt (p : BitVec 512) (hi lo : Nat) : Nat := bits p.toNat hi lo
/-- R247: TYPE. -/
def pktType (p : BitVec 512) : Nat := pkt p 15 8
/-- R247: TASK. -/
def pktTask (p : BitVec 512) : Nat := pkt p 63 47
/-- R247: the reserved fields of a packet are zero. -/
def pktReserved (p : BitVec 512) : Bool :=
  pkt p 7 3 == 0 && pkt p 31 16 == 0 && (match pktType p with
    | 1 => pkt p 68 64 == 0
    | 2 | 3 => pkt p 67 66 == 0 && pkt p 127 72 == 0
    | 4 => pkt p 127 64 == 0
    | 5 => pkt p 255 64 == 0
    | _ => false)
/-- R247: the forms of the address and length fields. DESIGN CHOICE (log 121): an affinity of 13 to 15 is malformed. -/
def pktForm (p : BitVec 512) : Bool :=
  pkt p 511 448 % 8 == 0 && pkt p 447 384 % 32 == 0 && pkt p 319 256 % 64 == 0 && (match pktType p with
    | 1 => pkt p 191 128 % 64 == 0
    | 2 | 3 => pkt p 255 192 % 4096 == 0 && pkt p 191 128 != 0 && pkt p 191 128 % 4096 == 0 && pkt p 71 68 ≤ 12
    | 4 => pkt p 255 192 % 8 == 0
    | _ => true)
/-- R246: a packet that is well formed. -/
def pktOk (p : BitVec 512) : Bool := pktReserved p && pktForm p

/-- R295: the first id of a partition's task range and its length. -/
def taskRange (pcfg : DWord) : Nat × Nat := (bits pcfg.toNat 33 17, 1024 * bits pcfg.toNat 16 9)
/-- Whether an id lies in a partition's task range. -/
def inTaskRange (pcfg : DWord) (id : Nat) : Bool := let r := taskRange pcfg; decide (r.1 ≤ id) && decide (id < r.1 + r.2)
/-- R249: whether a packet's TASK breaks the rules of the task table. -/
def State.taskBreaks (s : State) (q : Nat) (p : BitVec 512) : Bool :=
  let id := pktTask p
  if id = 0 then pkt p 46 32 != 0
  else !(inTaskRange (s.part (s.queue q).part).pcfg id) || (match cfind s.tasks id with
    | some t => t.state != .expected
    | none => false)

/-! ### Task blocks (R249) -/

/-- A block that only expects its packet. -/
def Task.expect : Task :=
  { state := .expected, count := 0, packet := 0, queue := 0, desc := Queue.zero, seqNo := 0, launchNo := 0, phase := 0, succs := [], worst := .ok, failedPred := false
    launch := none, parent := none, cls := .ok, event := none, poisoned := false, spanOk := false, since := 0 }

/-- R262: the code of a class. -/
def clsCode : Cls → Nat
  | .ok => 0 | .strandKilled => 1 | .translation => 2 | .permission => 3 | .uncorrectable => 4 | .queuePoison => 5
  | .diverged => 6 | .discarded => 7 | .aborted => 8 | .timeout => 9
/-- R249: the worse of two classes, by code. -/
def worse (a b : Cls) : Cls := if clsCode a < clsCode b then b else a
/-- The class of a fatal code; 1 stands for a peer that has not answered (R323). -/
def clsOfCode (c : Nat) : Cls := if c = 1 then .timeout else if c = 0x10 then .translation else if c = 0x11 then .permission else .uncorrectable

/-- R264: ids joined to a set through successor words, in either direction; the fuel bounds the spreading. -/
def graphOf (tasks : Cells Task) : Nat → List Nat → List Nat
  | 0, l => l
  | n + 1, l =>
    let more := (tasks.filter (fun e => !(l.contains e.1) && (e.2.succs.any l.contains || l.any (fun i =>
      match cfind tasks i with | some t => t.succs.contains e.1 | none => false)))).map (·.1)
    if more.isEmpty then l else graphOf tasks n (l ++ more)
/-- R262: what an event in a hub unit reports, and a task that never ran: HUB and its queue. -/
def hubEvent (c : Cls) (q : Nat) (addr : DWord) : ErrEvent :=
  { cls := c, addr := addr, team := 0, strand := 0, hub := true, pc := 0, unit := q,
    cause := match c with | .translation => 0x10 | .permission => 0x11 | .uncorrectable => 0x12 | _ => 0 }
/-- R249, R260, R264: a task that completes with a class without running. -/
def Task.refuse (t : Task) (c : Cls) (addr : DWord) : Task :=
  { t with state := .retiring, cls := c, event := some (hubEvent c t.queue addr) }

/-- R264: a task's graph poisoned: unstarted tasks complete QUEUE_POISON; every one is marked, and those that have started no longer name a
poisoned task. -/
def State.poisonGraph (s : State) (id : Nat) : State :=
  let g := graphOf s.tasks s.tasks.length [id]
  { s with tasks := cmap (fun i t => if g.contains i then (match t.state with
      | .running | .retiring => { t with poisoned := true, succs := t.succs.filter (fun j => !(g.contains j)) }
      | _ => { t with poisoned := true }.refuse .queuePoison 0) else t) s.tasks }

/-- R249, R252 step 3: a task's count decremented by a predecessor of a class; a block that only expects its packet remembers the
descriptor of the first predecessor's queue. -/
def State.decrement (s : State) (desc : Queue) (c : Cls) (id : Nat) : State :=
  let t := (cfind s.tasks id).getD { Task.expect with desc := desc }
  if t.poisoned then s else
  match t.state with
  | .running | .retiring => s
  | _ =>
    let t1 := { t with count := t.count - 1, worst := worse t.worst c, failedPred := t.failedPred || c != .ok }
    let s1 := { s with tasks := cput s.tasks id t1 }
    if t1.count < -32768 then s1.poisonGraph id else s1

/-! ### Successor records (R248) -/

/-- R248: what reading a packet's successor record gives: ids; or a class with the failing address and the ids already
read; or the address of a peer's line still to be asked for (R325). -/
inductive Succ where
  | ok (ids : List Nat)
  | fail (c : Cls) (addr : DWord) (ids : List Nat)
  | ask (addr : Nat)
  deriving DecidableEq, Repr

/-- R248: whether a successor word is a task of the partition. -/
def succWordOk (pcfg : DWord) (w : Nat) : Bool := w / 2 ^ 17 == 0 && w != 0 && inTaskRange pcfg w

/-- R248: 4-byte words of an array, read one by one until a failure. -/
def State.succArray (s : State) (user asid : Nat) (sec : Bool) (va : Nat) : Nat → List Nat × Option (Nat × Nat)
  | 0 => ([], none)
  | n + 1 => match s.hubRead user asid sec va 4 with
    | .error e => ([], some e)
    | .ok (b, _) => let r := State.succArray s user asid sec (va + 4) n; (leNat b :: r.1, r.2)

/-- R248: a successor record and its overflow array. DESIGN CHOICE (log 123): one whose overflow array is named and not aligned to 4 bytes is bad. -/
def State.succRecord (s : State) (user q : Nat) (va : Nat) : Succ :=
  let qd := s.queue q
  let pcfg := (s.part qd.part).pcfg
  if va = 0 then .ok [] else
  match s.hubRead user qd.asid qd.secure va 64 with
  | .error (a, 0) => .ask a
  | .error (a, c) => .fail (clsOfCode c) (BitVec.ofNat 64 a) []
  | .ok (b, _) =>
    let v := leNat b
    let nin := bits v 415 384
    let novf := bits v 447 416
    if 8 < nin || 4096 < novf || bits v 383 256 != 0 || (novf != 0 && bits v 511 448 % 4 != 0) then .fail .aborted 0 []
    else
      let inl := (List.range nin).map (fun j => bits v (32 * j + 31) (32 * j))
      if !(inl.all (succWordOk pcfg)) then .fail .aborted 0 []
      else
        let r := s.succArray user qd.asid qd.secure (bits v 511 448) novf
        if !(r.1.all (succWordOk pcfg)) then .fail .aborted 0 []
        else match r.2 with
          | some (a, 0) => .ask a
          | some (a, c) => .fail (clsOfCode c) (BitVec.ofNat 64 a) (inl ++ r.1)
          | none => .ok (inl ++ r.1)

/-! ### Entering a packet (R246, R249, R254) -/

/-- R328: bits 255:64 of a packet as bytes. -/
def hashedBytes (p : BitVec 512) : List Byte := leBytes 24 (pkt p 255 64)
/-- R328: the hash of a LAUNCH packet of a queue that is bound to a span told to the other parts, with its place among the queue's LAUNCH packets. -/
def State.tellHash (s : State) (q place : Nat) (p : BitVec 512) : State :=
  if pktType p == 1 && (cfind s.fabric.spans q).isSome then
    { s with fabric := { s.fabric with told := s.fabric.told ++ [.hash q place (Config.packetHash (hashedBytes p))] } }
  else s

/-- R246, R249: whether a packet is entered without being run. -/
def State.packetBad (s : State) (q : Nat) (p : BitVec 512) : Bool := !(pktOk p) || s.taskBreaks q p
/-- R248, R325: the line of a peer's home that entering a packet must first ask for. -/
def State.packetAsks (s : State) (user q : Nat) (p : BitVec 512) : Option Nat :=
  if s.packetBad q p then none else match s.succRecord user q (pkt p 319 256) with
    | .ask a => some a
    | _ => none
/-- R246, R249: a packet of queue `q` entered as a task by a user of the hub that needs to ask for nothing more, submitted by the launch `parent` where
LAUNCH did. R328 pairs the parts of a launch by the LAUNCH packets of the queue: each that is consumed counts (log 113). -/
def State.enterTask (s : State) (user q : Nat) (p : BitVec 512) (parent : Option Nat) : State :=
  let qd := s.queue q
  let s0 := (s.hubDone user).onQueue q (fun x => { x with consumed := x.consumed + 1, launches := if pktType p == 1 then x.launches + 1 else x.launches })
  let base : Task :=
    { Task.expect with
      state := .waiting, packet := p, queue := q, desc := qd, seqNo := qd.consumed, launchNo := qd.launches, parent := parent, since := s.time }
  let anon (s : State) (t : Task) : State := { s with tasks := cput s.tasks s.hub.nextTask t, hub := { s.hub with nextTask := s.hub.nextTask + 1 } }
  if s.packetBad q p then
    anon s0 { base with state := .retiring, cls := .aborted, event := some (hubEvent .aborted q 0) }
  else
    let id := pktTask p
    let t0 : Task := match cfind s.tasks id with
      | some old => { base with count := old.count + pkt p 46 32, worst := old.worst, failedPred := old.failedPred, poisoned := old.poisoned }
      | none => { base with count := pkt p 46 32 }
    match s.succRecord user q (pkt p 319 256) with
    | .ask _ => s
    | .ok ids =>
      let t := { t0 with succs := ids }
      let s1 := s0.tellHash q qd.launches p
      if id = 0 then anon s1 t else { s1 with tasks := cput s1.tasks id t }
    | .fail c a ids =>
      let t := { t0 with state := .retiring, cls := c, event := some (hubEvent c q a), succs := ids }
      if id = 0 then anon s0 t else { s0 with tasks := cput s0.tasks id t }

/-! ### Signals (R255) -/

/-- R315: the function number of a partition: its virtual function. -/
def vfOf (part : Nat) : Nat := part + 1
/-- The descriptor under which a launch runs: its task's, or its queue's where it has no task. -/
def State.launchDesc (s : State) (l : Launch) : Queue := ((cfind s.tasks l.task).map (·.desc)).getD (s.queue l.queue)
/-- An MSI-X table entry after reset: masked (log 97). -/
def MsixEntry.reset : MsixEntry := { addr := 0, data := 0, masked := true }
/-- R316: entry `v` of a function's MSI-X table. -/
def State.msixEntry (s : State) (fn v : Nat) : MsixEntry := (cfind s.hub.msixTable (4096 * fn + v)).getD MsixEntry.reset
/-- R315, R316: a function's vector raised: its MSI-X write is sent, or is pending while the entry is masked. -/
def State.sendMsix (s : State) (fn v : Nat) : State :=
  { s with hub := if (s.msixEntry fn v).masked then { s.hub with msixPending := setInsert s.hub.msixPending (4096 * fn + v) }
    else { s.hub with msix := s.hub.msix ++ [(fn, v)] } }
/-- R255: an MSI-X write for a queue. -/
def State.raiseMsix (s : State) (qd : Queue) : State := s.sendMsix (vfOf qd.part) qd.msix

/-- R255: an 8-byte addition at the home of a physical address, and the interrupt when the sum is 0. -/
def State.signalAt (s : State) (qd : Queue) (pa : Nat) (v : DWord) : State :=
  let r := s.homeLoad pa 8
  let n := BitVec.ofNat 64 (leNat r.1) + v
  let s1 := r.2.homeStore pa (leBytes 8 n.toNat)
  if n = 0 && qd.sigirq && !(s.poisoned pa) then s1.raiseMsix qd else s1

/-- R255, R247, R252, R325: the addition under a queue's address space and world, at a peer's home by request: the new state, or the fatal code. -/
def State.signalAdd (s : State) (use : HubUse) (qd : Queue) (va : Nat) (v : DWord) : Except Nat State :=
  match s.translate qd.asid qd.secure false true va with
  | .ok pa _ _ => .ok (s.signalAt qd pa v)
  | .peer h _ _ =>
    let k := va / 4 % 32
    .ok (s.hubSend use .signal h qd.asid qd.secure va (BitVec.ofNat 128 (255 * 2 ^ (4 * k))) [v.setWidth 32, (v >>> 32).setWidth 32] [k, k + 1])
  | .fail c => .error c

/-- R321: a bit of MEVENT set; a bit that becomes set raises the PF's vector 0. -/
def State.mevent (s : State) (k : Nat) : State :=
  if s.hub.mevent.getLsbD k then s
  else ({ s with hub := { s.hub with mevent := s.hub.mevent ||| BitVec.ofNat 64 (2 ^ k) } } : State).sendMsix 0 0
/-- R246, R264: a queue's ERROR becomes 1. -/
def State.queueError (s : State) (q : Nat) : State :=
  if (s.queue q).error then s else (s.onQueue q (fun x => { x with error := true })).mevent 6

end Sys2Proof.Machine
end

