-- ==== Sys2Proof/Machine/Transfer.lean ====
section
/-!
DEFINITION. Transfers and circular buffers (R126, R137–R152, R243): descriptors and their checks, binding, what a walker
reads and writes in a beat, status words, completion records, ends.
-/
namespace Sys2Proof.Machine

/-! ### Descriptors (R138) -/

/-- R138: the fields of a transfer descriptor's 64 bytes. -/
def xdescOf (b : List Byte) : XDesc :=
  let v := leNat b
  { src := BitVec.ofNat 64 (bits v 63 0), dst := BitVec.ofNat 64 (bits v 127 64), crec := BitVec.ofNat 64 (bits v 191 128)
    bounds := [bits v 207 192, bits v 223 208, bits v 239 224, bits v 255 240, bits v 271 256]
    sstrides := [signed 20 (bits v 291 272), signed 20 (bits v 331 312), signed 20 (bits v 371 352), signed 20 (bits v 411 392),
                 signed 20 (bits v 451 432)]
    dstrides := [signed 20 (bits v 311 292), signed 20 (bits v 351 332), signed 20 (bits v 391 372), signed 20 (bits v 431 412),
                 signed 20 (bits v 471 452)]
    esize := bits v 474 472, planes := bits v 477 475, zelide := bitAt v 478, skind := bits v 480 479, dkind := bits v 482 481
    mcast := bits v 498 483, cbnum := bits v 502 499, cbslot := bits v 506 503, cbcount := bits v 511 507 }

/-- R140: bytes of a source element. -/
def XDesc.ssize (d : XDesc) : Nat := 2 ^ d.esize
/-- R140: bytes of a destination element. -/
def XDesc.dsize (d : XDesc) : Nat := if d.esize = 5 && d.skind = 0 then 4 * (d.planes + 1) else 2 ^ d.esize
/-- R141: the levels that are loops: level 4 is none under ZELIDE. -/
def XDesc.levels (d : XDesc) : Nat := if d.zelide then 4 else 5
/-- The number of iterations. -/
def XDesc.count (d : XDesc) : Nat := ((d.bounds.take d.levels).map (· + 1)).foldl (· * ·) 1
/-- Destination bytes of the whole transfer. -/
def XDesc.total (d : XDesc) : Nat := d.count * d.dsize
/-- The indices of iteration `n`, level 0 first. -/
def iterIdx : List Nat → Nat → List Nat
  | [], _ => []
  | b :: l, n => n % (b + 1) :: iterIdx l (n / (b + 1))
/-- R140: the indices of an iteration. -/
def XDesc.indices (d : XDesc) (n : Nat) : List Nat := iterIdx (d.bounds.take d.levels) n
/-- R140: the sum of indices times strides, in elements. -/
def strideSum (idx : List Nat) (st : List Int) : Int := (List.zipWith (fun (i : Nat) (s : Int) => (i : Int) * s) idx st).foldl (· + ·) 0
/-- R140: the source byte offset of an iteration. -/
def XDesc.soff (d : XDesc) (n : Nat) : Int := d.ssize * strideSum (d.indices n) d.sstrides
/-- R140: the destination byte offset of an iteration. -/
def XDesc.doff (d : XDesc) (n : Nat) : Int := d.dsize * strideSum (d.indices n) d.dstrides
/-- The lowest and highest byte offsets a side reaches from its address. -/
def reach (bounds : List Nat) (st : List Int) (size : Nat) : Int × Int :=
  let ends := List.zipWith (fun (b : Nat) (s : Int) => (b : Int) * s * (size : Int)) bounds st
  (ends.foldl (fun acc x => acc + min 0 x) 0, ends.foldl (fun acc x => acc + max 0 x) 0 + size - 1)
/-- R141: ZELIDE's byte offset from SRC to the scales. -/
def XDesc.scaleOff (d : XDesc) : Int :=
  signed 40 ((((d.dstrides.getD 4 0) % 2 ^ 20).toNat) * 2 ^ 20 + ((d.sstrides.getD 4 0) % 2 ^ 20).toNat)

/-! ### Staging addresses (R126) -/

/-- R126: the fields of a staging address. -/
structure StageAddr where
  kind : Nat
  member : Nat
  strand : Nat
  off : Nat
  deriving DecidableEq, Repr
/-- R126: a staging address, if it is one. -/
def stageAddr (a : DWord) : Option StageAddr :=
  let v := a.toNat
  if v / 2 ^ 42 != 0 then none else
  let x : StageAddr := { kind := bits v 41 40, member := bits v 39 36, strand := bits v 35 32, off := bits v 31 0 }
  if x.kind != 1 && x.strand != 0 then none else some x
/-- The team that is a gang's member. -/
def State.memberTeam (s : State) (tid m : Nat) : Option Nat :=
  let g := (s.team tid).gang
  (s.teams.find? (fun e => e.2.gang == g && e.2.member == m)).map (·.1)
/-- R126: the bytes of a kind's range for a launch and a gang. -/
def State.kindSize (s : State) (tid kind : Nat) : Nat :=
  let t := s.team tid
  let h := (s.launch t.launch).header
  match kind with
  | 0 => h.spbytes
  | 1 => h.tiles * 32768
  | 2 => (s.gang t.gang).segs.length * 262144
  | _ => 65536
/-- R126, R139: a staging side that meets its range. -/
def State.stageOk (s : State) (tid : Nat) (a : DWord) (r : Int × Int) : Bool :=
  match stageAddr a with
  | none => false
  | some x => (s.memberTeam tid x.member).isSome && (x.kind != 1 || decide (x.strand < (s.launch (s.team tid).launch).header.strands))
      && decide (0 ≤ (x.off : Int) + r.1) && decide ((x.off : Int) + r.2 < s.kindSize tid x.kind)

/-- R139: a valid descriptor of a transfer of team `tid`. -/
def State.xdescOk (s : State) (tid : Nat) (d : XDesc) : Bool :=
  let sr := reach (d.bounds.take d.levels) d.sstrides d.ssize
  let dr := reach (d.bounds.take d.levels) d.dstrides d.dsize
  let ring (a : DWord) (st : List Int) : Bool :=
    decide (a.toNat < 131072) && a.toNat % 32 == 0 && st.all (· == 0) && d.cbnum < (s.launch (s.team tid).launch).header.cbufs
      && decide (a.toNat + (d.cbcount + 1) * (32 * 2 ^ d.cbslot) ≤ s.spBytes tid)
  let kind (a : DWord) : Nat := ((stageAddr a).map (·.kind)).getD 0
  ((d.skind == 0 && (d.dkind == 1 || d.dkind == 2)) || (d.dkind == 0 && (d.skind == 1 || d.skind == 2)))
    && d.esize ≤ 5 && ((d.skind != 2 && d.dkind != 2) || d.cbslot ≤ 12)
    && (d.planes == 7 || (d.esize == 5 && d.skind == 0))
    && (!d.zelide || (d.esize == 5 && d.skind == 0 && d.dkind == 1 && kind d.dst == 1 && d.bounds.getD 4 0 == 0))
    && (d.mcast == 0 || (d.skind == 0 && d.dkind == 1 && (List.range 16).all (fun j => !(bitAt d.mcast j) || (s.memberTeam tid j).isSome)))
    && (d.skind != 2 || ring d.src (d.sstrides.take d.levels)) && (d.dkind != 2 || ring d.dst d.dstrides)
    && (d.skind != 1 || s.stageOk tid d.src sr) && (d.dkind != 1 || s.stageOk tid d.dst dr)
    && d.crec.toNat % 32 == 0

/-- R279: what a rope forbids an XFER. -/
def XDesc.ropeForbidden (d : XDesc) : Bool :=
  d.skind == 2 || d.dkind == 2 || d.dkind == 0 || (d.dkind == 1 && (match stageAddr d.dst with | some x => x.kind ≤ 1 | none => false))

/-! ### Binding (R129, R137) -/

/-- The staging side's address of a descriptor. -/
def XDesc.stage (d : XDesc) : Option StageAddr := if d.dkind = 1 then stageAddr d.dst else if d.skind = 1 then stageAddr d.src else none
/-- R142: the members a staging side names. -/
def XDesc.members (d : XDesc) : List Nat :=
  if d.mcast != 0 then (List.range 16).filter (fun j => bitAt d.mcast j) else (d.stage.map (fun x => x.member)).toList
/-- The strand of a team by index. -/
def State.strandOf (s : State) (tid idx : Nat) : Option Nat := (s.strands.find? (fun e => e.2.team == tid && e.2.idx == idx)).map (·.1)
/-- The staging bank of a storage kind now: for segments keyed by segment, else by member. -/
def State.stageBank (s : State) (tid : Nat) (x : StageAddr) (m : Nat) : Bool :=
  match s.memberTeam tid m with
  | none => true
  | some u =>
    let t := s.team u
    match x.kind with
    | 0 => !t.sp.sel
    | 1 => !(((s.strandOf u x.strand).bind s.strandAt).map (·.sel)).getD false
    | 2 => !((s.gang t.gang).segs.getD m Planes.empty).sel
    | _ => !(((cfind (s.launch t.launch).imems t.core).map (·.planes.sel)).getD false)
/-- R137: the banks a new transfer is bound to. -/
def State.bind (s : State) (tid : Nat) (d : XDesc) : List (Nat × Bool) :=
  match d.stage with
  | none => []
  | some x =>
    if x.kind = 2 then
      let r := if d.dkind = 1 then reach (d.bounds.take d.levels) d.dstrides d.dsize else reach (d.bounds.take d.levels) d.sstrides d.ssize
      let lo := ((x.off : Int) + r.1).toNat / 262144
      let hi := ((x.off : Int) + r.2).toNat / 262144
      (List.range (hi + 1 - lo)).map (fun k => (lo + k, !((s.gang (s.team tid).gang).segs.getD (lo + k) Planes.empty).sel))
    else d.members.map (fun m => (m, s.stageBank tid x m))
/-- The bank a transfer is bound to for a member or segment. -/
def Xfer.bankOf (x : Xfer) (k : Nat) : Bool := ((x.banks.find? (fun e => e.1 == k)).map (·.2)).getD false
/-- R145: an unended transfer. -/
def Xfer.live (x : Xfer) : Bool := !x.ended
/-- The transfer of a team by id. -/
def State.xferOf (s : State) (tid id : Nat) : Option Xfer := (s.team tid).xfers.find? (fun x => x.id == id)
/-- A transfer of a team replaced. -/
def State.putXfer (s : State) (tid : Nat) (x : Xfer) : State :=
  s.onTeam tid (fun t => { t with xfers := t.xfers.map (fun y => if y.id == x.id then x else y) })

/-! ### Status and records (R145, R146) -/

/-- R145: the state code. -/
def xstateCode : XState → Nat
  | .done => 0 | .queued => 1 | .running => 2 | .aborted => 3 | .fault => 4 | .suspended => 2
/-- R145: the status word of a transfer. -/
def Xfer.status (x : Xfer) : DWord := BitVec.ofNat 64 (x.beats % 2 ^ 32 * 2 ^ 32 + xstateCode x.state)
/-- R146: the 32 bytes of the completion record. -/
def Xfer.record (x : Xfer) : List Byte :=
  let f := x.state == .fault
  let it (n : Nat) : Nat := if f then x.failIter.getD n 0 else 0
  leBytes 32 (xstateCode x.state + x.beats % 2 ^ 32 * 2 ^ 32 + (if f then x.failAddr.toNat else 0) * 2 ^ 64 + x.id * 2 ^ 128
    + it 0 * 2 ^ 176 + it 1 * 2 ^ 192 + it 2 * 2 ^ 208 + it 3 * 2 ^ 224 + it 4 * 2 ^ 240)

/-! ### Circular buffers (R148, R149, R151) -/

/-- A buffer never bound. -/
def CBuf.start : CBuf :=
  { latched := false, inbound := false, bound := none, base := 0, slotLog := 0, slots := 0, sidx := 0, widx := 0, filled := 0, free := 0, held := false, bank := false }
/-- Buffer `n` of a team. -/
def State.cbuf (s : State) (tid n : Nat) : CBuf := (cfind (s.team tid).cbs n).getD CBuf.start
/-- Buffer `n` of a team changed. -/
def State.onCbuf (s : State) (tid n : Nat) (f : CBuf → CBuf) : State :=
  s.onTeam tid (fun t => { t with cbs := cput t.cbs n (f ((cfind t.cbs n).getD CBuf.start)) })
/-- R148: idle. -/
def CBuf.idle (b : CBuf) : Bool := b.bound.isNone && b.filled == 0 && !b.held
/-- Bytes of a slot. -/
def CBuf.slotBytes (b : CBuf) : Nat := 32 * 2 ^ b.slotLog
/-- R148: the ring's address in a descriptor. -/
def XDesc.ringBase (d : XDesc) : Nat := if d.dkind = 2 then d.dst.toNat else d.src.toNat
/-- R148: equal geometry and direction. -/
def CBuf.matches (b : CBuf) (d : XDesc) : Bool :=
  b.latched && b.base == d.ringBase && b.slotLog == d.cbslot && b.slots == d.cbcount + 1 && b.inbound == (d.dkind == 2)
/-- R148: the geometry latched by an XFER. -/
def CBuf.latch (d : XDesc) : CBuf :=
  { latched := true, inbound := d.dkind == 2, bound := none, base := d.ringBase, slotLog := d.cbslot, slots := d.cbcount + 1
    sidx := 0, widx := 0, filled := 0, free := d.cbcount + 1, held := false, bank := false }
/-- R151: the state word. -/
def CBuf.word (b : CBuf) : DWord :=
  BitVec.ofNat 64 ((if b.latched then 2 ^ 63 else 0) + (if b.inbound then 2 ^ 62 else 0) + (if b.bound.isSome then 2 ^ 61 else 0)
    + b.base % 2 ^ 17 * 2 ^ 32 + b.slotLog * 2 ^ 22 + (b.slots - 1) * 2 ^ 17 + b.sidx * 2 ^ 12 + b.filled * 2 ^ 6 + b.free)
/-- R148: the oldest unended transfer of a buffer becomes the one bound to it. -/
def State.bindRing (s : State) (tid n : Nat) : State :=
  let b := s.cbuf tid n
  if b.bound.isSome then s else
  match (s.team tid).xfers.find? (fun x => x.live && (x.desc.skind == 2 || x.desc.dkind == 2) && x.desc.cbnum == n) with
  | some x => s.onCbuf tid n (fun b => { b with bound := some x.id })
  | none => s

/-! ### XFER performed (R137) -/

/-- The outcome of the checks an XFER makes when it is performed. -/
inductive XStart where
  | bad
  | ropeUse
  | full
  | ok
  deriving DecidableEq, Repr

/-- R137, R139, R144, R148, R279: the checks of an XFER with descriptor `d` by team `tid`; one copied before a wait is valid. -/
def State.xferCheck (s : State) (tid : Nat) (rope copied : Bool) (d : XDesc) : XStart :=
  if !copied && !(s.xdescOk tid d) then .bad
  else if (d.skind == 2 || d.dkind == 2) && !((s.cbuf tid d.cbnum).idle || (s.cbuf tid d.cbnum).matches d) then .bad
  else if rope && d.ropeForbidden then .ropeUse
  else if 32 ≤ ((s.team tid).xfers.filter Xfer.live).length then .full
  else .ok

/-- R137, R144: a transfer entered in its team's table and queued; its id. -/
def State.xferEnter (s : State) (tid strand pc : Nat) (d : XDesc) : Nat × State :=
  let t := s.team tid
  let id := t.nextXfer
  let x : Xfer := { id := id, desc := d, state := .queued, beats := 0, done := 0, banks := s.bind tid d, router := none, order := s.hub.xferOrder
                    pc := pc, strand := strand, aborting := false, failAddr := 0, failIter := [], paused := false, peerLines := [], peerBad := [], fault := 0 }
  let old := if t.xfers.length < 32 then t.xfers else
    match t.xfers.find? Xfer.ended with
    | some y => t.xfers.filter (fun z => z.id != y.id)
    | none => t.xfers
  let s1 := s.onTeam tid (fun t => { t with xfers := old ++ [x], nextXfer := if id + 1 = 2 ^ 32 then 1 else id + 1 })
  let s2 := { s1 with hub := { s1.hub with xferOrder := s1.hub.xferOrder + 1 } }
  let ring := d.skind == 2 || d.dkind == 2
  let s3 := if ring && (s2.cbuf tid d.cbnum).idle then s2.onCbuf tid d.cbnum (fun _ => CBuf.latch d) else s2
  (id, if ring then s3.bindRing tid d.cbnum else s3)

/-! ### What a walker reads and writes -/

/-- R126: a byte of a tile region. -/
def Slot.tileByte (x : Slot) (off : Nat) : Byte :=
  let t := (cfind x.tiles (off / 32768)).getD Tile.start
  let o := off % 32768
  let part (w : Nat) (n : Nat) : Byte := BitVec.ofNat 8 (w / 256 ^ n)
  if o < 16384 then part (cget 0 t.words (o / 4)).toNat (o % 4)
  else if o < 16512 then part (t.mrow ((o - 16384) / 4)).toNat (o % 4)
  else if o < 16640 then part (t.lrow ((o - 16512) / 4)).toNat (o % 4)
  else if o < 20736 then part (t.scale ((o - 16640) / 2)).toNat (o % 2)
  else if o = 20736 then BitVec.ofNat 8 (tagCode t.tag)
  else 0
/-- A byte of a number replaced. -/
def setByte {n : Nat} (w : BitVec n) (k : Nat) (b : Byte) : BitVec n :=
  (w &&& ~~~ BitVec.ofNat n (255 * 256 ^ k)) ||| BitVec.ofNat n (b.toNat * 256 ^ k)
/-- R126: a byte of a tile region written. -/
def Slot.putTileByte (x : Slot) (off : Nat) (b : Byte) : Slot :=
  let t := (cfind x.tiles (off / 32768)).getD Tile.start
  let o := off % 32768
  let t1 : Tile :=
    if o < 16384 then { t with words := cset 0 t.words (o / 4) (setByte (cget 0 t.words (o / 4)) (o % 4) b) }
    else if o < 16512 then { t with m := cset 0 t.m ((o - 16384) / 4) (setByte (t.mrow ((o - 16384) / 4)) (o % 4) b) }
    else if o < 16640 then { t with l := cset 0 t.l ((o - 16512) / 4) (setByte (t.lrow ((o - 16512) / 4)) (o % 4) b) }
    else if o < 20736 then { t with scales := cset 0 t.scales ((o - 16640) / 2) (setByte (t.scale ((o - 16640) / 2)) (o % 2) b) }
    else if o = 20736 then { t with tag := (tagOfCode (b.toNat % 32)).getD .raw }
    else t
  { x with tiles := cput x.tiles (off / 32768) t1 }
/-- R136, R292: poison of a tile region after a beat: sectors that take poisoned data set, others wholly covered cleared. -/
def Slot.tilePoison (x : Slot) (offs bad : List Nat) : Slot :=
  ((offs.map (· / 32)).eraseDups).foldl (fun x k =>
    let i := k / 1024
    let covered := (List.range 32).all (fun b => offs.contains (32 * k + b))
    let t := (cfind x.tiles i).getD Tile.start
    let p := if bad.any (fun o => o / 32 == k) then setInsert t.poison (k % 1024) else if covered then setErase t.poison (k % 1024) else t.poison
    { x with tiles := cput x.tiles i { t with poison := p } }) x

/-- The bank of the strand slot by its selector value. -/
def Strand.slotOf (st : Strand) (b : Bool) : Slot := if b then st.bankB else st.bankA
/-- The bank of the strand slot replaced. -/
def Strand.withSlotOf (st : Strand) (b : Bool) (x : Slot) : Strand := if b then { st with bankB := x } else { st with bankA := x }

/-- R136: bytes read by a walker from the staging side of transfer `x` at offsets, with the poison of their sectors. -/
def State.stageRead (s : State) (tid : Nat) (x : Xfer) (a : StageAddr) (off : Nat) : Byte × Bool :=
  match s.memberTeam tid a.member with
  | none => (0, false)
  | some u =>
    let t := s.team u
    match a.kind with
    | 0 => let b := t.sp.bank (x.bankOf a.member); (readByte b.bytes off, member b.poison (off / 32))
    | 1 => match (s.strandOf u a.strand).bind s.strandAt with
      | some st =>
        let q := st.slotOf (x.bankOf a.member)
        (q.tileByte off, member ((cfind q.tiles (off / 32768)).getD Tile.start).poison (off % 32768 / 32))
      | none => (0, false)
    | 2 => let b := ((s.gang t.gang).segs.getD (off / 262144) Planes.empty).bank (x.bankOf (off / 262144))
           (readByte b.bytes (off % 262144), member b.poison (off % 262144 / 32))
    | _ => match cfind (s.launch t.launch).imems t.core with
      | some im => let b := im.planes.bank (x.bankOf a.member); (readByte b.bytes off, member b.poison (off / 32))
      | none => (0, false)

/-- A beat's bytes written to the staging storage of one member; those at the offsets `bad` carry poison. -/
def State.stageWrite (s : State) (tid : Nat) (x : Xfer) (a : StageAddr) (m : Nat) (ws : List (Nat × Byte)) (bad : List Nat) : State :=
  match s.memberTeam tid m with
  | none => s
  | some u =>
    let t := s.team u
    match a.kind with
    | 0 => let k := x.bankOf m
           s.onTeam u (fun t => { t with sp := t.sp.withBank k ((t.sp.bank k).store ws bad) })
    | 1 => match s.strandOf u a.strand with
      | some i => s.onStrandAt i (fun st =>
          let k := x.bankOf m
          let q := (ws.foldl (fun q w => q.putTileByte w.1 w.2) (st.slotOf k)).tilePoison (ws.map (·.1)) bad
          st.withSlotOf k q)
      | none => s
    | 2 => s.onGang t.gang (fun g => { g with segs := (List.range g.segs.length).map (fun j =>
        let p := g.segs.getD j Planes.empty
        let mine := (ws.filter (fun w => w.1 / 262144 == j)).map (fun w => (w.1 % 262144, w.2))
        if mine.isEmpty then p else
        let k := x.bankOf j
        p.withBank k ((p.bank k).store mine ((bad.filter (fun o => o / 262144 == j)).map (· % 262144)))) })
    | _ => s.onLaunch t.launch (fun l => match cfind l.imems t.core with
      | some im =>
        let k := x.bankOf m
        { l with imems := cput l.imems t.core { im with planes := im.planes.withBank k ((im.planes.bank k).store ws bad) } }
      | none => l)

/-! ### Beats (R140, R141, R149) -/

/-- R210, R96: an address translated for a walker of a team. -/
def State.teamTranslate (s : State) (tid : Nat) (rd wr : Bool) (va : Nat) : Tr :=
  let l := s.launch (s.team tid).launch
  if s.wasDropped { core := (s.team tid).core, launch := 0, asid := l.asid, secure := l.secure, dropped := l.dropped
                    event := hubEvent .translation l.queue (BitVec.ofNat 64 va) } va then .fail 0x10
  else s.translate l.asid l.secure rd wr va

/-- R140: the destination address of byte `k` of the stream: for a ring, its place in the ring. -/
def XDesc.dbyte (d : XDesc) (b : CBuf) (k : Nat) : Int :=
  if d.dkind = 2 then b.base + (b.widx * b.slotBytes + k % b.slotBytes) else
  let n := k / d.dsize
  (if d.dkind = 1 then (((stageAddr d.dst).map (fun x => x.off)).getD 0 : Int) else d.dst.toNat) + d.doff n + (k % d.dsize : Nat)
/-- R140: the source address of byte `k` of the stream. -/
def XDesc.sbyte (d : XDesc) (b : CBuf) (k : Nat) : Int :=
  if d.skind = 2 then b.base + (b.widx * b.slotBytes + k % b.slotBytes) else
  let n := k / d.dsize
  (if d.skind = 1 then (((stageAddr d.src).map (fun x => x.off)).getD 0 : Int) else d.src.toNat) + d.soff n + (k % d.dsize : Nat)
/-- R140: the stream bytes of the next beat: as many as fall in one 64-byte block of the destination, and in one ring slot (log 103). -/
def XDesc.beat (d : XDesc) (b : CBuf) (from' : Nat) : List Nat :=
  let blk (k : Nat) : Int := d.dbyte b k / 64
  let ring := d.skind == 2 || d.dkind == 2
  ((List.range 64).map (from' + ·)).takeWhile (fun k => decide (k < d.total) && blk k == blk from'
    && (!ring || k / b.slotBytes == from' / b.slotBytes))

/-- A memory byte as a walker of a team reads it: the byte and poison; or the failing address and code; or a peer's line
that must be asked for. -/
inductive WalkRead where
  | ok (b : Byte) (poison : Bool)
  | fail (code : Nat)
  | peer (home : Nat)
  deriving DecidableEq, Repr

/-- R140, R210, R299: a byte of memory read by a walker. UPDATE lines have been combined. -/
def State.walkRead (s : State) (tid : Nat) (x : Xfer) (va : Nat) : WalkRead :=
  match s.teamTranslate tid true false va with
  | .ok pa _ _ => .ok (readByte s.mem pa) (s.poisoned pa)
  | .peer h _ _ => match cfind (cget [] x.peerLines (va / 128)) (va / 4 % 32) with
    | some w => .ok (BitVec.ofNat 8 (w.toNat / 256 ^ (va % 4))) (x.peerBad.contains (va / 4))
    | none => .peer h
  | .fail c => .fail c

/-- R226: the lines of memory a walker is about to touch combined. -/
def State.combineVa (s : State) (tid : Nat) (vas : List Nat) : State :=
  let l := s.launch (s.team tid).launch
  vas.foldl (fun t va => match t.translate l.asid l.secure false false va with
    | .ok pa _ _ => t.combine (pa / 128)
    | _ => t) s

/-- What a beat's source gives: its bytes, each with whether it is poisoned, or a stop. -/
inductive BeatSrc where
  | ok (bs : List Byte) (bad : List Bool)
  | fail (code k : Nat) (va : DWord)
  | peer (home k : Nat) (va : DWord)
  deriving DecidableEq, Repr

/-- The source bytes of a beat, in order, stopping at the first failure; `scales` has the scale of each block that the beat works on (R141),
which is read before the block, and says where it is marked. -/
def State.beatSrc (s : State) (tid : Nat) (x : Xfer) (b : CBuf) (scales : List (Nat × BeatSrc)) : List Nat → BeatSrc
  | [] => .ok [] []
  | k :: l =>
    let d := x.desc
    let va := (d.sbyte b k) % 2 ^ 64
    let byte : BeatSrc := match s.walkRead tid x va.toNat with
      | .ok v p => .ok [v] [p]
      | .fail c => .fail c k (BitVec.ofInt 64 va)
      | .peer h => .peer h k (BitVec.ofInt 64 va)
    let here : BeatSrc :=
      if d.skind = 0 then
        match scales.find? (fun e => e.1 == k / d.dsize) with
        | none => byte
        | some (_, .ok q _) => if (q.getD 1 0).getLsbD 7 then .ok [0] [false] else byte
        | some (_, .fail c _ a) => .fail c k a
        | some (_, .peer h _ a) => .peer h k a
      else if d.skind = 1 then
        match stageAddr d.src with
        | some a => let r := s.stageRead tid x a (d.sbyte b k).toNat; .ok [r.1] [r.2]
        | none => .ok [0] [false]
      else
        let w := (s.team tid).sp.bank b.bank
        let o := (d.sbyte b k).toNat
        .ok [readByte w.bytes o] [member w.poison (o / 32)]
    match here, State.beatSrc s tid x b scales l with
    | .ok v p, .ok vs q => .ok (v ++ vs) (p ++ q)
    | .ok _ _, e => e
    | e, _ => e

/-- R141: the scale of the block that byte `k` of a ZELIDE transfer belongs to. -/
def XDesc.scaleAddr (d : XDesc) (k : Nat) : Nat :=
  let a := (d.src.toNat : Int) + d.soff (k / d.dsize)
  (((d.src.toNat : Int) + d.scaleOff + 2 * ((a - d.src.toNat) / 32)) % 2 ^ 64).toNat
/-- R141: the offset in the tile region of the scale of byte `k`'s block. -/
def XDesc.scaleSlot (d : XDesc) (k : Nat) : Nat :=
  let p := d.planes + 1
  let o := (d.dbyte CBuf.start k).toNat - (k % d.dsize)
  o / 32768 * 32768 + 16640 + 2 * (o % 32768 / 512 * plBlocks 128 p + o % 512 / (4 * p))
/-- A scale read by a walker. -/
def State.walkScale (s : State) (tid : Nat) (x : Xfer) (va : Nat) : BeatSrc :=
  let next := (va + 1) % 2 ^ 64
  match s.walkRead tid x va, s.walkRead tid x next with
  | .ok a p, .ok b q => .ok [a, b] [p, q]
  | .fail c, _ => .fail c 0 (BitVec.ofNat 64 va)
  | .peer h, _ => .peer h 0 (BitVec.ofNat 64 va)
  | _, .fail c => .fail c 0 (BitVec.ofNat 64 va)
  | _, .peer h => .peer h 0 (BitVec.ofNat 64 next)

/-! ### Ends (R143, R146, R147) -/

/-- R143, R262: the error event of a transfer. -/
def State.xferEvent (s : State) (tid : Nat) (x : Xfer) (cls : Cls) (code : Nat) (va : DWord) : ErrEvent :=
  { cls := cls, addr := va, team := (s.team tid).index, strand := x.strand, hub := false, pc := x.pc, unit := (s.team tid).core, cause := code }
/-- R140, R146, R325: bytes of one line that a walker writes at a peer's home for transfer `x`, in order, poisoned at the addresses `bad`; `k` is
the byte of the stream they begin at. A failure of it names the XFER (R143). -/
def State.sendStore (s : State) (tid : Nat) (x : Xfer) (home k : Nat) (va : DWord) (ws : List (Nat × Byte)) (bad : List Nat) : State :=
  let l := s.launch (s.team tid).launch
  let byte (k : Nat) : Byte := ((ws.reverse.find? (fun w => w.1 % 128 == k)).map (·.2)).getD 0
  let r : PeerReq := { src := 0, tag := 0, asid := l.asid, secure := l.secure, op := .store, scope := .hop3, line := va.toNat / 128
                       mask := ws.foldl (fun m w => m ||| BitVec.ofNat 128 (2 ^ (w.1 % 128))) 0
                       words := (List.range 32).map (fun i => BitVec.ofNat 32 (leNat ((List.range 4).map (fun j => byte (4 * i + j)))))
                       expected := [], places := []
                       poison := BitVec.ofNat 4 (((bad.map (fun a => a % 128 / 32)).eraseDups).foldl (fun acc k => acc + 2 ^ k) 0) }
  s.sendPeerOut { peerPost none (s.team tid).launch r home va with
    xfer := some (tid, x.id), places := [k], report := some (s.xferEvent tid x .translation 0 va) }
/-- R143, R146: a transfer ends in a state; its record is written unless CREC is 0. The failure that ends it is fatal to the command with the event
`cause`, and so is a failure of the record, whose event comes after. -/
def State.xferEnd (s : State) (tid : Nat) (x : Xfer) (st : XState) (record : Bool) (cause : Option ErrEvent := none) : State :=
  let x1 := { x with state := st, router := none }
  let s1 := s.putXfer tid x1
  let d := x.desc
  let ring := d.skind == 2 || d.dkind == 2
  let s2 := if ring then
      let partial' := st == .done && (s1.cbuf tid d.cbnum).held
      (s1.onCbuf tid d.cbnum (fun b => if b.bound == some x.id then
        (if partial' then (if b.inbound then { b with bound := none, held := false, filled := b.filled + 1, widx := (b.widx + 1) % b.slots }
                           else { b with bound := none, held := false, free := b.free + 1, widx := (b.widx + 1) % b.slots })
         else if b.held then { b with bound := none, held := false, free := if b.inbound then b.free + 1 else b.free, filled := if b.inbound then b.filled else b.filled + 1 }
         else { b with bound := none }) else b)).bindRing tid d.cbnum
    else s1
  let lid := (s.team tid).launch
  let ending (u : State) : State := match cause with
    | some e => u.tearDown lid e
    | none => u
  let s3 := if !record || d.crec = 0 then ending s2 else
    match s2.teamTranslate tid false true d.crec.toNat with
    | .ok pa _ _ => ending (s2.homeBytes (clusterOf (s.team tid).core) ((List.range 32).zipWith (fun i b => (pa + i, b)) x1.record) [])
    | .peer h _ _ => ending (s2.sendStore tid x1 h x1.done d.crec ((List.range 32).zipWith (fun i b => (d.crec.toNat + i, b)) x1.record) [])
    | .fail c => (ending s2).tearDown lid (s.xferEvent tid x (clsOfCode c) c d.crec)
  if (cfind s3.teams tid).isSome then s3.reap tid else s3

/-- R143: a failed transfer ends FAULT with its record, and its command is torn down. -/
def State.xferTear (s : State) (tid : Nat) (x : Xfer) (code : Nat) : State :=
  s.xferEnd tid x .fault true (some (s.xferEvent tid x (clsOfCode code) code x.failAddr))
/-- R143, R285: a transfer fails on the memory side; under PAIR and TRIO its cause is first compared with what the other replicas' transfers of
its id meet. -/
def State.xferFault (s : State) (tid : Nat) (x : Xfer) (code k : Nat) (va : DWord) : State :=
  let x1 := { x with failAddr := va, failIter := x.desc.indices (k / x.desc.dsize) }
  if 2 ≤ (s.launch (s.team tid).launch).rope then s.putXfer tid { x1 with fault := code } else s.xferTear tid x1 code

/-- R325: whether a transfer waits for a peer's answer. -/
def State.xferAsks (s : State) (tid id : Nat) : Bool := s.fabric.outstanding.any (fun e => e.2.xfer == some (tid, id))
/-- R131: whether a transfer has begun a beat: its bytes are on the way to a peer. -/
def State.xferBegun (s : State) (tid id : Nat) : Bool := s.fabric.outstanding.any (fun e => e.2.xfer == some (tid, id) && e.2.req.op == .store)
/-- R131, R147: a FLIPX ends a transfer that is bound to an old staging bank, with the beat that it has begun. -/
def State.xferAbort (s : State) (tid : Nat) (x : Xfer) : State :=
  if s.xferBegun tid x.id then s.putXfer tid { x with aborting := true } else s.xferEnd tid x .aborted true
/-- A read request by a walker to a peer's home, for byte `k` of its stream. -/
def State.askPeer (s : State) (tid : Nat) (x : Xfer) (home k : Nat) (va : DWord) : State :=
  let l := s.launch (s.team tid).launch
  if s.xferAsks tid x.id then s else
  let r : PeerReq := { src := 0, tag := 0, asid := l.asid, secure := l.secure, op := .read, scope := .hop3, line := va.toNat / 128, mask := wordMask va.toNat
                       words := [], expected := [], places := [], poison := 0 }
  s.sendPeerOut { peerPost none (s.team tid).launch r home va with xfer := some (tid, x.id), places := [k] }

/-- R149, R152: the walker takes the slot it needs, in the plane that works then; `none` while it must wait. -/
def CBuf.take (b : CBuf) (sel : Bool) : Option CBuf :=
  if b.held then some b
  else if b.inbound then (if b.free = 0 then none else some { b with free := b.free - 1, held := true, bank := sel })
  else if b.filled = 0 then none else some { b with filled := b.filled - 1, held := true, bank := sel }
/-- R149: a slot's last byte is done. -/
def CBuf.slotDone (b : CBuf) : CBuf :=
  if b.inbound then { b with held := false, filled := b.filled + 1, widx := (b.widx + 1) % b.slots }
  else { b with held := false, free := b.free + 1, widx := (b.widx + 1) % b.slots }

/-- R148: whether a transfer works on a ring. -/
def XDesc.ring (d : XDesc) : Bool := d.skind == 2 || d.dkind == 2
/-- R140, R149: the ring a transfer's next beat works on, its slot taken; `none` while the beat may not begin. -/
def State.beatRing (s : State) (tid : Nat) (x : Xfer) : Option CBuf :=
  let b := s.cbuf tid x.desc.cbnum
  if !x.desc.ring then some b
  else if b.bound != some x.id then none
  else b.take (s.team tid).sp.sel
/-- R140, R145, R149: a beat of transfer `x` is performed: its bytes are counted, a slot whose last byte it was passes on, and the last beat
ends the transfer, or the one it had begun at a FLIPX (R131). -/
def State.beatDone (s : State) (tid : Nat) (x : Xfer) (b : CBuf) : State :=
  let d := x.desc
  let n := x.done + (d.beat b x.done).length
  let x1 := { x with done := n, beats := (x.beats + 1) % 2 ^ 32, peerLines := [], peerBad := [] }
  let t1 := s.putXfer tid x1
  let t2 := if d.ring then t1.onCbuf tid d.cbnum (fun _ => if n % b.slotBytes = 0 then b.slotDone else b) else t1
  if x.aborting then t2.xferEnd tid x1 .aborted true else if n = d.total then t2.xferEnd tid x1 .done true else t2

/-- R140–R143, R149: one beat of transfer `id` of team `tid`, or its end. Nothing happens while a beat may not begin, or waits for a peer. -/
def State.walkerBeat (s : State) (tid id : Nat) : State :=
  match s.xferOf tid id with
  | none => s
  | some x =>
    if x.state != .running || x.paused || x.aborting || x.fault != 0 || s.xferAsks tid id then s else
    let d := x.desc
    match s.beatRing tid x with
    | none => s
    | some b =>
      let ks := d.beat b x.done
      let s0 := s.combineVa tid (if d.skind = 0 then ks.map (fun k => (d.sbyte b k % 2 ^ 64).toNat) else [])
      -- R141: scales and marks of the blocks this beat begins
      let blocks := if d.zelide then (ks.map (· / d.dsize)).eraseDups else []
      let s0 := s0.combineVa tid (blocks.map (fun n => d.scaleAddr (n * d.dsize)))
      let scales := blocks.map (fun n => (n, s0.walkScale tid x (d.scaleAddr (n * d.dsize))))
      match s0.beatSrc tid x b scales ks with
        | .fail c k va => s0.xferFault tid x c k va
        | .peer h k va => s0.askPeer tid x h k va
        | .ok bs ps =>
          let ws := (ks.zip bs).map (fun e => ((d.dbyte b e.1).toNat, e.2))
          let bad := (ws.zip ps).filterMap (fun e => if e.2 then some e.1.1 else none)
          let scaleWs := scales.flatMap (fun e => match e.2 with
            | .ok [lo, hi] _ => [(d.scaleSlot (e.1 * d.dsize), lo), (d.scaleSlot (e.1 * d.dsize) + 1, hi)]
            | _ => [])
          let scaleBad := scales.flatMap (fun e => match e.2 with
            | .ok _ ps => if ps.any (· == true) then [d.scaleSlot (e.1 * d.dsize)] else []
            | _ => [])
          if d.dkind = 1 then
            match stageAddr d.dst with
            | none => s0.beatDone tid x b
            | some a => (d.members.foldl (fun t m =>
                let t1 := t.stageWrite tid x a m ws bad
                if scaleWs.isEmpty then t1 else t1.stageWrite tid x a m scaleWs scaleBad) s0).beatDone tid x b
          else if d.dkind = 2 then
            (s0.onTeam tid (fun t => { t with sp := t.sp.withBank b.bank ((t.sp.bank b.bank).store ws bad) })).beatDone tid x b
          else
            let pas := ks.map (fun k => (k, s0.teamTranslate tid false true (d.dbyte b k % 2 ^ 64).toNat))
            match pas.find? (fun e => match e.2 with | .fail _ => true | _ => false) with
            | some (k, .fail c) => s0.xferFault tid x c k (BitVec.ofInt 64 (d.dbyte b k))
            | _ => match pas with
              | (k, .peer h _ _) :: _ =>
                (if d.ring then s0.onCbuf tid d.cbnum (fun _ => b) else s0).sendStore tid x h k (BitVec.ofInt 64 (d.dbyte b k)) ws bad
              | _ =>
                let at' := (pas.zip (bs.zip ps)).filterMap (fun e => match e.1.2 with
                  | .ok pa _ _ => some (pa, e.2)
                  | _ => none)
                (s0.homeBytes (clusterOf (s.team tid).core) (at'.map (fun e => (e.1, e.2.1))) ((at'.filter (·.2.2)).map (·.1))).beatDone tid x b

/-! ### Routers (R243) -/

/-- R243: the router of a core. -/
def routerOf (core : Nat) : Nat := core % 256 / 8
/-- R243: contexts a router of a cluster has in use: two walkers of eight. -/
def State.routerLoad (s : State) (cluster r : Nat) : Nat :=
  (s.teams.map (fun e => if clusterOf e.2.core = cluster then (e.2.xfers.filter (fun x => x.router == some r)).length else 0)).foldl (· + ·) 0
/-- R243: the router whose context a transfer of a core takes, nearest first, lower on ties. -/
def State.pickRouter (s : State) (core : Nat) : Option Nat :=
  let r := routerOf core
  let order := r :: ((List.range 32).flatMap (fun d => if d = 0 then [] else
    (if d ≤ r then [r - d] else []) ++ (if r + d < 32 then [r + d] else [])))
  order.find? (fun k => decide (s.routerLoad (clusterOf core) k < 16))
/-- R243: a queued transfer starts, when no transfer queued earlier in its cluster waits and a context is free. -/
def State.transferStart (s : State) (tid id : Nat) : State :=
  match s.xferOf tid id with
  | none => s
  | some x =>
    let core := (s.team tid).core
    let earlier := s.teams.any (fun e => clusterOf e.2.core == clusterOf core && e.2.xfers.any (fun y => y.state == .queued && y.order < x.order))
    if x.state != .queued || earlier then s else
    match s.pickRouter core with
    | none => s
    | some r => s.putXfer tid { x with state := .running, router := some r }

end Sys2Proof.Machine
end

