-- ==== Sys2Proof/Machine/Perform.lean ====
section
/-!
DEFINITION. What each memory instruction does when it is performed (R68, R114–R120, R137, R145, R150, R168, R169, R179,
R181, R217–R227, R230, R254–R256), for a strand outside a rope and for the leader of one.
-/
namespace Sys2Proof.Machine

/-- What performing a request gives: its result with its flags; a wait; or an end of another kind (a trap, a kill, a
tear-down), already applied. -/
inductive Res where
  | none
  | scalar (v : DWord)
  | vector (lanes : List Word)
  deriving DecidableEq, Repr

/-- The outcome of performing a request. -/
inductive Eff where
  | done (s : State) (r : Res) (fl : IFlags)
  | wait (s : State) (w : Wait)
  | stop (s : State)
  deriving DecidableEq, Repr

/-- R68: the mode bits of the request being performed. -/
def Strand.reqMode (st : Strand) : Half := match st.log with
  | e :: _ => e.mode
  | [] => st.mode
/-- R68: the oldest log entry retires. -/
def Strand.popLog (st : Strand) : Strand := { st.setLog (st.log.drop 1) with copied := none }

/-- R70, R73: a request of strand `i` is abandoned with a trap: a log entry is gone, and its pc is the one reported (log 16). -/
def State.trapReq (s : State) (i : Nat) (cause detail : Nat) (addr : DWord) : State :=
  match s.strandAt i with
  | none => s
  | some st =>
    let pc := st.reqPc
    (s.putStrandAt i st.popLog).takeTrap i { cause := cause, detail := detail, pc := pc, epc := pc, addr := addr, info := 0 }

/-- An access failure ends a request; a peer's line is asked for, of a reuse class (R53). -/
def failReq (s : State) (i : Nat) (e : AccFail) (reuse : Nat := 2) : Eff :=
  match s.strandAt i with
  | none => .stop s
  | some st => match e with
    | .fatal c a => .stop (s.fatal i c st.reqPc a)
    | .knit a m => .stop (s.trapReq i 0x09 m a)
    | .peer h va n => .wait (s.askHome i h va n reuse) .peer

/-- A fault in node work stops a request (R166). -/
def failWork (s : State) (i : Nat) (f : NodeFault) : Eff :=
  match f.fail with
  | some (.peer h va n) => .wait (s.askForNode i f h va n) .line
  | _ => .stop ((s.onStrandAt i (fun st => { (if st.log.isEmpty then st else { st.popLog with pc := st.reqPc }) with wait := .none })).nodeFault i f)

/-- Work that a request needs, then the rest. -/
def afterWork (i : Nat) (w : Work) (f : State → Eff) : Eff :=
  match w with
  | .ok s => f s
  | .busy s => .wait s .pass
  | .fault s e => failWork s i e

/-- One lane: the mask of a scalar access. -/
def lane0 : Word := 1

/-! ### Loads and stores -/

/-- R210, R113: a set of lanes loaded: the values, zero-extended. -/
def State.performLoad (s : State) (i : Nat) (addrs : List DWord) (act : Word) (size reuse : Nat) (k : State → (Nat → Nat) → Eff) : Eff :=
  match s.strandAt i with
  | none => .stop s
  | some st =>
    match s.tryLoad (s.agentOf st) st addrs act size reuse with
    | .error (e, t) => failReq t i e reuse
    | .ok (f, t) => k t f

/-- R210, R117: a set of lanes stored. -/
def State.performStore (s : State) (i : Nat) (addrs data : List DWord) (act : Word) (size : Nat) : Eff :=
  match s.strandAt i with
  | none => .stop s
  | some st =>
    let a := s.agentOf st
    match s.storeFailure a addrs act with
    | some e => failReq s i e
    | none => .done (s.storeLanes a addrs data act size) .none 0

/-- Lane values as a result. -/
def laneRes (f : Nat → Nat) : Res := .vector ((List.range 32).map (fun j => BitVec.ofNat 32 (f j)))

/-- R119, R120: a scratchpad load. -/
def State.performSpLoad (s : State) (i : Nat) (addrs : List DWord) (act : Word) (size : Nat) : Eff :=
  match s.strandAt i with
  | none => .stop s
  | some st => match s.spFailure st.team addrs act with
    | some e => failReq s i e
    | none => match (lanesOf act).find? (fun j => s.spPoisoned st.team (addrs.getD j 0) size) with
      | some j => failReq s i (.fatal 0x12 (addrs.getD j 0))
      | none => .done s (laneRes (fun j => leNat (s.spSeen st (addrOf addrs j) size
          (leBytes size (s.spRead st.team (addrs.getD j 0) size))))) 0

/-- R117, R120: a scratchpad store. -/
def State.performSpStore (s : State) (i : Nat) (addrs : List DWord) (data : List Word) (act : Word) (size : Nat) : Eff :=
  match s.strandAt i with
  | none => .stop s
  | some st => match s.spFailure st.team addrs act with
    | some e => failReq s i e
    | none => .done (s.spStore st.team ((lanesOf act).map (fun j => (addrs.getD j 0, leBytes size (data.getD j 0).toNat)))) .none 0

/-! ### Atomics (R223–R227) -/

/-- R223: the new word of an atomic that is no CAS, with its flags. -/
def atomicNew (op : AtomicOp) (tag : Tag) (old x : Word) : Word × IFlags :=
  let pick (lt : Bool) : Word := if lt then old else x
  match op with
  | .add => (old + x, 0)
  | .min => (pick (if tag == .i32 then decide (old.toInt ≤ x.toInt) else decide (old.toNat ≤ x.toNat)), 0)
  | .max => (pick (if tag == .i32 then decide (x.toInt ≤ old.toInt) else decide (x.toNat ≤ old.toNat)), 0)
  | .and => (old &&& x, 0)
  | .or => (old ||| x, 0)
  | .xor => (old ^^^ x, 0)
  | .xch | .cas => (x, 0)
  | .fadd =>
    let r := fmtF32.add (envRne false) (fmtF32.unpack false old.toNat) (fmtF32.unpack false x.toNat)
    (BitVec.ofNat 32 r.bits, r.fl)

/-- What serving a word's lanes gives: the word, what each lane receives, the flags. -/
abbrev Served := Word × List (Nat × Word) × IFlags

/-- R224: the lanes of one word served in ascending order: the word, what each lane found, the flags. -/
def atomicLanes (op : AtomicOp) (tag : Tag) (w : Word) (lanes : List Nat) (x : Nat → Word) : Served :=
  lanes.foldl (fun (acc : Served) j =>
    let r := atomicNew op tag acc.1 (x j)
    (r.1, acc.2.1 ++ [(j, acc.1)], acc.2.2 ||| r.2)) (w, [], 0)
/-- R225: a CAS on one word. -/
def casLanes (w : Word) (lanes : List Nat) (x e : Nat → Word) : Served :=
  match lanes.find? (fun j => e j == w) with
  | some k => (x k, lanes.map (fun j => (j, if j = k then w else x k)), 0)
  | none => (w, lanes.map (fun j => (j, w)), 0)
/-- R224, R225: an atomic on one word. -/
def atomicServe (op : AtomicOp) (tag : Tag) (w : Word) (lanes : List Nat) (x e : Nat → Word) : Served :=
  if op == .cas then casLanes w lanes x e else atomicLanes op tag w lanes x

/-- What lanes found, as a result. -/
def foundRes (l : List (Nat × Word)) : Res := .vector ((List.range 32).map (fun j => ((l.find? (fun e => e.1 == j)).map (·.2)).getD 0))

/-- R223: an atomic on scratchpad words. -/
def State.performSpAtomic (s : State) (i : Nat) (op : AtomicOp) (tag : Tag) (addrs : List DWord) (xs es : List Word) (act : Word) : Eff :=
  match s.strandAt i with
  | none => .stop s
  | some st => match s.spFailure st.team addrs act with
    | some e => failReq s i e
    | none => match (lanesOf act).find? (fun j => s.spPoisoned st.team (addrs.getD j 0) 4) with
      | some j => failReq s i (.fatal 0x12 (addrs.getD j 0))
      | none =>
        let key (j : Nat) : Nat := match s.spTarget st.team (addrs.getD j 0) with | .ok (u, off) => u * 2 ^ 17 + off | .error _ => 0
        let r := (groupLanes (lanesOf act) key).foldl (fun (acc : State × List (Nat × Word)) g =>
          let x := addrs.getD (g.2.headD 0) 0
          let y := atomicServe op tag (BitVec.ofNat 32 (acc.1.spRead st.team x 4)) g.2 (fun j => xs.getD j 0) (fun j => es.getD j 0)
          (acc.1.spStore st.team [(x, leBytes 4 y.1.toNat)], acc.2 ++ y.2.1)) (s, [])
        .done (if act = 0 then s else r.1.noteSync st) (foundRes r.2) 0

/-- R210: a word checked for an atomic, which is performed at its home. -/
def State.checkAtomic (s : State) (a : Agent) (va : Nat) : Tr :=
  if s.wasDropped a va then .fail 0x10 else s.translate a.asid a.secure true true va (s.tlbHas a va)

/-- The launch of a strand. -/
def State.launchIdOf (s : State) (i : Nat) : Nat := ((s.strandAt i).map (fun st => (s.team st.team).launch)).getD 0
/-- R121, R325: before an atomic is performed at a peer's home, what the core's L1 holds DIRTY of the line goes there, and the words it names
leave the L1. -/
def State.yieldPeer (s : State) (a : Agent) (vline : Nat) (ws : List Nat) : State :=
  match s.l1Line a.core a.asid vline with
  | none => s
  | some l =>
    let kept := s.ownLine (clusterOf a.core) 4 l
    (s.writeLineHome a.core l .hop3).putLine a.core { kept with words := kept.words.filter (fun e => !(ws.contains e.1)) }
/-- R213: the lines of peers that a core holds DIRTY, or one of them, are sent to their homes with the scope of what sends them. -/
def State.sendDirtyPeers (s : State) (core : Nat) (scope : Scope) (sel : L1Line → Bool := fun _ => true) : State :=
  (s.core core).l1.foldl (fun (t : State) l => if l.peer.isSome && sel l then (t.writeLineHome core l scope).putLine core (t.ownLine (clusterOf core) 4 l) else t) s
/-- R325, R224: the lanes of an atomic or a reduction that name one line of a peer's home, sent as one request; the strand waits for the answer
or not. -/
def State.sendAtomic (s : State) (i : Nat) (a : Agent) (op : PeerOp) (home : Nat) (lanes : List Nat) (addrs : List DWord) (xs es : List Word)
    (wait : Bool) : State :=
  let va := addrs.getD (lanes.headD 0) 0
  let at' := lanes.map (fun j => addrOf addrs j / 4 % 32)
  let r : PeerReq := { src := 0, tag := 0, asid := a.asid, secure := a.secure, op := op, scope := .hop3, line := va.toNat / 128
                       mask := at'.foldl (fun m w => m ||| wordMask (4 * w)) 0, words := lanes.map (fun j => xs.getD j 0)
                       expected := lanes.map (fun j => es.getD j 0), places := at', poison := 0 }
  (s.yieldPeer a (va.toNat / 128) at').sendWrite a.core
    { peerPost (some a.core) a.launch r home va with strand := if wait then i else 0, places := lanes, report := if wait then none else some a.event }
/-- R227, R325: strand `i` asks a peer's home whether an atomic may be performed on the words that its lanes name of a line. -/
def State.sendCheck (s : State) (i : Nat) (a : Agent) (home : Nat) (lanes : List Nat) (addrs : List DWord) : State :=
  let va := addrs.getD (lanes.headD 0) 0
  let at' := lanes.map (fun j => addrOf addrs j / 4 % 32)
  let r : PeerReq := { src := 0, tag := 0, asid := a.asid, secure := a.secure, op := .check, scope := .hop3, line := va.toNat / 128
                       mask := at'.foldl (fun m w => m ||| wordMask (4 * w)) 0, words := [], expected := [], places := at', poison := 0 }
  s.sendPeerOut { peerPost (some a.core) a.launch r home va with strand := i, places := lanes.map (32 + ·) }

/-- R226: one lane added into the UPDATE copy of its line in the core's L1. A line present in another state is evicted first, and what the
cluster's L2 holds written of it reaches the home (log 20); the words of a new copy are +0. The line takes the value `rrip` (R206): 0 where the
instruction found it in UPDATE state, 2 where it is allocated for it. DESIGN CHOICE (log 110): where integer and floating lanes meet in a word, the
latest lane's kind is the one in which the home adds the partial, and a word that no lane touches adds an integer 0, which leaves the home's word
as it is. -/
def State.redLane (s : State) (a : Agent) (floating : Bool) (va pa : Nat) (rd wr : Bool) (x : Word) (rrip : Nat) : State :=
  let line := pa / 128
  let s1 := s.evictAlias (clusterOf a.core) line a.asid (va / 128)
  let k := va / 4 % 32
  let add (t : State) (l : L1Line) (rrip : Nat) : State :=
    t.putLine a.core { l with rrip := rrip, words := cput l.words k { st := .update floating, data := addPartial floating (lineWord l k) x, poison := false, owner := 0, report := none } }
  let fresh (t : State) : State :=
    let r := (t.l2WriteHome (clusterOf a.core) (fun w => w / 32 == line)).makeRoom a.core
      { asid := a.asid, vline := va / 128, pline := line, peer := none, readable := rd, writable := wr, way := 0, rrip := 2
        words := (List.range 32).map (fun i => (i, { st := .update false, data := 0, poison := false, owner := 0, report := none })) } false
    add r.2 r.1 2
  match s1.l1Line a.core a.asid (va / 128) with
  | some l => if hasUpdate l then add s1 l rrip else fresh (s1.evict a.core a.asid (va / 128))
  | none => fresh s1

/-- R225, R325: the lanes of a request homed on peers, by home and line, in the order of their lowest lane. -/
def State.farLanes (s : State) (a : Agent) (addrs : List DWord) (act : Word) : List (Nat × List Nat) :=
  let home (j : Nat) : Option Nat := match s.checkAtomic a (addrOf addrs j) with | .peer h _ _ => some h | _ => none
  (groupLanes ((lanesOf act).filter (fun j => (home j).isSome)) (fun j => addrOf addrs j / 128)).map (fun g => ((home (g.2.headD 0)).getD 0, g.2))

/-- R226: REDADD and REDFADD. -/
def State.performRed (s : State) (i : Nat) (op : AtomicOp) (_tag : Tag) (addrs : List DWord) (xs : List Word) (act : Word) : Eff :=
  match s.strandAt i with
  | none => .stop s
  | some st =>
    let a := s.agentOf st
    match (lanesOf act).findSome? (fun j => match s.checkAtomic a (addrOf addrs j) with | .fail c => some (AccFail.fatal c (addrs.getD j 0)) | _ => none) with
    | some e => failReq s i e
    | none =>
      let t1 := (lanesOf act).foldl (fun (t : State) j => match t.checkAtomic a (addrOf addrs j) with
        | .ok pa r w => t.redLane a (op == .fadd) (addrOf addrs j) pa r w (xs.getD j 0)
          (if (s.l1Line a.core a.asid (addrOf addrs j / 128)).any hasUpdate then 0 else 2)
        | _ => t) s
      .done (if act = 0 then s else ((s.farLanes a addrs act).foldl (fun (t : State) g =>
        t.sendAtomic i a (.reduce (op == .fadd)) g.1 g.2 addrs xs [] false) t1).noteSync st) .none 0

/-- R223–R225, R227: a returning atomic on memory words. The lines homed on peers are asked for first, one at a time: where there are several, each
home first says whether it may be performed there, then each performs it (log 15). Then the words of this module are served. An atomic is under way
once one is sent to its home (R91). -/
def State.performAtomic (s : State) (i : Nat) (op : AtomicOp) (tag : Tag) (addrs : List DWord) (xs es : List Word) (act : Word) : Eff :=
  match s.strandAt i with
  | none => .stop s
  | some st =>
    let a := s.agentOf st
    match (lanesOf act).findSome? (fun j => match s.checkAtomic a (addrOf addrs j) with | .fail c => some (AccFail.fatal c (addrs.getD j 0)) | _ => none) with
    | some e => failReq s i e
    | none =>
      match (lanesOf act).findSome? (fun j => match s.checkAtomic a (addrOf addrs j) with
          | .ok pa _ _ => if s.poisoned pa then some (AccFail.fatal 0x12 (addrs.getD j 0)) else none
          | _ => none) with
      | some e => failReq s i e
      | none =>
        let far := s.farLanes a addrs act
        let open' (k : Nat) : Option (Nat × List Nat) := far.find? (fun g => !(st.peerDone.any (fun e => g.2.any (fun j => k + j == e.1))))
        match (if 2 ≤ far.length then open' 32 else none), open' 0 with
        | some (h, lanes), _ =>
          if s.fabric.outstanding.any (fun e => e.2.strand == i) then .wait s .peer else .wait (s.sendCheck i a h lanes addrs) .peer
        | none, some (h, lanes) =>
          if s.fabric.outstanding.any (fun e => e.2.strand == i) then .wait s .peer
          else .wait ((s.sendAtomic i a (.atomic op tag) h lanes addrs xs es true).noteSync st) .peer
        | none, none =>
          let pa (j : Nat) : Option Nat := match s.checkAtomic a (addrOf addrs j) with | .ok p _ _ => some p | _ => none
          let here := (lanesOf act).filter (fun j => (pa j).isSome)
          let s := ((here.map (fun j => ((pa j).getD 0) / 128)).eraseDups).foldl (fun (t : State) line => t.l2Touch (homeCluster (128 * line)) line 2 false) s
          let r := (groupLanes here (fun j => ((pa j).getD 0) / 4)).foldl (fun (acc : State × List (Nat × Word) × IFlags) g =>
            let t := acc.1.flushWord a.core g.1
            let y := atomicServe op tag (t.homeWord g.1) g.2 (fun j => xs.getD j 0) (fun j => es.getD j 0)
            (t.performHome a.core g.1 0xF y.1, acc.2.1 ++ y.2.1, acc.2.2 ||| y.2.2)) (s, [], 0)
          let far := st.peerDone.filter (fun e => laneOn act e.1 && (pa e.1).isNone)
          let farFl : IFlags := if op == .fadd then far.foldl (fun acc e => acc ||| (atomicNew op tag e.2 (xs.getD e.1 0)).2) 0 else 0
          .done (if act = 0 then s else r.1.noteSync st) (foundRes (r.2.1 ++ far)) (r.2.2 ||| farFl)

/-! ### Ordered accesses, fences, barriers (R217, R218, R230) -/

/-- R213: a release by a strand; it ends the idempotent mark (R91). -/
def State.releaseBy (s : State) (st : Strand) (scope : Scope) : State := (s.release (s.viewCore st) scope).noteSync st
/-- R214: an acquire by a strand. -/
def State.acquireBy (s : State) (st : Strand) (scope : Scope) : State := s.acquire (s.coreOf st) scope
/-- R213 step 4, R325: whether a release at a scope wider than the core has nothing of the core's L1 to wait for at peers. -/
def State.peersAcked (s : State) (core : Nat) : Bool :=
  !(s.peerOwes core) && !((s.core core).l1.any (fun l => l.peer.isSome && dirtyMask l != 0))

/-- R218: an aligned word as an LDACQ of a level reads it: one the L1 owns at that level or higher, else the level's, with the bytes that its core
holds DIRTY over it, which there are at level 1 alone; and whether the bytes `need` of it are poisoned. -/
def State.orderedWord (s : State) (a : Agent) (level va pa : Nat) (need : BitVec 4) : Word × Bool :=
  let k := clusterOf a.core
  let below := if level ≤ 2 then s.belowWord k (pa / 4) else s.homeWord (pa / 4)
  let bad := if level ≤ 2 then s.belowPoison k (pa / 4) else s.poisoned pa
  match (s.l1Line a.core a.asid (va / 128)).bind (fun l => cfind l.words (va / 4 % 32)) with
  | some x => match x.st with
    | .dirty m => (mergeBytes below x.data m, need &&& ~~~ m != 0 && bad)
    | .owned lv => if level ≤ lv then (x.data, x.poison) else (below, bad)
    | _ => (below, bad)
  | none => (below, bad)

/-- R211, R218: whether an LDACQ of a level takes the word at `va` from its own L1, one that it holds OWNED at that level or higher, or DIRTY at
level 1. -/
def State.ownServes (s : State) (a : Agent) (level va : Nat) : Bool :=
  match ((s.l1Line a.core a.asid (va / 128)).bind (fun l => cfind l.words (va / 4 % 32))).map L1Word.st with
  | some (.dirty _) => decide (level < 2)
  | some (.owned lv) => decide (level ≤ lv)
  | _ => false

/-- R206, R218: the level that an LDACQ reads brought up to date for the word at `va`, and the one after it for 8 bytes: UPDATE copies are combined; an
access that the L1's own words serve is a hit there; else, at level 3 the cluster's written words reach their homes, and from level 2 on what the core itself holds DIRTY there goes to the home first, be it the
strand's own (R121) or a sibling's, so that every agent sees the store when this one does (R234, R239, log 80). -/
def State.orderedReady (s : State) (a : Agent) (level size va pa : Nat) : State :=
  let line := pa / 128
  let k := clusterOf a.core
  let s1 := s.combine line
  if s1.ownServes a level va && (size != 8 || s1.ownServes a level (va + 4)) then match s1.l1Line a.core a.asid (va / 128) with
    | some l => s1.putLine a.core { l with rrip := 0 }
    | none => s1
  else if level < 2 then s1 else
  let s2 := if 3 ≤ level then s1.l2WriteHome k (fun _ => true) else s1
  let s3 := s2.shedWord a.core (pa / 4)
  let s4 := if size = 8 then s3.shedWord a.core (pa / 4 + 1) else s3
  if level = 2 then (s4.l2Touch k line 2 false).l2Fetch k line else s4.l2Touch (homeCluster pa) line 2 false

/-- R218: LDACQ. -/
def State.performLdacq (s : State) (i : Nat) (size : Nat) (scope : Scope) (addr : DWord) : Eff :=
  match s.strandAt i with
  | none => .stop s
  | some st =>
    let a := s.agentOf st
    let va := addr.toNat
    let level := levelOf scope
    let value (raw : List Byte) : DWord := BitVec.ofNat 64 (leNat (overlay false (s.memPlace a) st.buffer va size ((raw.drop (va % 4)).take size)))
    match s.check a true false va size with
    | .fail c => failReq s i (.fatal c addr)
    | .peer h _ _ =>
      if !(st.holdsPeer va size) then
        .wait ((s.sendDirtyPeers a.core scope (fun l => l.asid == a.asid && l.vline == va / 128)).askHome i h addr size 2 scope) .peer
      else .done (s.acquireBy st scope) (.scalar (value (leBytes 8 (((st.peerGot va).getD 0).toNat
        + 2 ^ 32 * (if size = 8 then (st.peerGot (va + 4)).getD 0 else 0).toNat)))) 0
    | .ok pa _ _ =>
      let s2 := s.orderedReady a level size va pa
      let lo := s2.orderedWord a level (va / 4 * 4) (pa / 4 * 4) (needMask va size)
      let hi := if size = 8 then s2.orderedWord a level (va + 4) (pa + 4) 0xF else (0, false)
      if lo.2 || hi.2 then failReq s2 i (.fatal 0x12 addr)
      else
        .done (s2.acquireBy st scope) (.scalar (value (leBytes 8 (lo.1.toNat + 2 ^ 32 * hi.1.toNat)))) 0

/-- R218: STREL: the release, then the store, at the scope's level. -/
def State.performStrel (s : State) (i : Nat) (size : Nat) (scope : Scope) (addr data : DWord) : Eff :=
  match s.strandAt i with
  | none => .stop s
  | some st =>
    let a := s.agentOf st
    match s.storeFailure a [addr] lane0 with
    | some e => failReq s i e
    | none =>
      let s1 := (s.releaseBy st scope).storeLane a addr.toNat size data
      .done (s1.release a.core scope) .none 0

/-- R217: FENCE. -/
def State.performFence (s : State) (i : Nat) (scope : Scope) (kind : FenceKind) : Eff :=
  match s.strandAt i with
  | none => .stop s
  | some st => .done (match kind with
      | .acq => s.acquireBy st scope
      | .rel => s.releaseBy st scope
      | .acqrel => (s.releaseBy st scope).acquireBy st scope) .none 0

/-- R230: the scope of a barrier level; a launch over several devices takes the smallest hop scope that covers them. -/
def State.barScope (s : State) (st : Strand) : BarLevel → Scope
  | .team => .team
  | .gang => .cluster
  | .range => .die
  | .launch =>
    let l := s.launchOf st
    match cfind s.fabric.spans l.queue with
    | none => .pkg
    | some sp =>
      let far := (sp.devs.map (fun d => if d = s.fabric.id then 0 else cget 4 s.fabric.hops d)).foldl max 0
      if far ≤ 1 then .hop1 else if far = 2 then .hop2 else .hop3

/-- R230: an arrival recorded, or the wait for a phase already arrived at. -/
def State.arriveAt (s : State) (i : Nat) (st : Strand) (lv : BarLevel) (n : Nat) : Option State :=
  let b := s.barrier st lv n
  if cfind st.arrivals (barKey lv n) == some (b.phase + 1) then none else
  let s1 := s.releaseBy st (s.barScope st lv)
  let s2 := s1.onStrandAt i (fun x => { x with arrivals := cput x.arrivals (barKey lv n) (b.phase + 1) })
  let s3 := s2.putBarrier st lv n { b with count := b.count + 1 }
  some ((if lv == .launch then s3.tellParts (s.team st.team).launch n .arrival else s3).barCheck st lv n)

/-- R230: whether the phase of a strand's last arrival has completed. -/
def State.phaseDone (s : State) (st : Strand) (lv : BarLevel) (n : Nat) : Bool :=
  match cfind st.arrivals (barKey lv n) with
  | some v => decide (v ≤ (s.barrier st lv n).phase)
  | none => true

/-- R230: the end of an AWAIT or MEET. -/
def State.awaitDone (s : State) (i : Nat) (st : Strand) (lv : BarLevel) (n : Nat) : Eff :=
  let s1 := (s.acquireBy st (s.barScope st lv)).onStrandAt i (fun x => { x with arrivals := cdel x.arrivals (256 + barKey lv n) })
  .done s1 (.scalar (if (s.barrier st lv n).abandoned then 1 else 0)) 0

/-- R230: ARRIVE, AWAIT and MEET. -/
def State.performBar (s : State) (i : Nat) (arrive await : Bool) (lv : BarLevel) (n : Nat) : Eff :=
  match s.strandAt i with
  | none => .stop s
  | some st =>
    let marked := (cfind st.arrivals (256 + barKey lv n)).isSome
    if arrive && !(await && marked) then
      match s.arriveAt i st lv n with
      | none => .wait s .barrier
      | some s1 =>
        if !await then .done s1 .none 0
        else
          let s2 := s1.onStrandAt i (fun x => { x with arrivals := cput x.arrivals (256 + barKey lv n) 1 })
          match s2.strandAt i with
          | none => .stop s2
          | some x => if s2.phaseDone x lv n then s2.awaitDone i x lv n else .wait s2 .barrier
    else if s.phaseDone st lv n then s.awaitDone i st lv n else .wait s .barrier

/-! ### Knits (R219–R222) -/

/-- R220: the handle of a knit entry. -/
def knitHandle (gen : Word) (cluster n : Nat) : DWord := BitVec.ofNat 64 (gen.toNat * 2 ^ 32 + cluster * 2 ^ 12 + n)
/-- The knit of a team. -/
def State.knitOf (s : State) (tid : Nat) : Knit :=
  let t := s.team tid
  (cfind (s.cluster t.knitCluster).knits t.knit).getD { gen := 0, used := false, part := 0, secure := false, members := [] }

/-- R167: a descriptor checked, with the ranges its rows and steps cover. -/
def State.descWith (s : State) (st : Strand) (needTag : Bool) (x : DWord) (ranges : TileDesc → List Range) :
    Except DescBad (TileDesc × List Range) :=
  match s.descCheckTag st needTag x with
  | .error e => .error e
  | .ok d =>
    let rs := ranges d
    if segsOk (s.gangOf st).segs.length d rs then .ok (d, rs) else .error (.trap 0x01 x)
/-- R167, R169: the descriptor of a TST of tile `t`, checked but for its TAG, with its ranges. -/
def State.tstDesc (s : State) (st : Strand) (t : Nat) (x : DWord) : Except DescBad (TileDesc × List Range) :=
  s.descWith st false x (fun d => descRanges d 32 1 d.kbytes (2 * scalesPerRow (st.getT t).tag))
/-- R119, R137, R169: whether a request accesses a remote window. -/
def State.remoteReq (s : State) (st : Strand) : MemReq → Bool
  | .spload _ _ _ addrs act | .spstore _ addrs _ act | .spatomic _ _ _ addrs _ _ act => (lanesOf act).any (fun j => (addrs.getD j 0).getLsbD 22)
  | .xfer _ addr => addr.getLsbD 22
  | .tst t x => match s.tstDesc st t x with
    | .ok (d, _) => d.space == 1 && (d.base.getLsbD 22 || (d.sbase != 0 && d.sbase.getLsbD 22))
    | .error _ => false
  | _ => false
/-- R271: whether a strand holds stores in its compare buffer that the team `tid` has issued to a remote window, or that name the window of `tid`. -/
def State.remoteBuffered (s : State) (tid : Nat) (st : Strand) : Bool :=
  st.buffer.any (fun b => b.remote && (st.team == tid || b.items.any (fun t => match s.spTarget st.team t.addr with
    | .ok (u, _) => u == tid
    | .error _ => false)))
/-- R222 steps 1 and 3: whether another strand still has an issued remote access to perform before team `tid` leaves its knit: one of the team in its
operand log, or a store of the team, or to the team's window, in a compare buffer. -/
def State.remoteLogged (s : State) (i tid : Nat) : Bool :=
  s.strands.any (fun e => e.1 != i && e.2.run == .running
    && ((e.2.team == tid && e.2.log.any (fun x => s.remoteReq e.2 x.req)) || (e.2.replica == 0 && s.remoteBuffered tid e.2)))
/-- R221: KJOIN. -/
def State.performKjoin (s : State) (i : Nat) (h : DWord) : Eff :=
  match s.strandAt i with
  | none => .stop s
  | some st =>
    let tid := st.team
    let t := s.team tid
    let l := s.launchOf st
    if bits h.toNat 31 15 != 0 then .stop (s.trapReq i 0x01 0 0) else
    let cl := bits h.toNat 14 12
    let n := bits h.toNat 11 0
    let no : Eff := .done s (.scalar 0xFFFFFFFFFFFFFFFF) 0
    match cfind (s.cluster cl).knits n with
    | none => no
    | some k =>
      if cl != clusterOf t.core || !k.used || k.gen.toNat != bits h.toNat 63 32 || k.part != l.part || k.secure != l.secure
          || 32 ≤ k.members.length then no
      else if t.knit = n && t.knitCluster = cl then .done s (.scalar (BitVec.ofNat 64 t.knitMember)) 0
      else if s.remoteLogged i tid then .wait s .logDrain
      else
        let j := ((List.range 32).find? (fun j => (cfind k.members j).isNone)).getD 0
        let s1 := (s.releaseBy st .cluster).leaveKnit tid
        let s2 := s1.onCluster cl (fun c => match cfind c.knits n with
          | some k => { c with knits := cput c.knits n { k with members := cput k.members j tid } }
          | none => c)
        let s3 := s2.onTeam tid (fun t => { t with knit := n, knitMember := j, knitCluster := cl })
        .done (s3.acquireBy st .cluster) (.scalar (BitVec.ofNat 64 j)) 0

/-- R222: KLEAVE. -/
def State.performKleave (s : State) (i : Nat) : Eff :=
  match s.strandAt i with
  | none => .stop s
  | some st =>
    let l := s.launchOf st
    if (s.knitOf st.team).members.length ≤ 1 then .done s .none 0
    else if s.remoteLogged i st.team then .wait s .logDrain
    else
      let s1 := (s.releaseBy st .cluster).leaveKnit st.team
      .done (s1.takeKnit (clusterOf (s.coreOf st)) l.part l.secure [st.team]).2 .none 0

/-- R220: KINFO. -/
def State.kinfo (s : State) (tid sel : Nat) : DWord :=
  let t := s.team tid
  let k := s.knitOf tid
  match sel with
  | 0 => knitHandle k.gen t.knitCluster t.knit
  | 1 => BitVec.ofNat 64 t.knitMember
  | 2 => BitVec.ofNat 64 (k.members.foldl (fun acc e => acc + 2 ^ e.1) 0)
  | _ => BitVec.ofNat 64 k.members.length

/-! ### Circular buffers (R150) -/

/-- R150: CBWAIT. -/
def State.performCbwait (s : State) (i n : Nat) : Eff :=
  match s.strandAt i with
  | none => .stop s
  | some st =>
    let b := s.cbuf st.team n
    if b.latched && (if b.inbound then b.filled != 0 else b.free != 0) then
      .done (s.acquireBy st .team) (.scalar (BitVec.ofNat 64 (b.base + b.sidx * b.slotBytes))) 0
    else .wait s .cb
/-- R150: CBPOP (inbound) and CBPUSH (outbound). -/
def State.performCbmove (s : State) (i n : Nat) (inbound : Bool) : Eff :=
  match s.strandAt i with
  | none => .stop s
  | some st =>
    let b := s.cbuf st.team n
    if !b.latched || b.inbound != inbound || (if inbound then b.filled else b.free) = 0 then .stop (s.trapReq i 0x01 0 0)
    else
      let b1 := if inbound then { b with filled := b.filled - 1, free := b.free + 1, sidx := (b.sidx + 1) % b.slots }
        else { b with free := b.free - 1, filled := b.filled + 1, sidx := (b.sidx + 1) % b.slots }
      .done ((s.releaseBy st .team).onCbuf st.team n (fun _ => b1)) .none 0

/-! ### Gang queues (R256) -/

/-- Queue `n` of a strand's gang. -/
def State.gangQueue (s : State) (st : Strand) (n : Nat) : GangQueue := (cfind (s.gangOf st).queues n).getD { elems := [], pushers := [], poppers := [] }
/-- Queue `n` of a strand's gang replaced. -/
def State.putGangQueue (s : State) (st : Strand) (n : Nat) (q : GangQueue) : State :=
  s.onGang (s.team st.team).gang (fun g => { g with queues := cput g.queues n q })
/-- A waiter's place in a list of arrivals. -/
def enrol (l : List Nat) (i : Nat) : List Nat := if l.contains i then l else l ++ [i]

/-- R256: whether a QPUSH may proceed. -/
def State.pushReady (s : State) (i : Nat) (st : Strand) (n k : Nat) : Bool :=
  let q := s.gangQueue st n
  decide (q.elems.length + k ≤ 64) && (q.pushers.isEmpty || q.pushers.head? == some i)
/-- R256: whether a QPOP may proceed. -/
def State.popReady (s : State) (i : Nat) (st : Strand) (n k : Nat) : Bool :=
  let q := s.gangQueue st n
  decide (k ≤ q.elems.length) && (q.poppers.isEmpty || q.poppers.head? == some i)

/-- R256: QPUSH. -/
def State.performQpush (s : State) (i n : Nat) (data : List Word) (act : Word) : Eff :=
  match s.strandAt i with
  | none => .stop s
  | some st =>
    let lanes := lanesOf act
    let q := s.gangQueue st n
    if lanes.isEmpty then .done s .none 0
    else if !(s.pushReady i st n lanes.length) then .wait (s.putGangQueue st n { q with pushers := enrol q.pushers i }) .qpush
    else
      let s1 := s.releaseBy st .cluster
      let q1 := { q with elems := q.elems ++ lanes.map (fun j => { word := data.getD j 0, poison := false }), pushers := q.pushers.filter (· != i) }
      let die := dieOf (s.coreOf st)
      .done ((s1.putGangQueue st n q1).onLaunch (s.team st.team).launch (fun l => { l with sent := cset 0 l.sent die (cget 0 l.sent die + lanes.length) }))
        .none 0
/-- R256, R257: QPOP; in a terminated range it ends the strand as EXIT does. -/
def State.performQpop (s : State) (i n : Nat) (act : Word) : Eff :=
  match s.strandAt i with
  | none => .stop s
  | some st =>
    let lanes := lanesOf act
    let q := s.gangQueue st n
    let die := dieOf (s.coreOf st)
    if (s.launchOf st).terminated.contains die then .stop (((s.releaseBy st .pkg).endStrand i .exited).reap st.team)
    else if lanes.isEmpty then .done s (.vector []) 0
    else if !(s.popReady i st n lanes.length) then .wait (s.putGangQueue st n { q with poppers := enrol q.poppers i }) .qpop
    else
      let got := q.elems.take lanes.length
      let s1 := (s.putGangQueue st n { q with elems := q.elems.drop lanes.length, poppers := q.poppers.filter (· != i) }).noteSync st
      if got.any (·.poison) then .stop (s1.fatal i 0x12 st.reqPc 0)
      else
        let vals := (List.range 32).map (fun j => match lanes.findIdx? (· == j) with
          | some p => ((got[p]?).map (·.word)).getD 0
          | none => 0)
        .done ((s1.acquireBy st .cluster).onLaunch (s.team st.team).launch (fun l =>
          { l with received := cset 0 l.received die (cget 0 l.received die + lanes.length) })) (.vector vals) 0

/-! ### LAUNCH and SIGNAL (R254, R255) -/

/-- The tasks a launch has submitted by LAUNCH that have not retired. -/
def State.children (s : State) (lid : Nat) : Nat := (s.tasks.filter (fun e => e.2.parent == some lid)).length
/-- R254: a packet submitted. One that has waited for room has had its checks (`checked`); what a peer is home to of its successor record is asked for
first (R325). -/
def State.performSubmit (s : State) (i : Nat) (p : BitVec 512) (checked : Bool) : Eff :=
  match s.strandAt i with
  | none => .stop s
  | some st =>
    let lid := (s.team st.team).launch
    let l := s.launchOf st
    if s.hub.tearing.contains (l.part, l.asid) then
      let s1 := s.onQueue l.queue (fun q => { q with consumed := q.consumed + 1 })
      let t0 : Task := { Task.expect with packet := p, queue := l.queue, desc := s.queue l.queue, seqNo := (s.queue l.queue).consumed, since := s.time }
      let t := t0.refuse .discarded 0
      .done { s1 with tasks := cput s1.tasks s1.hub.nextTask t, hub := { s1.hub with nextTask := s1.hub.nextTask + 1 } } (.scalar 3) 0
    else if !checked && (!(bitAt p.toNat 0) || bitAt p.toNat 1 || !([1, 4, 5].contains (pktType p)) || !(pktOk p)) then .done s (.scalar 1) 0
    else if !checked && s.taskBreaks l.queue p then .done s (.scalar 2) 0
    else if 256 ≤ s.children lid then .wait s .launch
    else
      let user := 3 * i + 2
      let s := if checked then s else s.hubDone user
      match s.packetAsks user l.queue p with
      | some a => .wait (s.hubAsk user l.asid l.secure a) .launch
      | none => .done (s.enterTask user l.queue p (some lid)) (.scalar 0) 0
/-- R254: the packet as a strand reads it. -/
def State.readPacket (s : State) (i : Nat) (addr : DWord) (k : State → BitVec 512 → Eff) : Eff :=
  s.performLoad i ((List.range 32).map (fun j => addr + BitVec.ofNat 64 (4 * j))) 0xFFFF 4 2 (fun t f =>
    k t (BitVec.ofNat 512 ((List.range 16).foldl (fun acc j => acc + f j * 2 ^ (32 * j)) 0)))
/-- R254: LAUNCH outside a rope. -/
def State.performLaunch (s : State) (i : Nat) (addr : DWord) : Eff :=
  match s.strandAt i with
  | none => .stop s
  | some st => match st.copied with
    | some (.packet p) => s.performSubmit i p true
    | _ => (s.releaseBy st .pkg).readPacket i addr (fun t p => match t.performSubmit i p false with
      | .wait u w => .wait (u.onStrandAt i (fun x => { x with copied := some (.packet p) })) w
      | e => e)
/-- R255: SIGNAL. -/
def State.performSignal (s : State) (i : Nat) (addr value : DWord) : Eff :=
  match s.strandAt i with
  | none => .stop s
  | some st =>
    let a := s.agentOf st
    match s.storeFailure a [addr] lane0 with
    | some e => failReq s i e
    | none =>
      let s1 := s.releaseBy st .pkg
      match s1.translate a.asid a.secure false true addr.toNat (s.tlbHas a addr.toNat) with
      | .ok pa _ _ =>
        let w := pa / 4
        let s2 := (s1.flushWord a.core w).flushWord a.core (w + 1)
        let s3 := ((s2.signalAt (s.launchDesc (s.launchOf st)) pa value).forgetWord a.core w).forgetWord a.core (w + 1)
        .done ((s3.refreshL2 (clusterOf a.core) w).refreshL2 (clusterOf a.core) (w + 1)) .none 0
      | .peer h _ _ =>
        let k := addr.toNat / 4 % 32
        let r : PeerReq := { src := 0, tag := 0, asid := a.asid, secure := a.secure, op := .signal, scope := .hop3, line := addr.toNat / 128
                             mask := BitVec.ofNat 128 (255 * 2 ^ (4 * k)), words := [value.setWidth 32, (value >>> 32).setWidth 32]
                             expected := [], places := [k, k + 1], poison := 0 }
        .done ((s1.yieldPeer a (addr.toNat / 128) [k, k + 1]).sendWrite a.core
          { peerPost (some a.core) a.launch r h addr with report := some a.event }) .none 0
      | .fail c => failReq s1 i (.fatal c addr)

/-! ### Transfers (R137, R145) -/

/-- R137: the descriptor at a checked scratchpad address. -/
def State.readXdesc (s : State) (st : Strand) (addr : DWord) : XDesc :=
  xdescOf (s.spSeen st addr.toNat 64 ((List.range 64).map (fun k => BitVec.ofNat 8 (s.spRead st.team (addr + BitVec.ofNat 64 k) 1))))
/-- R137: XFER. -/
def State.performXfer (s : State) (i : Nat) (addr : DWord) : Eff :=
  match s.strandAt i with
  | none => .stop s
  | some st =>
    let held : Option XDesc := match st.copied with | some (.xdesc d) => some d | _ => none
    match (if held.isSome then none else s.spFailure st.team [addr] lane0) with
    | some e => failReq s i e
    | none =>
      if held.isNone && s.spPoisoned st.team addr 64 then failReq s i (.fatal 0x12 addr) else
      let d := held.getD (s.readXdesc st addr)
      match s.xferCheck st.team (s.level st != 0) held.isSome d with
      | .bad => .stop (s.trapReq i 0x01 0 addr)
      | .ropeUse => .stop (s.trapReq i 0x0D 0 0)
      | .full => .wait (s.onStrandAt i (fun x => { x with copied := some (.xdesc d) })) .xfer
      | .ok =>
        let r := (s.releaseBy st .pkg).xferEnter st.team st.idx st.reqPc d
        .done r.2 (.scalar (BitVec.ofNat 64 r.1)) 0
/-- R144, R145: the status of a transfer by id. -/
def State.xstatus (s : State) (tid : Nat) (id : DWord) : DWord := match s.xferOf tid id.toNat with
  | some x => x.status
  | none => 7
/-- R145: XWAIT. -/
def State.performXwait (s : State) (i : Nat) (id : DWord) : Eff :=
  match s.strandAt i with
  | none => .stop s
  | some st => match s.xferOf st.team id.toNat with
    | some x => if x.live then .wait s .xwait
        else .done ((s.acquireBy st .team).onTeam st.team (fun t => { t with xfers := t.xfers.filter (fun y => y.id != x.id) })) (.scalar x.status) 0
    | none => .done (s.acquireBy st .team) (.scalar 7) 0

/-! ### Tiles (R168, R169, R179, R181) -/

/-- A descriptor that fails a check ends a request. -/
def badDesc (s : State) (i : Nat) : DescBad → Eff
  | .trap c a => .stop (s.trapReq i c 0 a)
  | .fatal a => failReq s i (.fatal 0x11 a)

/-- R161: a node appended by a request. -/
def appendReq (s : State) (i : Nat) (n : Node) (tags : List (Nat × Tag)) : Eff := afterWork i (s.append i n tags) (fun t => .done t .none 0)

/-- The node of a request. -/
def Strand.reqNode (st : Strand) (opcode : Nat) (op : NodeOp) (dst : Nat) (ranges : List Range) : Node :=
  { st.newNode opcode op dst 0xF ranges with appc := st.reqPc, mode := st.reqMode }

/-- R167: the descriptor of a TLD, checked, with its ranges. -/
def State.tldDesc (s : State) (st : Strand) (x : DWord) : Except DescBad (TileDesc × List Range) :=
  s.descWith st true x (fun d => descRanges d 32 1 d.kbytes (2 * scalesPerRow d.tag))
/-- R168: TLD. -/
def State.performTld (s : State) (i t : Nat) (addr : DWord) : Eff :=
  match s.strandAt i with
  | none => .stop s
  | some st => match s.tldDesc st addr with
    | .error e => badDesc s i e
    | .ok (d, rs) => appendReq s i (st.reqNode 0xC0 (.tld d) t rs) [(t, d.tag)]

/-- R169: the words and scales a TST stores, in order: address, size, signature lane, data. -/
def tstItems (t : Tile) (d : TileDesc) : List (DWord × Nat × Nat × DWord) :=
  let B := scalesPerRow t.tag
  (List.range 32).flatMap (fun r => (List.range (d.kbytes / 4)).map (fun w =>
    (d.base + BitVec.ofNat 64 (r * d.pitch + 4 * w), 4, w % 32, (t.word r w).setWidth 64)))
  ++ (if d.sbase != 0 && B != 0 then (List.range 32).flatMap (fun r => (List.range B).map (fun b =>
    (d.sbase + BitVec.ofNat 64 (r * d.spitch + 2 * b), 2, b % 32, (t.scale (r * B + b)).setWidth 64))) else [])

/-- The failure of a TST's stores, in order. -/
def State.tstFailure (s : State) (st : Strand) (d : TileDesc) (items : List (DWord × Nat × Nat × DWord)) : Option AccFail :=
  match d.space with
  | 0 => items.findSome? (fun x => s.storeFailure (s.agentOf st) [x.1] lane0)
  | 1 => items.findSome? (fun x => s.spFailure st.team [x.1] lane0)
  | _ => none
/-- R163: the parts of a TST's stores. -/
def tstParts (d : TileDesc) (items : List (DWord × Nat × Nat × DWord)) : List (Nat × Nat × Nat) :=
  items.map (fun x => (if d.space = 1 then spSpace x.1 else d.space, x.1.toNat, x.1.toNat + x.2.1 - 1))
/-- R169: a TST's items stored. -/
def State.tstStore (s : State) (st : Strand) (d : TileDesc) (items : List (DWord × Nat × Nat × DWord)) : State :=
  match d.space with
  | 0 => s.storeItems (s.agentOf st) (items.map (fun x => (x.1.toNat, leBytes x.2.1 x.2.2.2.toNat)))
  | 1 => s.spStore st.team (items.map (fun x => (x.1, leBytes x.2.1 x.2.2.2.toNat)))
  | _ => s.onGang (s.team st.team).gang (fun g => { g with segs := (List.range g.segs.length).map (fun j =>
      let p := g.segs.getD j Planes.empty
      let ws := items.flatMap (fun x => if x.1.toNat / 262144 == j then (List.range x.2.1).map (fun k =>
        (x.1.toNat % 262144 + k, BitVec.ofNat 8 (x.2.2.2.toNat / 256 ^ k))) else [])
      if ws.isEmpty then p else p.withWork (p.work.store ws [])) })

/-- R136: whether the first `kb` bytes of any row of a tile hold a poisoned sector. -/
def Tile.poisonedPart (t : Tile) (kb : Nat) : Bool :=
  (List.range 32).any (fun r => (List.range (kb / 32)).any (fun k => member t.poison (16 * r + k)))
/-- R169: a TST up to its stores: the demand, the checks and the forcing; then `k` with the tile, the descriptor and the
items. DESIGN CHOICE (log 118): poison in the bytes of a row that it stores is consumed, poison in the sectors of its scales is not looked at. -/
def State.prepareTst (s : State) (i t : Nat) (addr : DWord) (k : State → TileDesc → List (DWord × Nat × Nat × DWord) → Eff) : Eff :=
  match s.strandAt i with
  | none => .stop s
  | some st => match s.tstDesc st t addr with
    | .error e => badDesc s i e
    | .ok (d, _) => afterWork i (s.demand i t [0, 1, 2, 3]) (fun s1 => match s1.strandAt i with
      | none => .stop s1
      | some st1 =>
        if (st1.getT t).poisonedPart d.kbytes then failReq s1 i (.fatal 0x12 0) else
        let items := tstItems (st1.getT t) d
        afterWork i (s1.forceForStore i (tstParts d items)) (fun s2 => match s2.strandAt i with
          | none => .stop s2
          | some st2 => match s2.tstFailure st2 d items with
            | some e => failReq s2 i e
            | none => k s2 d items))

/-- R169: TST outside a rope. -/
def State.performTst (s : State) (i t : Nat) (addr : DWord) : Eff :=
  s.prepareTst i t addr (fun s1 d items => match s1.strandAt i with
    | none => .stop s1
    | some st => .done (s1.tstStore st d items) .none 0)

/-- R179: TWAIT. -/
def State.performTwait (s : State) (i : Nat) (n : DWord) : Eff :=
  match s.strandAt i with
  | none => .stop s
  | some st =>
    if n.toNat / 2 ^ 32 != 0 then .stop (s.trapReq i 0x01 0 0) else
    let ids := (st.nodes.filter (fun x => decide ((n.setWidth 32 - x.batch).toNat < 2 ^ 31))).map (·.id)
    afterWork i (s.forceAll i ids) (fun t => .done (t.acquireBy st .team) .none 0)

/-- R181: bytes of a row that a TMMA operand reads in a step, and of its scales. -/
def tmmaLen (d : TileDesc) (kb : Nat) : Nat × Nat :=
  let nb := groupsPerStep d.tag kb
  (4 * groupWords d.tag * nb, if scalesPerRow d.tag = 0 then 0 else 2 * nb)
/-- R154: groups a tile row of a format holds. -/
def groupsPerRow (t : Tag) : Nat := groupsPerStep t 512

/-- R181: TMMA, with A from a tile or from a descriptor. -/
def State.performTmma (s : State) (i c : Nat) (a : Sum Nat DWord) (baddr : DWord) : Eff :=
  match s.strandAt i with
  | none => .stop s
  | some st =>
    let ranges (rows : Nat) (d : TileDesc) : List Range := let l := tmmaLen d d.kbytes; descRanges d rows d.steps l.1 l.2
    let da : Except DescBad (Option (TileDesc × List Range)) := match a with
      | .inl _ => .ok none
      | .inr x => match s.descWith st true x (ranges 32) with | .ok r => .ok (some r) | .error e => .error e
    match da, s.descWith st true baddr (ranges 128) with
    | .error e, _ => badDesc s i e
    | _, .error e => badDesc s i e
    | .ok ad, .ok (b, rb) =>
      let ctag := (st.getT c).tag
      let atag := match a, ad with
        | .inl t, _ => (st.getT t).tag
        | _, some (d, _) => d.tag
        | _, none => .raw
      if ctag != .f32 then .stop (s.trapReq i 0x03 (Bad.detail { field := 3, tag := ctag }) 0)
      else if !(pairOk atag b.tag) then .stop (s.trapReq i 0x03 (Bad.detail { field := 1, tag := atag }) 0)
      else if b.space = 1 || b.steps = 0 then .stop (s.trapReq i 0x01 0 baddr)
      else
        let n (op : AOperand) (rs : List Range) : Eff := appendReq s i (st.reqNode 0xC3 (.tmma op b) c rs) []
        match a, ad with
        | .inr x, some (d, ra) =>
          if d.steps != b.steps || d.kbytes != b.kbytes then .stop (s.trapReq i 0x01 0 x) else n (.desc d) (ra ++ rb)
        | .inl t, _ =>
          if groupsPerRow atag < b.steps * groupsPerStep b.tag b.kbytes then .stop (s.trapReq i 0x01 0 baddr)
          else if t = c then .stop (s.trapReq i 0x01 0 0)
          else n (.tile t atag) rb
        | _, none => .stop s

/-! ### EXIT (R79) -/

/-- R79 steps 2 to 4: a strand ends. -/
def State.performExit (s : State) (i : Nat) : Eff :=
  match s.strandAt i with
  | none => .stop s
  | some st => .stop (((s.releaseBy st .pkg).endStrand i .exited).reap st.team)

/-! ### Source-range forcing (R163) and the whole request -/

/-- R163: the bytes a request stores, as parts of a space. -/
def MemReq.parts : MemReq → List (Nat × Nat × Nat)
  | .store size addr _ | .strel size _ addr _ => [(0, addr.toNat, addr.toNat + size - 1)]
  | .vstore size addrs _ act => laneParts (fun _ => 0) addrs act size
  | .spstore size addrs _ act => laneParts spSpace addrs act size
  | .spatomic _ _ _ addrs _ _ act => laneParts spSpace addrs act 4
  | .atomic _ _ _ addrs _ _ act => laneParts (fun _ => 0) addrs act 4
  | .signal addr _ => [(0, addr.toNat, addr.toNat + 7)]
  | _ => []

/-- R118: the lines a prefetch fills, where they translate. DESIGN CHOICE (log 117): the request for a line that is homed on a peer is dropped. -/
def State.prefetch (s : State) (i : Nat) (addr : DWord) (reuse : Nat) : State :=
  match s.strandAt i with
  | none => s
  | some st =>
    let a := s.agentOf st
    [addr.toNat, (addr + 127).toNat].foldl (fun (t : State) va => match t.check a true false va with
      | .ok pa r w => if (t.l1Hit a va 4).isSome then t else t.fill a va pa r w reuse true
      | _ => t) s

/-- R213, R241: the scope at which a request releases before its own effect, if it releases. -/
def State.releaseScope (s : State) (st : Strand) : MemReq → Option Scope
  | .fence _ .acq => none
  | .fence scope _ | .strel _ scope _ _ => some scope
  | .arrive lv _ => some (s.barScope st lv)
  | .meet _ lv n => if (cfind st.arrivals (256 + barKey lv n)).isSome then none else some (s.barScope st lv)
  | .kjoin _ _ | .kleave | .qpush _ _ _ => some .cluster
  | .launch _ _ | .submit _ _ _ => if st.copied.isSome then none else some .pkg
  | .signal _ _ | .xfer _ _ | .exit => some .pkg
  | .qpop _ _ _ => if (s.launchOf st).terminated.contains (dieOf (s.coreOf st)) then some .pkg else none
  | _ => none
/-- The effect of a request performed by strand `i`, after its forcing and what its release waits for. -/
def State.performNow (s : State) (i : Nat) : MemReq → Eff
  | .load _ size addr reuse => s.performLoad i [addr] lane0 size reuse (fun t f => .done t (.scalar (BitVec.ofNat 64 (f 0))) 0)
  | .store size addr data => s.performStore i [addr] [data] lane0 size
  | .vload _ _ size addrs act reuse => s.performLoad i addrs act size reuse (fun t f => .done t (laneRes f) 0)
  | .vstore size addrs data act => s.performStore i addrs (data.map (fun w => w.setWidth 64)) act size
  | .pref addr reuse => .done (s.prefetch i addr reuse) .none 0
  | .spload _ _ size addrs act => s.performSpLoad i addrs act size
  | .spstore size addrs data act => s.performSpStore i addrs data act size
  | .spatomic op _ tag addrs xs es act => s.performSpAtomic i op tag addrs xs es act
  | .atomic op d tag addrs xs es act => match d with
    | some _ => s.performAtomic i op tag addrs xs es act
    | none => s.performRed i op tag addrs xs act
  | .fence scope kind => s.performFence i scope kind
  | .ldacq _ size scope addr => s.performLdacq i size scope addr
  | .strel size scope addr data => s.performStrel i size scope addr data
  | .arrive lv n => s.performBar i true false lv n
  | .await _ lv n => s.performBar i false true lv n
  | .meet _ lv n => s.performBar i true true lv n
  | .kjoin _ h => s.performKjoin i h
  | .kleave => s.performKleave i
  | .cbwait _ n => s.performCbwait i n
  | .cbpop n => s.performCbmove i n true
  | .cbpush n => s.performCbmove i n false
  | .cbinfo _ n => match s.strandAt i with
    | some st => .done s (.scalar (s.cbuf st.team n).word) 0
    | none => .stop s
  | .qpush n data act => s.performQpush i n data act
  | .qpop _ n act => s.performQpop i n act
  | .launch _ addr => s.performLaunch i addr
  | .submit _ _ p => match s.strandAt i with
    | none => .stop s
    | some st => match s.performSubmit i p st.copied.isSome with
      | .wait u w => .wait (u.onStrandAt i (fun x => { x with copied := some (.packet p) })) w
      | e => e
  | .signal addr value => s.performSignal i addr value
  | .xfer _ addr => s.performXfer i addr
  | .xwait _ id => s.performXwait i id
  | .xstat _ id => match s.strandAt i with
    | some st => .done s (.scalar (s.xstatus st.team id)) 0
    | none => .stop s
  | .tld t addr => s.performTld i t addr
  | .tst t addr => s.performTst i t addr
  | .tmmaTile c a b => s.performTmma i c (.inl a) b
  | .tmmaDesc c a b => s.performTmma i c (.inr a) b
  | .twait n => s.performTwait i n
  | .ckpt => .done s .none 0
  | .exit => s.performExit i

/-- R213 step 4: what follows a release of strand `st`, once what its core has written at peers is acknowledged. -/
def State.afterAcks (s : State) (st : Strand) (sc : Option Scope) (k : Eff) : Eff :=
  match sc with
  | none => k
  | some sc => if levelOf sc = 1 || s.peersAcked (s.viewCore st) then k else .wait (s.sendDirtyPeers (s.viewCore st) sc) .peer
/-- R213: a request performed by strand `i`; one that releases waits until what its core has written at peers is acknowledged. -/
def State.perform (s : State) (i : Nat) (req : MemReq) : Eff :=
  match s.strandAt i with
  | none => .stop s
  | some st => s.afterAcks st (s.releaseScope st req) (s.performNow i req)

end Sys2Proof.Machine
end

