-- ==== Sys2Proof/Machine/Issue.lean ====
section
/-!
DEFINITION. Issuing a memory instruction: the operand log (R68), completion, and what a rope makes of it (R267–R290): the
compare buffer, presented releases, values handed to the seconds, and the comparison.
-/
namespace Sys2Proof.Machine

/-! ### Completion -/

/-- R61, R64: the result of a request written to its destination. -/
def applyRes (st : Strand) (req : MemReq) (r : Res) : Strand :=
  let vec (d : Nat) (tag : Tag) (act : Word) (l : List Word) : Strand := st.setV d (VReg.merge (st.getV d) tag act (fun i => l.getD i 0))
  match req, r with
  | .load d _ _ _, .scalar v | .ldacq d _ _ _, .scalar v | .await d _ _, .scalar v | .meet d _ _, .scalar v | .kjoin d _, .scalar v
  | .cbwait d _, .scalar v | .cbinfo d _, .scalar v | .launch d _, .scalar v | .submit d _ _, .scalar v | .xfer d _, .scalar v
  | .xwait d _, .scalar v | .xstat d _, .scalar v => st.setS d v
  | .vload d tag _ _ act _, .vector l => vec d tag act l
  | .spload d tag _ _ act, .vector l => vec d tag act l
  | .spatomic _ d tag _ _ _ act, .vector l => vec d tag act l
  | .atomic _ (some d) tag _ _ _ act, .vector l => vec d tag act l
  | .qpop d _ act, .vector l => vec d .raw act l
  | _, _ => st

/-- R66, R68: a performed request of strand `i` retires: its result is written; it completes at the strand's pc, or leaves
the head of the operand log, where an enabled flag traps with the entry's pc (log 16). -/
def State.retire (s : State) (i : Nat) (req : MemReq) (r : Res) (fl : IFlags) : State :=
  match s.strandAt i with
  | none => s
  | some st0 =>
    let st : Strand := { applyRes st0 req r with peerLines := [], peerDone := [], copied := none, tstDone := 0 }
    match st.log with
    | [] => s.complete i st fl
    | e :: _ =>
      let st1 := { st.popLog with flags := st.flags ||| fl, wait := if st.wait == .crit then Wait.crit else Wait.none }
      let en := fl &&& (s.headerOf st).trapen
      let s1 := s.putStrandAt i st1
      if en = 0 then s1
      else s1.takeTrap i { cause := 0x05, detail := en.toNat, pc := e.pc, epc := e.pc + 4, addr := 0, info := 0 }

/-- A wait of strand `i`: its presented instruction waits; a log entry only stays. -/
def State.waitFor (s : State) (i : Nat) (w : Wait) : State :=
  s.onStrandAt i (fun st => if st.log.isEmpty then { st with wait := w } else st)

/-- What performing a request leads to. -/
def settle (i : Nat) (req : MemReq) : Eff → State
  | .done t r fl => t.retire i req r fl
  | .wait t w => t.waitFor i w
  | .stop t => t

/-- Work, then the rest; a fault in it stops the request. -/
def withWork (i : Nat) (req : MemReq) (w : Work) (f : State → State) : State :=
  match w with
  | .ok t => f t
  | .busy t => settle i req (.wait t .pass)
  | .fault t e => settle i req (failWork t i e)

/-- A request performed outside a rope, or by a replica for itself. -/
def State.soloReq (s : State) (i : Nat) (req : MemReq) : State :=
  withWork i req (s.forceForStore i req.parts) (fun t => settle i req (t.perform i req))

/-! ### Signatures of requests (R268) -/

/-- R268: x of an atomic as signed: expected and new for CAS. -/
def casData (xs es : List Word) : List DWord :=
  (List.range 32).map (fun j => (es.getD j 0).setWidth 64 <<< 32 ||| (xs.getD j 0).setWidth 64)
/-- Words as 8-byte data. -/
def wide (l : List Word) : List DWord := l.map (fun w => w.setWidth 64)
/-- R268: the entries of a request added to a signature; `sel` selects the lanes of a scratchpad access that are signed. -/
def MemReq.sign (c : DWord) (sel : Word) : MemReq → DWord
  | .store size addr data | .strel size _ addr data => sigEntry c addr size 0 data
  | .vstore size addrs data act => sigLanes c addrs (wide data) act size
  | .spstore size addrs data act => sigLanes c addrs (wide data) (act &&& sel) size
  | .atomic op _ _ addrs xs es act => if op == .cas then sigLanes c addrs (casData xs es) act 8 else sigLanes c addrs (wide xs) act 4
  | .spatomic op _ _ addrs xs es act =>
    if op == .cas then sigLanes c addrs (casData xs es) (act &&& sel) 8 else sigLanes c addrs (wide xs) (act &&& sel) 4
  | .signal addr v => sigEntry c addr 8 0 v
  | .qpush n data act => sigLanes c (List.replicate 32 (0xFFFFFFFFFFFFFF00 + BitVec.ofNat 64 n)) (wide data) act 4
  | .submit _ addr p => (List.range 8).foldl (fun c j => sigEntry c (addr + BitVec.ofNat 64 (8 * j)) 8 j (BitVec.ofNat 64 (bits p.toNat (64 * j + 63) (64 * j)))) c
  | _ => c

/-- Lanes of a scratchpad access that name a remote window (R119). -/
def remoteLanes (addrs : List DWord) : Word := maskOf (fun j => (addrs.getD j 0).getLsbD 22)
/-- R268: the scratchpad lanes that are signed: all under SHADOW, the remote ones otherwise. -/
def State.signedLanes (s : State) (st : Strand) (req : MemReq) : Word :=
  if s.level st = 1 then 0xFFFFFFFF else match req with
    | .spstore _ addrs _ _ | .spatomic _ _ _ addrs _ _ _ => remoteLanes addrs
    | _ => 0

/-! ### The compare buffer (R271, R272) -/

/-- The leader of a strand. -/
def State.leaderOf (s : State) (st : Strand) : Option (Nat × Strand) :=
  (s.ropeStrands st).find? (fun e => e.2.idx == st.idx && e.2.replica == 0)
/-- R271: the share of the compare buffer of a leader strand, among those whose context works on the core. -/
def State.share (s : State) (st : Strand) : Nat :=
  let core := s.coreOf st
  let n := (s.strands.filter (fun e => e.2.replica == 0 && e.2.run == .running && s.coreOf e.2 == core && s.level e.2 != 0
    && s.onPlane (s.launchOf e.2))).length
  let up := ((List.range 7).find? (fun k => decide (n ≤ 2 ^ k))).getD 6
  max 2 (64 / 2 ^ up)

/-- Whether a store may enter the buffer, must first make the implicit release, or waits for the leader to pass it. -/
inductive Room where
  | enter
  | implicit
  | wait
  deriving DecidableEq, Repr
/-- R271: the leader decides by its share; a second makes the implicit release where its leader did (log 17). -/
def State.room (s : State) (st : Strand) : Room :=
  if st.replica = 0 then (if s.share st ≤ st.buffer.length then .implicit else .enter)
  else match s.leaderOf st with
    | none => .enter
    | some (_, l) =>
      if st.buffer.length < l.buffer.length then .enter
      else match l.presented with
        | some (.implicit _ _) => .implicit
        | some _ => .enter
        | none => .wait

/-- R289: an armed injection alters the signature presented, once. -/
def State.inject (s : State) (st : Strand) (seq : Nat) (sg : DWord) : DWord × State :=
  let lead := (s.ropeOf st).teams.headD st.team
  let v := (s.team lead).ropeinj.toNat
  if bitAt v 45 && bits v 47 46 = st.replica && bits v 35 32 = st.idx && bits v 31 0 = seq % 2 ^ 32 then
    (sg ^^^ BitVec.ofNat 64 (bits v 63 48), s.onTeam lead (fun t => { t with ropeinj := t.ropeinj &&& ~~~ (0x200000000000 : DWord) }))
  else (sg, s)

/-- R272: strand `i` presents a release and waits. -/
def State.presentReq (s : State) (i : Nat) (st : Strand) (req : MemReq) : State :=
  let r := s.inject st (st.ropeseq + 1) (req.sign st.sig (s.signedLanes st req))
  r.2.putStrandAt i { st with presented := some (.release (st.ropeseq + 1) r.1 req), wait := .release }
/-- R271: strand `i` presents the implicit release. -/
def State.presentImplicit (s : State) (i : Nat) (st : Strand) : State :=
  let r := s.inject st (st.ropeseq + 1) st.sig
  r.2.putStrandAt i { st with presented := some (.implicit (st.ropeseq + 1) r.1), wait := .release }

/-- R271, R272: strand `i` stores something that takes a buffer entry, after the implicit release where its share is full; a second waits until
its leader has decided. -/
def State.withRoom (s : State) (i : Nat) (st : Strand) (k : State) : State :=
  match s.room st with
  | .implicit => s.presentImplicit i st
  | .wait => s.waitFor i .value
  | .enter => k
/-- R271: whether a release carries a store, which takes an entry of the compare buffer. -/
def MemReq.entry : MemReq → Bool
  | .strel _ _ _ _ | .signal _ _ | .submit _ _ _ => true
  | .atomic _ _ _ _ _ _ act | .qpush _ _ act => act != 0
  | .spatomic _ _ _ addrs _ _ act => act &&& remoteLanes addrs != 0
  | _ => false
/-- R271, R272: a release presented; one whose own store would pass the share makes the implicit release first. -/
def State.presentEntry (s : State) (i : Nat) (st : Strand) (req : MemReq) : State :=
  if req.entry then s.withRoom i st (s.presentReq i st req) else s.presentReq i st req

/-- R210, R223: the failure of a request's accesses, found before it is buffered or presented. -/
def State.ropeFailure (s : State) (st : Strand) (req : MemReq) : Option AccFail :=
  let a := s.agentOf st
  match req with
  | .store _ addr _ | .strel _ _ addr _ | .signal addr _ => s.storeFailure a [addr] lane0
  | .vstore _ addrs _ act => s.storeFailure a addrs act
  | .atomic _ d _ addrs _ _ act =>
    (lanesOf act).findSome? (fun j => match s.checkAtomic a (addrOf addrs j) with
      | .fail c => some (.fatal c (addrs.getD j 0))
      | .ok pa _ _ => if d.isSome && s.poisoned pa then some (.fatal 0x12 (addrs.getD j 0)) else none
      | .peer _ _ _ => none)
  | .spstore _ addrs _ act => s.spFailure st.team addrs act
  | .spatomic _ _ _ addrs _ _ act => match s.spFailure st.team addrs act with
    | some e => some e
    | none => (lanesOf act).findSome? (fun j => if s.spPoisoned st.team (addrs.getD j 0) 4 then some (.fatal 0x12 (addrs.getD j 0)) else none)
  | .load _ size addr reuse => s.loadFailure a st [addr] lane0 size reuse
  | .vload _ _ size addrs act reuse => s.loadFailure a st addrs act size reuse
  | .spload _ _ size addrs act => match s.spFailure st.team addrs act with
    | some e => some e
    | none => (lanesOf act).findSome? (fun j => if s.spPoisoned st.team (addrs.getD j 0) size then some (.fatal 0x12 (addrs.getD j 0)) else none)
  | .ldacq _ size _ addr => match s.check a true false addr.toNat size with
    | .fail c => some (.fatal c addr)
    | _ => none
  | _ => none

/-- R163, R290: forcing, then the failures of a request, then the rest with the strand as it stands. -/
def State.prepared (s : State) (i : Nat) (req : MemReq) (f : State → Strand → State) : State :=
  withWork i req (s.forceForStore i req.parts) (fun t => match t.strandAt i with
    | none => t
    | some st => match t.ropeFailure st req with
      | some e => settle i req (failReq t i e)
      | none => f t st)

/-- R271: one entry put into the buffer of strand `i` with the signature after it. -/
def State.enterBuffer (s : State) (i : Nat) (st : Strand) (e : BufEntry) (sg : DWord) (next : State → State) : State :=
  s.withRoom i st (next (s.putStrandAt i { st with buffer := st.buffer ++ [e], sig := sg }))

/-- R271: a memory store of a rope strand. -/
def State.bufferReq (s : State) (i : Nat) (req : MemReq) : State :=
  s.prepared i req (fun t st =>
    let items : List BufItem := match req with
      | .store size addr data => [{ addr := addr, size := size, data := data }]
      | .vstore size addrs data act => (lanesOf act).map (fun j => { addr := addrs.getD j 0, size := size, data := (data.getD j 0).setWidth 64 })
      | _ => []
    if items.isEmpty then t.retire i req .none 0
    else t.enterBuffer i st { pc := st.reqPc, remote := false, items := items } (req.sign st.sig 0) (fun u => u.retire i req .none 0))

/-- R271: scratchpad bytes that a rope strand stores at once: by the leader alone under SHADOW. What it has buffered for the same bytes, by
another form of their address, gives way (R121). -/
def State.storeNow (s : State) (i : Nat) (ws : List (DWord × List Byte)) : State :=
  match s.strandAt i with
  | none => s
  | some st =>
    let put := ws.flatMap (fun w => (List.range w.2.length).zipWith (fun k b => (s.spPlace st.team w.1.toNat + k, b)) w.2)
    (if s.level st = 1 && st.replica != 0 then s else s.spStore st.team ws).onStrandAt i (fun x =>
      { x with buffer := x.buffer.map (BufEntry.overwrite (s.spPlace st.team) put) })

/-- R268, R271: a scratchpad store of a rope strand: local lanes at once, remote lanes through the buffer, lanes in ascending order (R117). -/
def State.ropeSpStore (s : State) (i : Nat) (req : MemReq) : State :=
  s.prepared i req (fun t st => match req with
    | .spstore size addrs data act =>
      let far := act &&& remoteLanes addrs
      let bytes (j : Nat) : DWord × List Byte := (addrs.getD j 0, leBytes size (data.getD j 0).toNat)
      let near := (lanesOf act).filter (fun j => !(laneOn far j))
      let place (j : Nat) : List (Nat × Byte) := (List.range size).zipWith (fun k b => (t.spPlace st.team (addrOf addrs j) + k, b)) (bytes j).2
      let item (j : Nat) : BufItem := BufItem.overwriteAll (t.spPlace st.team) ((near.filter (j < ·)).flatMap place)
        { addr := addrs.getD j 0, size := size, data := (data.getD j 0).setWidth 64 }
      let sg := req.sign st.sig (t.signedLanes st req)
      if far = 0 then ((t.onStrandAt i (fun x => { x with sig := sg })).storeNow i (near.map bytes)).retire i req .none 0
      else t.withRoom i st (((t.storeNow i (near.map bytes)).onStrandAt i (fun x =>
        { x with buffer := x.buffer ++ [{ pc := st.reqPc, remote := true, items := (lanesOf far).map item }], sig := sg })).retire i req .none 0)
    | _ => t)

/-- R169, R271: whether an item of a TST goes through the compare buffer: to memory, or to a remote window. -/
def tstFar (space : Nat) (x : DWord) : Bool := space == 0 || (space == 1 && x.getLsbD 22)
/-- R271: a TST's items cut into pieces of at most 128 consecutive bytes. -/
def tstChunks (space : Nat) (items : List (DWord × Nat × Nat × DWord)) : List (List (DWord × Nat × Nat × DWord)) :=
  (items.foldl (fun (acc : List (List (DWord × Nat × Nat × DWord))) x =>
    match acc with
    | (y :: c) :: l =>
      if y.2.1 = x.2.1 && x.1 = y.1 + BitVec.ofNat 64 y.2.1 && decide ((c.length + 2) * x.2.1 ≤ 128) && tstFar space x.1 == tstFar space y.1
      then (x :: y :: c) :: l else [x] :: (y :: c) :: l
    | _ => [x] :: acc) []).reverse.map List.reverse
/-- R169, R268: the signature after a TST's items. -/
def tstSign (c : DWord) (items : List (DWord × Nat × Nat × DWord)) : DWord :=
  items.foldl (fun c x => sigEntry c x.1 x.2.1 x.2.2.1 x.2.2.2) c
/-- R169, R268, R271: pieces of a TST stored one after another, through the buffer or at once, then its retirement. Local scratchpad pieces are
signed under SHADOW alone. -/
def State.enterChunks (i : Nat) (req : MemReq) (space : Nat) : List (List (DWord × Nat × Nat × DWord)) → State → State
  | [], s => s.retire i req .none 0
  | c :: l, s => match s.strandAt i with
    | none => s
    | some st =>
      let next (t : State) : State := State.enterChunks i req space l (t.onStrandAt i (fun x => { x with tstDone := x.tstDone + 1 }))
      if tstFar space ((c.head?.map (·.1)).getD 0) then
        s.enterBuffer i st { pc := st.reqPc, remote := space == 1, items := c.map (fun x => { addr := x.1, size := x.2.1, data := x.2.2.2 }) } (tstSign st.sig c) next
      else
        next ((if s.level st = 1 then s.putStrandAt i { st with sig := tstSign st.sig c } else s).storeNow i
          (c.map (fun x => (x.1, leBytes x.2.1 x.2.2.2.toNat))))
/-- R169, R268, R271, R279: TST under a rope. -/
def State.ropeTst (s : State) (i t : Nat) (addr : DWord) (st0 : Strand) : State :=
  let req : MemReq := .tst t addr
  match s.descCheckTag st0 false addr with
  | .ok { space := 2, .. } => s.trapReq i 0x0D 0 0
  | _ => settle i req (s.prepareTst i t addr (fun s1 d items => match s1.strandAt i with
    | none => .stop s1
    | some st => .stop (State.enterChunks i req d.space ((tstChunks d.space items).drop st.tstDone) s1)))

/-! ### Values handed to the seconds (R273) -/

/-- R273: a result as a value of the queue. -/
def Res.value : Res → Option RopeValue
  | .scalar v => some (.scalar v)
  | .vector l => some (.vector { tag := .raw, lanes := l })
  | .none => Option.none
/-- R273: what a second does locally beside taking its leader's value. -/
def State.secondLocal (s : State) (i : Nat) (st : Strand) (req : MemReq) : State :=
  match req with
  | .ldacq _ _ scope _ => s.acquireBy st scope
  | .await _ lv n | .meet _ lv n =>
    (s.acquireBy st (s.barScope st lv)).onStrandAt i (fun x => { x with arrivals := cdel x.arrivals (256 + barKey lv n) })
  | .xwait _ id => (s.acquireBy st .team).onTeam st.team (fun t => { t with xfers := t.xfers.filter (fun y => y.id != id.toNat) })
  | _ => s
/-- R273: the first value of a strand's queue that is no boundary of TIMER, and the queue without it. -/
def takeValue : List RopeValue → Option (RopeValue × List RopeValue)
  | [] => none
  | .timer c :: l => (takeValue l).map (fun e => (e.1, .timer c :: e.2))
  | v :: l => some (v, l)
/-- R273: a request whose result the leader gives: the leader performs it and hands the value on; a second takes it,
after its own access checks and, for XWAIT, after its own transfer has ended. -/
def State.leaderReq (s : State) (i : Nat) (st : Strand) (req : MemReq) : State :=
  if st.replica = 0 then
    match s.perform i req with
    | .done t r fl => ((match r.value with | some v => t.pushValue st v | none => t)).retire i req r fl
    | e => settle i req e
  else match s.ropeFailure st req with
    | some e => settle i req (failReq s i e)
    | none =>
      let busy := match req with
        | .xwait _ id => ((s.xferOf st.team id.toNat).map Xfer.live).getD false
        | _ => false
      if busy then s.waitFor i .xwait
      else match takeValue st.values with
        | some (.scalar v, l) => ((s.putStrandAt i { st with values := l }).secondLocal i st req).retire i req (.scalar v) 0
        | some (.vector v, l) => (s.putStrandAt i { st with values := l }).retire i req (.vector v.lanes) 0
        | some (.illegal, l) => (s.putStrandAt i { st with values := l }).retire i req .none 0
        | _ => s.waitFor i .value

/-- R273, R291: a scalar that the leader reads and the seconds take, for an instruction that is no memory instruction; its place in the queue is that
in program order, so it waits for the operand log. Where the leader finds none, it traps ILLEGAL with `addr`, and so do the seconds (log 23); one that
has waited for that counts the word no more (R57). -/
def sharedRead (s : State) (st : Strand) (d : Nat) (v : Option DWord) (addr : DWord) : Out :=
  let refuse (t : State) (x : Strand) : Out := illegal (if st.wait == .none then t else t.putStrand x.unissue) st addr
  let own (t : State) : Out := match v with
    | some w => finish t (st.setS d w) 0
    | none => refuse t st
  if s.level st = 0 then own s
  else if !st.log.isEmpty then .next (s.putStrand { st with wait := .logDrain })
  else if st.replica = 0 then own (s.pushValue st (match v with | some w => .scalar w | none => .illegal))
  else match takeValue st.values with
    | some (.scalar w, l) => finish s ({ st with values := l }.setS d w) 0
    | some (.illegal, l) => refuse (s.putStrand { st with values := l }) { st with values := l }
    | _ => .next (s.putStrand { st with wait := .value })
/-- R273: a scalar that every leader finds. -/
def sharedScalar (s : State) (st : Strand) (d : Nat) (v : DWord) : Out := sharedRead s st d (some v) 0

/-! ### A request under a rope -/

/-- R270: whether a transfer's memory source overlaps bytes held in the compare buffer. -/
def overlapsBuffer (st : Strand) (d : XDesc) : Bool :=
  let r := reach (d.bounds.take d.levels) d.sstrides d.ssize
  let lo : Int := d.src.toNat + r.1
  let hi : Int := d.src.toNat + r.2
  d.skind == 0 && st.buffer.any (fun e => !e.remote && e.items.any (fun t =>
    decide ((t.addr.toNat : Int) ≤ hi) && decide (lo ≤ (t.addr.toNat : Int) + t.size - 1)))

/-- R267–R279: a request of strand `st` (key `i`) of a rope. -/
def State.ropeReq (s : State) (i : Nat) (st : Strand) (req : MemReq) : State :=
  if st.presented.isSome then s else
  let lv := s.level st
  match req with
  | .store _ _ _ | .vstore _ _ _ _ => s.bufferReq i req
  | .spstore _ _ _ _ => s.ropeSpStore i req
  | .tst t addr => s.ropeTst i t addr st
  | .kjoin _ _ | .kleave => if 2 ≤ lv then s.trapReq i 0x0D 0 0 else s.presentReq i st req
  | .load _ _ _ _ | .vload _ _ _ _ _ _ | .spload _ _ _ _ _ => if lv = 1 then s.leaderReq i st req else s.soloReq i req
  | .ldacq _ _ _ _ | .await _ _ _ | .xwait _ _ | .xstat _ _ | .cbinfo _ _ => s.leaderReq i st req
  | .meet _ l n => if (cfind st.arrivals (256 + barKey l n)).isSome then s.leaderReq i st req else s.presentReq i st req
  | .xfer _ addr =>
    if (s.spFailure st.team [addr] lane0).isSome || s.spPoisoned st.team addr 64 then s.soloReq i req else
    let d := s.readXdesc st addr
    match s.xferCheck st.team true false d with
    | .bad | .ropeUse => s.soloReq i req
    | _ => if overlapsBuffer st d then s.presentReq i st req
        else if lv = 1 then s.leaderReq i st req else s.soloReq i req
  | .launch d addr => settle i req (s.readPacket i addr (fun t p => .stop (match t.strandAt i with
      | some x => t.presentEntry i x (.submit d addr p)
      | none => t)))
  | .fence _ .acq => s.soloReq i req
  | .fence _ _ | .strel _ _ _ _ | .atomic _ _ _ _ _ _ _ | .spatomic _ _ _ _ _ _ _ | .signal _ _ | .qpush _ _ _ | .qpop _ _ _
  | .arrive _ _ | .submit _ _ _ | .ckpt | .exit => s.prepared i req (fun t x => t.presentEntry i x req)
  | _ => s.soloReq i req

/-- A request performed: outside a rope by the strand alone. -/
def State.runReq (s : State) (i : Nat) (req : MemReq) : State :=
  match s.strandAt i with
  | none => s
  | some st => if s.level st = 0 then s.soloReq i req else s.ropeReq i st req

/-! ### The operand log (R68) -/

/-- R113: the bytes of one access of a load. -/
def MemReq.width : MemReq → Nat
  | .load _ size _ _ | .ldacq _ size _ _ | .vload _ _ size _ _ _ => size
  | _ => 4
/-- R68: the virtual addresses a request translates. -/
def MemReq.addrs : MemReq → List DWord
  | .load _ _ addr _ | .store _ addr _ | .pref addr _ | .ldacq _ _ _ addr | .strel _ _ addr _ | .launch _ addr | .signal addr _ => [addr]
  | .vload _ _ _ addrs act _ | .vstore _ addrs _ act | .atomic _ _ _ addrs _ _ act => (lanesOf act).map (fun i => addrs.getD i 0)
  | _ => []
/-- R68: the virtual addresses a request translates; TST's are those its checked descriptor gives its stores in memory (first and last
byte of each row). -/
def State.reqAddrs (s : State) (st : Strand) : MemReq → List DWord
  | .tst t x => match s.tstDesc st t x with
    | .ok (d, _) => if d.space != 0 then [] else
        let sc := if d.sbase = 0 then 0 else 2 * scalesPerRow (st.getT t).tag
        (List.range 32).flatMap (fun r =>
          let row (base : DWord) (pitch len : Nat) : List DWord := [base + BitVec.ofNat 64 (r * pitch), base + BitVec.ofNat 64 (r * pitch + len - 1)]
          row d.base d.pitch d.kbytes ++ (if sc = 0 then [] else row d.sbase d.spitch sc))
    | .error _ => []
  | req => req.addrs
/-- R68: a request takes a log entry, or finds the log full. -/
def State.pushLog (s : State) (i : Nat) (st : Strand) (req : MemReq) : State :=
  if 4 ≤ st.log.length then s.putStrandAt i { st with wait := .logFull }
  else s.putStrandAt i ({ (st.setLog (st.log ++ [({ pc := st.pc, req := req, mode := st.mode } : LogEntry)])) with wait := Wait.none }).advance
/-- R68: whether a request must enter the log. -/
def State.mustLog (s : State) (st : Strand) (req : MemReq) : Bool :=
  !st.log.isEmpty || (s.reqAddrs st req).any (fun x => s.tlbMiss (s.agentOf st) x.toNat req.width)
/-- R68: a memory instruction of the current strand issues with its captured values. -/
def issueMem (s : State) (st : Strand) (req : MemReq) : Out :=
  .next (if s.mustLog st req then s.pushLog s.cur st req else s.runReq s.cur req)
/-- R68, R210: strand `i`'s oldest log entry replays after its walk. -/
def State.replayLog (s : State) (i : Nat) : State :=
  match s.strandAt i with
  | none => s
  | some st => match st.log with
    | [] => s
    | e :: _ =>
      let a := s.agentOf st
      ((s.reqAddrs st e.req).foldl (fun (t : State) x => t.walk a x.toNat) s).runReq i e.req

/-! ### The comparison (R272, R276, R281–R286) -/

/-- R271: strand `i`'s buffered stores performed in program order. -/
def State.performBuffer (s : State) (i : Nat) : State :=
  match s.strandAt i with
  | none => s
  | some st =>
    (st.buffer.foldl (fun (u : State) e =>
      if e.remote then u.spStore st.team (e.items.map (fun t => (t.addr, leBytes t.size t.data.toNat)))
      else u.storeItems { u.agentOf st with event := u.errorEvent st .ok 0 e.pc 0 } (e.items.map (fun t => (t.addr.toNat, leBytes t.size t.data.toNat)))) s).onStrandAt i (fun x => { x with buffer := [] })

/-- R272, R213: the leader's effect of a matched release. A QPUSH keeps its place in the queue while its release waits for peers; a LAUNCH that has
made its release and passed its checks waits for room (R254). -/
def State.leaderEffect (s : State) (i : Nat) (req : MemReq) : Eff :=
  match s.strandAt i with
  | none => .stop s
  | some st => match req with
    | .meet _ lv n => match s.arriveAt i st lv n with
      | none => .wait s .barrier
      | some t => s.afterAcks st (some (s.barScope st lv)) (.done t .none 0)
    | .exit => s.afterAcks st (some .pkg) (.done (s.releaseBy st .pkg) .none 0)
    | .submit _ _ _ => if st.copied.isSome then s.performNow i req else s.afterAcks st (some .pkg) ((s.releaseBy st .pkg).performNow i req)
    | .qpush n _ act =>
      if act = 0 || s.pushReady i st n (lanesOf act).length then
        match s.perform i req with
        | .wait t w => .wait (let q := t.gangQueue st n; t.putGangQueue st n { q with pushers := enrol q.pushers i }) w
        | e => e
      else s.performNow i req
    | _ => s.perform i req

/-- What a strand presents, if it is a release. -/
def Strand.presentedReq (st : Strand) : Option MemReq := match st.presented with
  | some (.release _ _ req) => some req
  | _ => none
/-- R273, R276: what a replica does itself at a matched or logged release: atomics on its own scratchpad and transfers into
its own team's table (log 18). Under SHADOW the leader does it. -/
def State.ownEffect (s : State) (k : Nat) (st : Strand) (req : MemReq) (r : Res) : State × Res :=
  if s.level st = 1 && st.replica != 0 then (s, r) else
  match req with
  | .spatomic op _ tag addrs xs es act =>
    let near := act &&& ~~~ remoteLanes addrs
    match s.performSpAtomic k op tag addrs xs es near, r with
    | .done t (.vector l) _, .vector m => (t, .vector ((List.range 32).map (fun j => if laneOn near j then l.getD j 0 else m.getD j 0)))
    | _, _ => (s, r)
  | .xfer _ addr => match s.performXfer k addr with
    | .done t q _ => (t, q)
    | _ => (s, r)
  | _ => (s, r)

/-- R272, R137: the replicas of `g` that agree on a transfer and whose own tables have no room for it, with their descriptors read: `none` where
every one has room. -/
def State.xferFull (s : State) (g : List (Nat × Strand)) : Option State :=
  g.foldl (fun (u : Option State) e => if s.level e.2 = 1 && e.2.replica != 0 then u else match e.2.presentedReq with
    | some (.xfer _ addr) => (match (u.getD s).performXfer e.1 addr with
      | .wait t _ => some t
      | _ => u)
    | _ => u) none

/-- R272: the strand after a release: signature and buffer reset; QPOP, an acquire, leaves both. -/
def Strand.released (st : Strand) (keep : Bool) : Strand :=
  { st with
    ropeseq := st.ropeseq + 1, presented := none, committed := false, wait := if st.wait == .release then Wait.none else st.wait
    sig := if keep then st.sig else 0
    buffer := if keep then st.buffer else [] }
/-- QPOP is no release of the buffer (log 18). -/
def MemReq.isPop : MemReq → Bool
  | .qpop _ _ _ => true
  | _ => false
/-- R225, R276: the flags of a logged AFADD, from what its lanes received. -/
def MemReq.logFlags (req : MemReq) (r : Res) : IFlags :=
  match req, r with
  | .atomic .fadd _ tag _ xs _ act, .vector l => (lanesOf act).foldl (fun acc j => acc ||| (atomicNew .fadd tag (l.getD j 0) (xs.getD j 0)).2) 0
  | _, _ => 0

/-- R272, R277: replica strand `k` continues after its release. -/
def State.goOn (s : State) (k : Nat) (req : MemReq) (r : Res) (fl : IFlags) : State :=
  let s1 := s.onStrandAt k (fun x => x.released req.isPop)
  match req with
  | .meet _ lv n => s1.onStrandAt k (fun x => { x with arrivals := cput x.arrivals (256 + barKey lv n) 1 })
  | .exit => s1.endStrand k .exited
  | .ckpt => match s1.strandAt k with
    | some x => s1.putStrandAt k { x with wait := .ckpt, arrivals := cput x.arrivals ckptMark 1 }
    | none => s1
  | _ => s1.retire k req r fl

/-- R277: every strand of the rope has arrived at the checkpoint gathering, exited ones counting, and no transfer runs. -/
def State.ckptReady (s : State) (st : Strand) : Bool :=
  (s.ropeStrands st).all (fun e => e.2.run != .running || e.2.wait == .ckpt)
    && (s.ropeOf st).teams.all (fun i => (s.team i).xfers.all Xfer.ended)

/-- R275: a log entry. -/
def ropeLogOf (idx seq : Nat) (sg : DWord) (r : Res) : RopeLog :=
  { strand := idx, seq := seq, sig := sg
    vec := match r with | .vector l => some { tag := .raw, lanes := l } | _ => none
    scalar := match r with | .scalar v => some v | _ => none }
/-- R275: a log entry's result. -/
def RopeLog.res (e : RopeLog) : Res :=
  match e.vec, e.scalar with
  | some v, _ => .vector v.lanes
  | _, some v => .scalar v
  | _, _ => .none
/-- R281: a newly performed release: logged, RETRY 0. -/
def State.logRelease (s : State) (st : Strand) (e : RopeLog) : State :=
  s.onRope (s.team st.team).rope (fun r => { r with log := r.log ++ [e], retry := 0 })
/-- R272: a release on which the replicas of `g` agree, not logged: performed by the leader `li`. It stays presented while
its effect must wait: a LAUNCH for room (R254), or any for peers, with its stores performed; a QPUSH or a transfer for room, or an arrival for a
phase, with nothing done. -/
def State.performRelease (s : State) (g : List (Nat × Strand)) (li : Nat) (ls : Strand) (seq : Nat) (sg : DWord) (req : MemReq) : State :=
  let ending := match req with
    | .qpop _ _ _ => (s.launchOf ls).terminated.contains (dieOf (s.coreOf ls))
    | _ => false
  let req := if ending then MemReq.exit else req
  match s.xferFull g with
  | some t => t
  | none =>
  let s1 := if req.isPop then s else s.performBuffer li
  match s1.leaderEffect li req with
  | .wait t .peer | .wait t .launch => t.onStrandAt li (fun x => { x with committed := true })
  | .wait _ _ => (match s.leaderEffect li req with | .wait t _ => t | _ => s)
  | .stop t => t
  | .done t r fl =>
    let t1 := t.logRelease ls (ropeLogOf ls.idx seq sg r)
    let t2 := g.foldl (fun (u : State) e =>
      let q := if ending then MemReq.exit else (e.2.presentedReq).getD req
      if e.1 = li then u.goOn li q r fl
      else let x := u.ownEffect e.1 e.2 q r; x.1.goOn e.1 q x.2 fl) t1
    if req == .exit then t2.reap ls.team else t2

/-- R276: a logged release that every replica repeats: nothing is performed again, but for what each does in its own tables. A QPOP logged without a result ended its strand (R257). -/
def State.repeatRelease (s : State) (g : List (Nat × Strand)) (ls : Strand) (e : RopeLog) (req : MemReq) : State :=
  let ending := req.isPop && e.vec.isNone && e.scalar.isNone
  match s.xferFull g with
  | some t => t
  | none =>
  let t := g.foldl (fun (u : State) x =>
    let q := if ending then MemReq.exit else (x.2.presentedReq).getD req
    let y := u.ownEffect x.1 x.2 q e.res
    y.1.goOn x.1 q y.2 (q.logFlags y.2)) s
  if req == .exit || ending then t.reap ls.team else t

/-- R285: a cause on which the replicas agree: the kill or tear-down, once, for the leader. -/
def State.ropeCause (s : State) (g : List (Nat × Strand)) (ls : Strand) (code app : Nat) (addr : DWord) : State :=
  if 0x10 ≤ code then s.tearDown (s.team ls.team).launch (s.errorEvent ls (clsOfCode code) code app addr)
  else
    let s1 := s.onLaunch (s.team ls.team).launch (recordEvent s.time (s.errorEvent ls .strandKilled code app addr) false)
    (g.foldl (fun (u : State) e => u.endStrand e.1 .killed) s1).reap ls.team

/-- R272, R286: SIGCHK completes with a verdict. -/
def State.sigchkDone (s : State) (g : List (Nat × Strand)) (v : DWord) : State :=
  g.foldl (fun (u : State) e => match u.strandAt e.1 with
    | some x => match x.presented with
      | some (.sigchk _ d) => u.complete e.1 ({ x with presented := none }.setS d v) 0
      | _ => u
    | none => u) s

/-- What is compared of a presented item: its kind and the value that must be equal. -/
def Presented.key : Presented → Nat × DWord
  | .release _ sg _ => (0, sg)
  | .implicit _ sg => (1, sg)
  | .sigchk sg _ => (2, sg)
  | .cause c pc _ _ => (3 + pc, BitVec.ofNat 64 c)
/-- The signature a strand presents (R288). -/
def Strand.presentedSig (st : Strand) : DWord := match st.presented with
  | some (.release _ sg _) | some (.implicit _ sg) | some (.sigchk sg _) => sg
  | some (.cause c _ _ _) => BitVec.ofNat 64 c
  | none => 0
/-- The pc of what a strand presents. -/
def Strand.presentedPc (st : Strand) : Nat := match st.presented with
  | some (.cause _ pc _ _) => pc
  | _ => st.reqPc

/-- R272, R276, R285, R286: the item `p` on which the strands of `g` agree. -/
def State.ropeAgree (s : State) (g : List (Nat × Strand)) (li : Nat) (ls : Strand) (p : Presented) (verdict : DWord) : State :=
  let logged (seq : Nat) : Option RopeLog := (s.ropeOf ls).log.find? (fun e => e.strand == ls.idx && e.seq == seq)
  -- a matched release that is still being performed by another strand has its entry
  let others := ((s.ropeStrands ls).filter (fun e => e.2.replica == 0 && e.2.idx != ls.idx && e.2.committed)).length
  let full := !ls.committed && decide (256 ≤ (s.ropeOf ls).log.length + others)
  let stopAll : State := s.onRope (s.team ls.team).rope (fun r => { r with logFull := true })
  match p with
  | .release seq sg req => match logged seq with
    | some e => if e.sig = sg then s.repeatRelease g ls e req else s.diverge ls ls.presentedPc
    | none => if full then stopAll else s.performRelease g li ls seq sg req
  | .implicit seq sg =>
    let cont (t : State) : State := g.foldl (fun (u : State) e => u.onStrandAt e.1 (fun x => x.released false)) t
    match logged seq with
    | some e => if e.sig = sg then cont s else s.diverge ls ls.presentedPc
    | none => if full then stopAll else cont ((s.performBuffer li).logRelease ls (ropeLogOf ls.idx seq sg .none))
  | .sigchk _ _ => s.sigchkDone g verdict
  | .cause c _ app addr => s.ropeCause g ls c app addr

/-- R276: whether a presented item is a release that the log holds. -/
def State.isLogged (s : State) (st : Strand) : Bool :=
  match st.presented with
  | some (.release seq _ _) | some (.implicit seq _) => (s.ropeOf st).log.any (fun e => e.strand == st.idx && e.seq == seq)
  | _ => false

/-- R283, R285: the odd second `o` of a TRIO rebuilt from the second `d`, which takes MINORITY; the team may now have ended. -/
def State.outvote (s : State) (ls : Strand) (odd donor pc seq : Nat) (sig : DWord) : State :=
  if (cfind s.launches (s.team ls.team).launch).isNone || (cfind s.ropes (s.team ls.team).rope).isNone then s
  else ((s.rebuild ls odd donor).minority ls odd pc seq sig).reap ls.team

/-- R272, R281–R286: the comparison at strand `idx` of the rope of team `tid`, when every replica has presented and none is switched out or
halted (R280). A rollback under way or a full log (R278) lets through the release alone that is being performed. -/
def State.compareAt (s : State) (tid idx : Nat) : State :=
  let all : List (Nat × Strand) := match s.strands.find? (fun e => e.2.team == tid) with
    | some e => if s.level e.2 = 0 then [] else (s.ropeStrands e.2).filter (fun x => x.2.idx == idx)
    | none => []
  match all.find? (fun e => e.2.replica == 0) with
  | none => s
  | some (li, ls) =>
    if all.any (fun e => e.2.presented.isNone || !(s.resident e.2)) then s
    else if (s.rolling ls || (s.ropeOf ls).logFull) && !(s.midRelease li ls) then s else
    match ls.presented with
    | none => s
    | some lp =>
      let key (st : Strand) : Nat × DWord := (st.presented.map Presented.key).getD (0, 0)
      let same := all.filter (fun e => key e.2 == lp.key)
      let odd := all.filter (fun e => key e.2 != lp.key)
      let pc := ls.presentedPc
      if odd.isEmpty then s.ropeAgree all li ls lp 0
      else if s.isLogged ls then s.diverge ls pc
      else match s.level ls = 3 && odd.length = 1, odd, same.find? (fun e => e.2.replica != 0) with
        | true, (_, o) :: _, some (_, d) =>
          let s1 := s.ropeAgree same li ls lp 1
          -- R283: the copy follows once the majority has gone on
          if (s1.strandAt li).map (·.presented) == some ls.presented then s1
          else s1.outvote ls o.replica d.replica pc (o.ropeseq + 1) o.presentedSig
        | _, _, _ =>
          let three := s.level ls = 3 && ((all.map (fun e => key e.2)).eraseDups).length = 3
          s.rollback ls (if three then 4 else 1) pc (ls.ropeseq + 1)
            (fun k => ((all.find? (fun e => e.2.replica == k)).map (fun e => e.2.presentedSig)).getD 0)

/-- R143, R285: the lowest transfer id of a rope's teams that has met a fault not yet compared. -/
def State.faultedXfer (s : State) (r : Rope) : Option Xfer :=
  (r.teams.flatMap (fun i => (s.team i).xfers.filter (fun x => x.fault != 0))).foldl (fun acc x => match acc with
    | some y => if y.id ≤ x.id then some y else some x
    | none => some x) none
/-- R285: what the transfer `id` of a replica's team has come to: `none` while it has not been issued or runs, else its cause (0: it ended
well). -/
def State.xferVerdict (s : State) (tid id : Nat) : Option Nat := match s.xferOf tid id with
  | some x => if x.fault != 0 then some x.fault else if x.live then none else some 0
  | none => if (s.team tid).nextXfer ≤ id then none else some 0
/-- R285: the fault of a transfer compared: the tear-down where the leader's transfer and at least one more have met it, an outvoted second, or a
rollback. -/
def State.compareXfer (s : State) (st : Strand) (x : Xfer) : State :=
  let vs := (s.ropeOf st).teams.map (fun i => (i, s.xferVerdict i x.id))
  let code (k : Nat) : Nat := ((vs.getD k (0, some 0)).2).getD 0
  let lead := (s.ropeOf st).teams.headD 0
  let by' := (((s.ropeStrands st).find? (fun e => e.2.replica == 0 && e.2.idx == x.strand)).map (·.2)).getD st
  let odd := (List.range vs.length).filter (fun k => code k != code 0)
  if vs.any (fun e => e.2.isNone) then s
  else match odd, decide (vs.length = 3) with
    | [], _ => match s.xferOf lead x.id with
      | some y => s.xferTear lead y y.fault
      | none => s
    | [k], true => match code 0, s.xferOf lead x.id with
      | 0, _ => s.outvote by' k (3 - k) x.pc (by'.ropeseq + 1) (BitVec.ofNat 64 (code k))
      | c, some y => s.xferTear lead y c
      | _, none => s
    | _, _ => s.rollback by' (if vs.length = 3 && code 1 != code 2 then 4 else 1) x.pc (by'.ropeseq + 1) (fun k => BitVec.ofNat 64 (code k))

/-- R280: no running strand of a rope is switched out or halted. -/
def State.ropeHere (s : State) (st : Strand) : Bool := (s.ropeStrands st).all (fun e => e.2.run != .running || s.resident e.2)
/-- R272, R281–R286: what a rope's comparison does at strand `idx`: a rollback under way is carried on, a transfer's fault is compared, else what
the strands present. -/
def State.ropeCompare (s : State) (tid idx : Nat) : State :=
  match s.strands.find? (fun e => e.2.team == tid) with
  | none => s
  | some (_, st) => match (s.ropeOf st).rolling, s.faultedXfer (s.ropeOf st) with
    | some h, _ => if s.ropeHere st && s.level st != 0 then (s.compareAt tid idx).rollTry st h else s
    | none, some x =>
      let t := if s.ropeHere st then s.compareXfer st x else s
      if t == s then s.compareAt tid idx else t
    | none, none => s.compareAt tid idx

/-- R272: a counterpart trails its leader: it issues an instruction that the leader has completed, or goes on to its own comparison, gathering or
flip where the leader waits at one. The handler of MINORITY has no counterpart at the leader. -/
def State.aheadOfLeader (s : State) (st : Strand) : Bool :=
  s.level st != 0 && st.replica != 0 && !st.inMinority && (match s.leaderOf st with
    | some (_, l) => decide ((if l.wait == .release || l.wait == .ckpt || l.wait == .flip then l.issued else l.completed) ≤ st.issued)
    | none => false)
end Sys2Proof.Machine
end

