-- ==== Sys2Proof/Machine/Control.lean ====
section
/-!
DEFINITION. Control transfer, traps by instruction, and the end of a strand (R75–R79).
-/
namespace Sys2Proof.Machine

/-- R52, R75: the target of a direct branch: the branch's own pc plus four times the offset. -/
def branchTarget (st : Strand) (off : Int) : DWord := BitVec.ofInt 64 (st.pc + 4 * off)
/-- R75: a conditional branch. -/
def condBranch (s : State) (off : Int) (taken : Strand → Bool) : Out :=
  onCur s (fun st => if taken st then jumpTo s st false (branchTarget st off) id else finish s st 0)
/-- R75, R76: the link written to s63. -/
def Strand.link (st : Strand) : Strand := st.setS 63 (BitVec.ofNat 64 (st.pc + 4))

/-- R77: NOP. -/
def execNop (s : State) : Out := onCur s (fun st => finish s st 0)
/-- R75: BR. -/
def execBr (off : BitVec 24) (s : State) : Out := onCur s (fun st => jumpTo s st false (branchTarget st off.toInt) id)
/-- R75: CALL. -/
def execCall (off : BitVec 24) (s : State) : Out := onCur s (fun st => jumpTo s st false (branchTarget st off.toInt) Strand.link)
/-- R75: BRZ. -/
def execBrz (d : Nat) (off : BitVec 16) (s : State) : Out := condBranch s off.toInt (fun st => st.getS d == 0)
/-- R75: BRNZ. -/
def execBrnz (d : Nat) (off : BitVec 16) (s : State) : Out := condBranch s off.toInt (fun st => st.getS d != 0)
/-- R75: BRE. -/
def execBre (d : Nat) (off : BitVec 16) (s : State) : Out := condBranch s off.toInt (fun st => st.getP d &&& st.em == 0)
/-- R75: BRNE. -/
def execBrne (d : Nat) (off : BitVec 16) (s : State) : Out := condBranch s off.toInt (fun st => st.getP d &&& st.em != 0)
/-- R76: JR. -/
def execJr (a : Nat) (s : State) : Out := onCur s (fun st => jumpTo s st true (st.getS a) id)
/-- R76: RET. -/
def execRet (s : State) : Out := onCur s (fun st => jumpTo s st true (st.getS 63) id)
/-- R76: CALLR; the target is read before the link is written. -/
def execCallr (a : Nat) (s : State) : Out := onCur s (fun st => jumpTo s st true (st.getS a) Strand.link)

/-- R70, R77: a trap whose handler returns behind the instruction. -/
def softTrap (s : State) (cause : Nat) (imm : BitVec 16) : Out :=
  onCur s (fun st => trapCur s { cause := cause, detail := imm.toNat, pc := st.pc, epc := st.pc + 4, addr := 0, info := 0 })
/-- R77: TRAP. -/
def execTrap (imm : BitVec 16) (s : State) : Out := softTrap s 0x06 imm
/-- R77: BKPT. -/
def execBkpt (imm : BitVec 16) (s : State) : Out := softTrap s 0x07 imm
/-- R78: ERET. -/
def execEret (s : State) : Out :=
  onCur s (fun st => if st.active? then jumpTo s st true st.epc Strand.returnFromTrap else illegal s st 0)
/-- R79: EXIT; it waits until the operand log is empty. -/
def execExit (s : State) : Out :=
  onCur s (fun st => if st.log.isEmpty then .next (s.runReq s.cur .exit) else .next (s.putStrand { st with wait := .logDrain }))

/-- R57 steps 1 and 2: a word that is no instruction. -/
def execInvalidInstructionWord (_word : Word) (s : State) : Out := onCur s (fun st => illegal s st 0)

end Sys2Proof.Machine
end

