-- ==== Sys2Proof/Machine/System.lean ====
section
/-!
DEFINITION. Special registers and the mode (R62, R66, R69, R84, R85, R287, R310), the system instructions (R88–R92, R232,
R277, R286).
-/
namespace Sys2Proof.Machine

/-! ### Special registers (R69) -/

/-- R287: `%rope`. -/
def State.ropeReg (s : State) (st : Strand) : DWord :=
  let r := s.ropeOf st
  if s.level st = 0 then 0 else
  BitVec.ofNat 64 (r.mismatches * 2 ^ 48 + cget 0 r.minorities st.replica * 2 ^ 32 + cget 0 r.event st.replica * 2 ^ 12
    + r.retry % 4 * 2 ^ 10 + st.replica * 2 ^ 4 + s.level st)
/-- R310: the clusters of a partition. -/
def clustersOf (pcfg : DWord) : List Nat := (List.range 8).filter (fun k => holdsGranule pcfg (2 * k) || holdsGranule pcfg (2 * k + 1))
/-- R302: the clock in 10 MHz a performance class asks for. -/
def classClock (n : Nat) : Nat := [120, 135, 150, 180].getD n 180
/-- R302: the clock asked for a cluster: that of the largest class among its resident teams. -/
def State.clockAsked (s : State) (k : Nat) : Nat :=
  let cls := (s.teams.filter (fun e => clusterOf e.2.core == k && e.2.plane == (s.part (s.launch e.2.launch).part).plane)).map (·.2.perfcls)
  classClock (cls.foldl max 0)
/-- R302: the clock of a cluster: the clock asked for as far as the limits allow. -/
def State.clockOf (s : State) (k : Nat) : Nat := min (s.clockAsked k) (s.cluster k).clock
/-- R310: `%throttle` of a partition. -/
def State.throttle (s : State) (p : Nat) : DWord :=
  let x := s.part p
  let ks := (clustersOf x.pcfg).map s.clockOf
  let clock := match ks with
    | [] => 150
    | k :: l => l.foldl min k
  let seq := match s.power.hall with
    | some h => h.seq.toNat % 2 ^ 16
    | none => 0
  BitVec.ofNat 64 (seq * 2 ^ 48 + clock % 256 * 2 ^ 40 + x.lim % 2 ^ 16 * 2 ^ 24 + x.active % 256 * 2 ^ 8
    + (((List.range 8).filter (fun k => k != 0 && bitAt x.active (k - 1))).foldl max 0))
/-- R69: the value of a special register. -/
def State.special (s : State) (st : Strand) (n : Nat) : DWord :=
  let t := s.team st.team
  let l := s.launchOf st
  let w (v : Nat) : DWord := BitVec.ofNat 64 v
  match n with
  | 0x01 => w st.idx
  | 0x02 => w (t.index % l.nx)
  | 0x03 => w (t.index / l.nx % l.ny)
  | 0x04 => w (t.index / (l.nx * l.ny))
  | 0x05 => w l.nx
  | 0x06 => w l.ny
  | 0x07 => w l.nz
  | 0x08 => w (s.gangOf st).index
  | 0x09 => w t.member
  | 0x0A => l.args
  | 0x0B => w l.header.spbytes
  | 0x10 => w t.core
  | 0x11 => w (clusterOf t.core)
  | 0x12 => w (dieOf t.core)
  | 0x13 => w t.place
  | 0x18 => st.mode.zeroExtend 64
  | 0x19 => st.flags.zeroExtend 64
  | 0x1A => st.trapcause
  | 0x1B => st.trappc &&& 0x1FFFF
  | 0x1C => st.trapaddr
  | 0x1D => st.trapinfo
  | 0x1E => st.epc
  | 0x1F => st.trapvec
  | 0x20 => s.ropeReg st
  | 0x21 => w st.ropeseq
  | 0x22 => w t.perfcls
  | 0x23 => s.throttle l.part
  | 0x24 => if l.secure then 1 else 0
  | _ => 0
/-- R273: the special registers whose value the leader gives. -/
def sharedReg (n : Nat) : Bool := (decide (0x01 ≤ n) && decide (n ≤ 0x13)) || n == 0x23

/-- R84: MFSR. -/
def execMfsr (d a : Nat) (s : State) : Out :=
  onCur s (fun st =>
    if !(specialRegs.contains a) then illegal s st 0
    else if sharedReg a then sharedScalar s st d (s.special st a)
    else finish s (st.setS d (s.special st a)) 0)

/-- R62, R84: a 64-bit value written to `%mode`. -/
def writeMode (s : State) (st : Strand) (v : DWord) : Out :=
  if v.toNat / 2 ^ 16 != 0 || !(modeOk (v.setWidth 16)) then illegal s st 0 else finish s (st.setMode (v.setWidth 16)) 0
/-- R69: the values `%trapvec` takes. -/
def trapvecOk (v : DWord) : Bool := v == 0xFFFFFFFF || (v.toNat % 4 == 0 && decide (v.toNat < 65536))
/-- R84: MTSR. -/
def execMtsr (d a : Nat) (s : State) : Out :=
  onCur s (fun st =>
    let v := st.getS a
    match d with
    | 0x18 => writeMode s st v
    | 0x19 => finish s { st with flags := st.flags &&& ~~~ (v.setWidth 5) } 0
    | 0x1E => finish s { st with epc := v } 0
    | 0x1F => if trapvecOk v then finish s { st with trapvec := v } 0 else illegal s st 0
    | _ => illegal s st 0)
/-- R85: MODE. -/
def execMode (m : BitVec 16) (s : State) : Out := onCur s (fun st => writeMode s st (m.zeroExtend 64))
/-- R85: MODES. -/
def execModes (a : Nat) (s : State) : Out := onCur s (fun st => writeMode s st (st.getS a))

/-! ### System instructions -/

/-- R90: PERF: in one cycle the strand of the higher number stands. -/
def execPerf (cls : Nat) (s : State) : Out :=
  onCur s (fun st =>
    let s1 := s.onTeam st.team (fun t => match t.perfBy with
      | some k => if st.idx < k then t else { t with perfcls := cls, perfBy := some st.idx }
      | none => { t with perfcls := cls, perfBy := some st.idx })
    finish s1 st 0)
/-- R88: TIME. -/
def execTime (d : Nat) (s : State) : Out := onCur s (fun st => sharedScalar s st d (BitVec.ofNat 64 s.time))
/-- R88: CYC. -/
def execCyc (d : Nat) (s : State) : Out := onCur s (fun st => sharedScalar s st d (BitVec.ofNat 64 st.cyc))
/-- R89, R274: SETTIMER; in a shadow or second it arms nothing. -/
def execSettimer (a : Nat) (s : State) : Out :=
  onCur s (fun st =>
    if st.replica != 0 then finish s st 0
    else finish s { st with timer := if st.getS a = 0 then none else some ((st.getS a).toNat + 1) } 0)
/-- R91: IDEMP. -/
def execIdemp (s : State) : Out :=
  onCur s (fun st =>
    let s1 := if s.level st != 0 then s else s.onTeam st.team (fun t => { t with idemp := t.idemp || !t.synced })
    finish s1 st 0)

/-- R198: whether the current strand is the first whose CRIT its scheduler has to complete. -/
def State.critTurn (s : State) (st : Strand) : Bool :=
  decide (s.critHeld (s.coreOf st) st.sched < 4) && (match s.oldestCrit (s.coreOf st) st.sched with
    | some w => w == s.cur
    | none => true)
/-- R232, R198: CRIT. -/
def execCrit (s : State) : Out :=
  onCur s (fun st =>
    if st.crit then finish s st 0
    else if s.critTurn st then finish (s.leaveCritWait s.cur st) { st with crit := true } 0
    else .next ((s.onCore (s.coreOf st) (fun c => c.onSched st.sched (fun q =>
      { q with critWait := if q.critWait.contains s.cur then q.critWait else q.critWait ++ [s.cur] }))).putStrand { st with wait := .crit }))
/-- R232, R198: UNCRIT: the oldest waiting CRIT of the scheduler completes. -/
def execUncrit (s : State) : Out :=
  onCur s (fun st => if st.crit then finish (s.endCrit s.cur st) { st with crit := false } 0 else finish s st 0)

/-- R277, R92: CKPT. It waits for the operand log (log 19); a strand at the gathering waits until all have arrived. -/
def execCkpt (s : State) : Out :=
  onCur s (fun st =>
    if s.level st = 0 then finish s st 0
    else if !st.log.isEmpty then .next (s.putStrand { st with wait := .logDrain })
    else if (cfind st.arrivals ckptMark).isSome then
      (if st.wait == .ckpt && s.ckptReady st then .next (s.checkpoint (s.team st.team).rope true) else .next (s.putStrand { st with wait := .ckpt }))
    else .next (s.runReq s.cur .ckpt))
/-- R286, R92: SIGCHK: the running signature is presented; it waits for the operand log (log 19). -/
def execSigchk (d : Nat) (s : State) : Out :=
  onCur s (fun st =>
    if s.level st = 0 then finish s (st.setS d 0) 0
    else if !st.log.isEmpty then .next (s.putStrand { st with wait := .logDrain })
    else .next (s.putStrand { st with presented := some (.sigchk st.sig d), wait := .release }))

end Sys2Proof.Machine
end

