-- ==== Sys2Proof/Machine/Placement.lean ====
section
/-!
DEFINITION. The dispatcher (R192–R196, R209, R219, R228, R229, R241, R253, R265, R266, R277): what teams demand, which run of
cores a gang takes, the strands it starts, launches that are passed over, and the termination test of a range (R257).
-/
namespace Sys2Proof.Machine

/-! ### Demands and what is free (R192, R193) -/

/-- R192: the amounts of a core, in the table's order: strand slots, team slots, register, scratchpad, tile and skein granules,
circular buffers, team-barrier entries. -/
def coreAmounts : List Nat := [32, 16, 128, 32, 8, 32, 16, 16]
/-- Entrywise sum. -/
def addAmounts (a b : List Nat) : List Nat := List.zipWith (· + ·) a b
/-- R266: SHADOW doubles what strands need. -/
def ropeFactor (rope : Nat) : Nat := if rope = 1 then 2 else 1
/-- R192: what a strand holds of a core. -/
def strandHolds (h : Header) : List Nat := [1, 0, h.vregs, 0, h.tiles, 0, 0, 0]
/-- R192: what a team holds beside its strands. -/
def teamHolds (h : Header) (rope : Nat) : List Nat := [0, 1, 0, h.spbytes / 4096, 0, h.skein * ropeFactor rope, h.cbufs, h.tbar]
/-- R192, R266: a team's demand. -/
def Launch.demand (l : Launch) : List Nat :=
  addAmounts ((strandHolds l.header).map (· * (l.header.strands * ropeFactor l.rope))) (teamHolds l.header l.rope)
/-- R193: the place of the limiting resource in the table. -/
def limiting (demand : List Nat) : Nat :=
  let q := List.zipWith (fun a d => if d = 0 then 0x10000 else a / d) coreAmounts demand
  ((List.range 8).find? (fun k => q.all (fun v => decide (q.getD k 0 ≤ v)))).getD 0

/-- R79: whether a strand still holds its slot, registers and tiles: under a rope until its team retires. -/
def State.holds (s : State) (st : Strand) : Bool := st.run == .running || s.level st != 0
/-- The strands that hold slots of a core in the plane of a launch's context (R329). -/
def State.strandsOn (s : State) (l : Launch) (core : Nat) : List Strand :=
  (s.strands.filter (fun e => s.coreOf e.2 == core && (s.team e.2.team).plane == l.plane && s.holds e.2)).map (·.2)
/-- R267: a launch as its replica gang `r` takes part in it: the leader gang alone holds barrier entries. -/
def Launch.asReplica (l : Launch) (r : Nat) : Launch := if r = 0 then l else { l with header := { l.header with tbar := 0, gbar := 0 } }
/-- R192, R267: what is free of a core for a launch. -/
def State.freeOn (s : State) (l : Launch) (core : Nat) : List Nat :=
  let strands := (s.strandsOn l core).map (fun st => strandHolds (s.headerOf st))
  let teams := (s.teams.filter (fun e => e.2.core == core && e.2.plane == l.plane)).map (fun e =>
    let o := (s.launch e.2.launch).asReplica e.2.replica
    teamHolds o.header o.rope)
  let gangs := (s.gangs.filter (fun e => e.2.barCore == core && e.2.replica == 0 && (s.launch e.2.launch).plane == l.plane)).map (fun e =>
    [0, 0, 0, 0, 0, 0, 0, (s.launch e.2.launch).header.gbar])
  List.zipWith (· - ·) coreAmounts ((strands ++ teams ++ gangs).foldl addAmounts [0, 0, 0, 0, 0, 0, 0, 0])
/-- Free strand slots of a core's scheduler. -/
def State.freeSlots (s : State) (l : Launch) (core : Nat) (sched : Bool) : Nat := 16 - ((s.strandsOn l core).filter (fun st => st.sched == sched)).length
/-- R196: the schedulers of `n` strands placed one by one, each taking `w` slots. -/
def schedsFor (w : Nat) : Nat → Nat → Nat → Option (List Bool)
  | 0, _, _ => some []
  | n + 1, f0, f1 =>
    if f0 < f1 then (if f1 < w then none else (schedsFor w n f0 (f1 - w)).map (true :: ·))
    else if f0 < w then none else (schedsFor w n (f0 - w) f1).map (false :: ·)
/-- The schedulers the strands of a team of a launch take on a core. -/
def State.scheds (s : State) (l : Launch) (core : Nat) : Option (List Bool) :=
  schedsFor (ropeFactor l.rope) l.header.strands (s.freeSlots l core false) (s.freeSlots l core true)
/-- R135, R192: whether a launch holds an imem half on a core or may take one. -/
def State.imemFree (s : State) (lid : Nat) (l : Launch) (core : Nat) : Bool :=
  (cfind l.imems core).isSome
    || decide ((s.launches.filter (fun e => e.1 != lid && e.2.plane == l.plane && (cfind e.2.imems core).isSome)).length < 2)
/-- R130: an imem gathering of a launch is open on a core. -/
def State.gathering (s : State) (lid core : Nat) : Bool := s.strands.any (fun e => match e.2.flip with
  | some f => f.scope == .imem && (s.team e.2.team).launch == lid && s.coreOf e.2 == core
  | none => false)
/-- R195: what is free of an eligible core; member 0's core gives the gang's barrier entries too (R228). DESIGN CHOICE (log 96): a core out of
service (R261) is never eligible, and so does not count in what a cluster's cores can hold (R22). -/
def State.eligible (s : State) (lid : Nat) (l : Launch) (first : Bool) (core : Nat) : Option (List Nat) :=
  let free := s.freeOn l core
  let need := if first then addAmounts l.demand [0, 0, 0, 0, 0, 0, 0, l.header.gbar] else l.demand
  if holdsGranule (s.part l.part).pcfg (granuleOf core) && !(s.core core).retired && (List.zipWith (fun (d f : Nat) => decide (d ≤ f)) need free).all id
      && (s.scheds l core).isSome && s.imemFree lid l core && !(s.gathering lid core) then some free
  else none

/-! ### Segments (R209) -/

/-- R209: the free segments of a partition's share of a cluster, as slice numbers ascending. -/
def State.freeSegs (s : State) (l : Launch) (k : Nat) : List Nat :=
  let pcfg := (s.part l.part).pcfg
  let used := (s.gangs.filter (fun e => e.2.cluster == k && (s.launch e.2.launch).plane == l.plane && (s.launch e.2.launch).part == l.part)).flatMap (·.2.segSlices)
  (List.range 64).flatMap (fun x =>
    if holdsGranule pcfg (2 * k + x / 32) then List.replicate (sliceSegs pcfg - used.count x) x else [])

/-! ### The run a gang takes (R194, R195) -/

/-- R194: the number of teams of a launch. -/
def Launch.teamCount (l : Launch) : Nat := l.nx * l.ny * l.nz
/-- R194: the number of gangs. -/
def Launch.gangCount (l : Launch) : Nat := (l.teamCount + l.header.gang - 1) / l.header.gang
/-- R194: the team indices of a gang, member 0 first. -/
def Launch.gangTeams (l : Launch) (g : Nat) : List Nat :=
  (List.range (min l.header.gang (l.teamCount - g * l.header.gang))).map (g * l.header.gang + ·)
/-- R195: the measure of a run: the smallest free amount of the limiting resource, if every core is eligible. -/
def State.runScore (s : State) (lid : Nat) (l : Launch) (cool : Nat → Bool) (c n : Nat) : Option Nat :=
  let lim := limiting l.demand
  (List.range n).foldl (fun (acc : Option Nat) j => match acc with
    | none => none
    | some m => if !(cool (c + j)) then none else match s.eligible lid l (j == 0) (c + j) with
      | some f => some (min m (f.getD lim 0))
      | none => none) (some 0x10000)
/-- R195: the run of `n` consecutive cores of some clusters with the largest measure, the lowest first core on ties; `but` names a run by its
first core that is left out (R203). -/
def State.bestRun (s : State) (lid : Nat) (l : Launch) (n : Nat) (cool : Nat → Bool) (ks : List Nat) (but : Option Nat := none) : Option Nat :=
  (ks.foldl (fun (acc : Option (Nat × Nat)) k =>
    if (s.freeSegs l k).length < l.segs then acc else
    (List.range (257 - n)).foldl (fun (acc : Option (Nat × Nat)) o =>
      let c := 256 * k + o
      if !(holdsGranule (s.part l.part).pcfg (granuleOf c)) || but == some c then acc else
      match s.runScore lid l cool c n, acc with
      | some m, some (b, x) => if b < m then some (m, c) else some (b, x)
      | some m, none => some (m, c)
      | none, _ => acc) acc) none).map (·.2)

/-! ### Placing a gang -/

/-- The lowest free slot of a scheduler (log 25), beside slots just taken. -/
def State.lowSlotBeside (s : State) (l : Launch) (core : Nat) (sched : Bool) (taken : List (Bool × Nat)) : Nat :=
  let used := ((s.strandsOn l core).filter (fun st => st.sched == sched)).map (·.slotNo) ++ (taken.filter (fun x => x.1 == sched)).map (·.2)
  ((List.range 16).find? (fun n => !(used.contains n))).getD 0
/-- The lowest free slot of a scheduler (log 25). -/
def State.lowSlot (s : State) (l : Launch) (core : Nat) (sched : Bool) : Nat := s.lowSlotBeside l core sched []
/-- R61, R198: a strand started. -/
def State.startStrand (s : State) (l : Launch) (tid core idx replica : Nat) (sched : Bool) : State :=
  let k := s.nextId
  let st := Strand.start tid idx replica sched (s.lowSlot l core sched) l.header
  { s with nextId := k + 1, strands := cput s.strands k st, teams := match cfind s.teams tid with
      | some t => cput s.teams tid { t with strands := t.strands ++ [k] }
      | none => s.teams }
/-- R135: the working half of a launch's imem half on a core holds overlay 0. -/
def overlayBank (code : List Byte) : Bank := { bytes := writeBytes [] 0 code, poison := [] }
/-- R20, R90, R195, R196, R266: team `i` of gang `gid` placed as member `j` on a core. -/
def State.placeTeam (s : State) (lid gid replica rope j i core : Nat) : State :=
  let l := s.launch lid
  let sch := (s.scheds l core).getD []
  let tid := s.nextId
  let t : Team := { Team.none with
    launch := lid, gang := gid, index := i, member := j, core := core, replica := replica, rope := rope
    idemp := l.header.idemp && l.rope == 0, perfcls := 2, plane := l.plane }
  let s1 := { s with nextId := tid + 1, teams := cput s.teams tid t }
  let s2 := ((List.range l.header.strands).zip sch).foldl (fun (u : State) e =>
    let v := u.startStrand l tid core e.1 replica e.2
    if l.rope = 1 then v.startStrand l tid core e.1 1 e.2 else v) s1
  let s3 := (s2.onCore core id).onLaunch lid (fun l => if (cfind l.imems core).isSome then l else
    { l with imems := cput l.imems core { planes := { Planes.empty with a := overlayBank l.code } } })
  let s4 := if rope = 0 then s3 else s3.onRope rope (fun r => { r with teams := r.teams ++ [tid] })
  (s4.onGang gid (fun g => { g with teams := g.teams ++ [tid] })).acquire core .pkg
/-- R195, R209, R219: one replica of gang `g` placed on a run of one of the clusters; the cluster it takes. -/
def State.placeReplica (s : State) (lid g replica : Nat) (ropes ks : List Nat) : Option (State × Nat) :=
  let l := s.launch lid
  let is := l.gangTeams g
  match s.bestRun lid (l.asReplica replica) is.length (fun _ => true) ks with
  | none => none
  | some c =>
    let k := clusterOf c
    let gid := s.nextId
    let gang : Gang := { Gang.none with
      launch := lid, index := g, cluster := k, core := c, barCore := c, replica := replica
      segs := List.replicate l.segs Planes.empty, segSlices := (s.freeSegs l k).take l.segs }
    let s1 := { s with nextId := gid + 1, gangs := cput s.gangs gid gang }
    let s2 := (List.range is.length).foldl (fun (u : State) j => u.placeTeam lid gid replica (ropes.getD j 0) j (is.getD j 0) (c + j)) s1
    some ((s2.takeKnit k l.part l.secure (s2.gang gid).teams).2, k)
/-- R265: replica gangs of a level. -/
def replicaCount (rope : Nat) : Nat := if rope < 2 then 1 else rope
/-- R265, R266: the clusters a further replica may take: first those of dies that hold no replica, then those of dies other than the leader's
(log 101), then those of the leader's die, where the three would not stand on one. -/
def replicaClusters (ks used : List Nat) : List (List Nat) :=
  let free := ks.filter (fun k => !(used.contains k))
  let far := free.filter (fun k => !(used.any (fun u => u / 2 == k / 2)))
  let other := free.filter (fun k => k / 2 != used.headD 0 / 2)
  if used.isEmpty then [ks]
  else if used.length = 2 && (used.map (· / 2)).eraseDups.length = 1 then [far] else [far, other, free]
/-- R266: the replicas of a gang placed one after another; none where one finds no run. -/
def State.placeReplicas (s : State) (lid g : Nat) (ropes ks used : List Nat) : Nat → Option State
  | 0 => some s
  | n + 1 => match (replicaClusters ks used).findSome? (s.placeReplica lid g used.length ropes) with
    | some (t, k) => State.placeReplicas t lid g ropes ks (used ++ [k]) n
    | none => none
/-- R275: a rope without replicas yet. -/
def Rope.empty : Rope :=
  { teams := [], log := [], retry := 0, mismatches := 0, minorities := [], event := [], logFull := false, rolling := none
    saveXfers := [], saveNextXfer := [], saveSegs := [], saveImem := [] }
/-- R195, R266, R277: the next gang of a launch placed with its replicas; none where it does not fit. After a placement device time no longer
steps (R326). -/
def State.placeGang (s : State) (lid : Nat) : Option State :=
  let l := s.launch lid
  let g := l.nextGang
  let n := if l.rope = 0 then 0 else (l.gangTeams g).length
  let ropes := (List.range n).map (s.nextId + ·)
  let s1 := { s with nextId := s.nextId + n, ropes := ropes.foldl (fun m i => cput m i Rope.empty) s.ropes }
  match s1.placeReplicas lid g ropes (clustersOf (s.part l.part).pcfg) [] (replicaCount l.rope) with
  | none => none
  | some t =>
    let u := (ropes.foldl (fun (u : State) i => u.checkpoint i true) t).onLaunch lid (fun l => { l with nextGang := g + l.spanParts })
    some { u with fabric := { u.fabric with stepped := true } }
/-- R195: gangs of a launch placed until one does not fit. -/
def State.placeGangs (s : State) (lid : Nat) : Nat → State
  | 0 => s
  | n + 1 =>
    let l := s.launch lid
    if l.gangCount ≤ l.nextGang then s else match s.placeGang lid with
    | some t => State.placeGangs t lid n
    | none => s
/-- Whether gangs of a launch are still to be placed. -/
def Launch.unplaced (l : Launch) : Bool := decide (l.nextGang < l.gangCount)
/-- R229: a launch that is placed whole. -/
def Launch.whole (l : Launch) : Bool := l.header.gbarRange != 0 || l.header.lbar != 0
/-- R22, R229, R266: whether a launch could be placed, whole or its first gang, with every core free. -/
def State.possible (s : State) (lid : Nat) : Bool :=
  let bare := { s with strands := [], teams := [], gangs := [], launches := cmap (fun _ l => { l with imems := [] }) s.launches }
  let l := s.launch lid
  if !(l.unplaced) then true
  else if l.whole then !((bare.placeGangs lid l.gangCount).launch lid).unplaced else (bare.placeGang lid).isSome

/-! ### Several launches (R253, R329) -/

/-- R251: STOPONERR stops a task with a failed predecessor. -/
def Task.stopped (t : Task) : Bool := bitAt t.packet.toNat 2 && t.failedPred
/-- R253, R259, R329: whether the dispatcher takes a launch in this cycle. -/
def State.placeable (s : State) (l : Launch) : Bool :=
  l.unplaced && l.torn.isNone && l.plane == (s.part l.part).plane && !s.power.stopped
    && (match cfind s.tasks l.task with
      | some t => t.state == .running || (t.state == .ready && !t.stopped)
      | none => false)
/-- R253: whether the dispatcher takes one launch before another of its priority: in the order in which they became RUNNING, those not yet
RUNNING after them, as they were handed over (log 26). -/
def takenBefore (a b : Nat × Launch) : Bool := match a.2.started, b.2.started with
  | some _, some _ => decide (a.2.order < b.2.order)
  | some _, none => true
  | none, some _ => false
  | none, none => decide (a.1 < b.1)
/-- A launch put among those of its priority. -/
def putLaunch (a : Nat × Launch) : List (Nat × Launch) → List (Nat × Launch)
  | [] => [a]
  | b :: l => if takenBefore a b then a :: b :: l else b :: putLaunch a l
/-- R253: whether a launch passed over for long stops another from placing; of two of one priority the one taken first goes first (log 26). -/
def State.heldBy (s : State) (lid : Nat) (l : Launch) (oid : Nat) (o : Launch) : Bool :=
  oid != lid && o.part == l.part && o.blocking && s.placeable o && decide (l.prio ≤ o.prio)
    && (decide (l.prio < o.prio) || !l.blocking || takenBefore (oid, o) (lid, l))
/-- R253: one launch offered the free granules; passed over where its next gang does not fit. -/
def State.offer (s : State) (lid : Nat) : State :=
  let l := s.launch lid
  if !(s.placeable l) then s
  else if s.launches.any (fun e => s.heldBy lid l e.1 e.2) then s
  else
    let t := s.placeGangs lid l.gangCount
    let t := if l.whole && (t.launch lid).unplaced then s else t
    let next := (t.launch lid).nextGang
    if next = l.nextGang then t.onLaunch lid (fun l => { l with passedSince := some (l.passedSince.getD t.time) })
    else
      let u := t.onLaunch lid (fun l => { l with
        started := some (l.started.getD t.time), order := if l.started.isSome then l.order else t.hub.runOrder
        blocking := false, passedSince := if l.unplaced then some t.time else none })
      { u.onTask l.task (fun x => { x with state := .running }) with
        fabric := { u.fabric with stepped := true }, hub := { u.hub with runOrder := u.hub.runOrder + 1 } }

/-- R195, R253: the gangs placed in one fabric cycle: launches by priority, then as they are taken. -/
def execGangPlacement (s : State) : Out :=
  let lids := (List.range 16).flatMap (fun p => ((s.launches.filter (fun e => e.2.prio == 15 - p)).foldr putLaunch []).map (·.1))
  .next (lids.foldl State.offer s).settleSpills
/-- R253: a launch passed over for 100 µs holds back equal and lower priorities until its next gang is placed. -/
def execLaunchPassover (launch : Nat) (s : State) : Out :=
  .next (s.onLaunch launch (fun l => match l.passedSince with
    | some t => if t + 100000 ≤ s.time && s.placeable l then { l with blocking := true } else l
    | none => l))

/-! ### The termination test (R257) -/

/-- R257: whether a strand waits in QPOP for elements, under a rope with its release presented. -/
def Strand.inPop (st : Strand) : Bool := st.wait == .qpop || (match st.presented with
  | some (.release _ _ (.qpop _ _ act)) => act != 0
  | _ => false)
/-- R257: the running strands of a launch on a die. -/
def State.rangeStrands (s : State) (lid die : Nat) : List (Nat × Strand) :=
  s.strands.filter (fun e => (s.team e.2.team).launch == lid && dieOf (s.coreOf e.2) == die && e.2.run == .running)
/-- R257: the conditions of a sample, of a launch whose context is working (log 27): the resident strands wait in QPOP, with nothing in their
logs and no transfer of their teams unended. DESIGN CHOICE (log 124): a gang that is not placed yet counts for every die, since it has none. -/
def State.quiet (s : State) (lid die : Nat) : Bool :=
  let l := s.launch lid
  s.onPlane l && (s.rangeStrands lid die).all (fun e => !(s.resident e.2) || (e.2.inPop && e.2.log.isEmpty && (s.team e.2.team).xfers.all Xfer.ended))
    && s.gangs.all (fun e => !(e.2.launch == lid && dieOf e.2.core == die) || e.2.queues.all (fun q => q.2.elems.isEmpty))
    && !l.unplaced
/-- R257: the range has terminated: strands waiting in QPOP end as EXIT does; those of a rope when their release is next
compared. -/
def State.endRange (s : State) (lid die : Nat) : State :=
  ((s.rangeStrands lid die).filter (·.2.inPop)).foldl (fun (t : State) e => if t.level e.2 != 0 then t else t.soloReq e.1 .exit)
    (s.onLaunch lid (fun l => { l with terminated := setInsert l.terminated die, sample := cdel l.sample die }))
/-- R257: a sample of a range; two of them 256 fabric cycles apart decide. -/
def execTerminationSample (launch die : Nat) (s : State) : Out :=
  let l := s.launch launch
  let a : Sample := { sent := cget 0 l.sent die, received := cget 0 l.received die, when := s.time }
  .next (
    if (cfind s.launches launch).isNone || l.terminated.contains die then s
    else if !(s.quiet launch die) then s.onLaunch launch (fun l => { l with sample := cdel l.sample die })
    else match cfind l.sample die with
      | none => s.onLaunch launch (fun l => { l with sample := cput l.sample die a })
      | some b =>
        if s.time < b.when + 128 then s
        else if b.sent = b.received && a.sent = b.sent && a.received = b.received then s.endRange launch die
        else s.onLaunch launch (fun l => { l with sample := cput l.sample die a }))

end Sys2Proof.Machine
end

