-- ==== Sys2Proof/Machine/Hub.lean ====
section
/-!
DEFINITION. The hub's events: notify writes and packets read from rings (R244, R246), tasks (R249–R252, R328), packets
performed (R22, R247, R294), retirement and completion entries (R262), tear-downs and errors (R259–R261, R264).
-/
namespace Sys2Proof.Machine

/-! ### Notify registers and rings (R244, R246, R316) -/

/-- R297, R316: a partition that holds no granules is not configured, and its function does not exist. -/
def State.vfExists (s : State) (fn : Nat) : Bool := fn == 0 || granules (s.part (fn - 1)).pcfg != 0
/-- R316: an access that is rejected. -/
def State.rejectAccess (s : State) : State := s.mevent 5
/-- R313, R316: whether a function reaches a queue's notify register: a virtual function those of its partition, in minimal mode 0 to 63 (log
75); no world rule names notify registers (log 28). -/
def State.notifyOk (s : State) (fn queue : Nat) : Bool :=
  s.vfExists fn && (fn == 0 || (s.queue queue).part + 1 == fn) && (!s.boot.minimal || decide (queue < 64))
/-- R244, R316: a write to a queue's notify register by a function. -/
def execNotifyWrite (fn : Nat) (_ide : Bool) (queue : Nat) (value : Word) (s : State) : Out :=
  .next (if s.notifyOk fn queue then s.onQueue queue (fun q => { q with doorbell := value, stopped := false }) else s.rejectAccess)

/-- R246: whether a packet processor reads a queue. -/
def Queue.reading (q : Queue) : Bool := q.enable && !q.error && !q.stopped && q.ridx != q.doorbell
/-- R246: the address of the slot a queue reads next. -/
def Queue.slotAddr (q : Queue) : Nat := q.ring.toNat + 64 * (q.ridx.toNat % (16 * 2 ^ q.slotlog))
/-- R246: RIDX advanced and written at RPTRADDR. -/
def State.advanceRing (s : State) (n : Nat) : State :=
  let s1 := s.onQueue n (fun q => { q with ridx := q.ridx + 1 })
  let q := s1.queue n
  if q.rptr = 0 then s1 else match s1.hubWrite (.ring n) q.asid q.secure q.rptr.toNat (leBytes 8 q.ridx.toNat) with
    | .ok t => t
    | .error _ => s1.queueError n
/-- R246: one packet read from a ring and entered, its slot's VALID cleared. A header word that cannot be written stops the
queue (log 29). What of it a peer is home to is asked for first (R325). -/
def State.readRing (s : State) (n : Nat) : State :=
  let q := s.queue n
  if !q.reading || s.power.stopped then s
  else if 16 * 2 ^ q.slotlog < (q.doorbell - q.ridx).toNat then s.queueError n
  else match s.hubRead (3 * n) q.asid q.secure q.slotAddr 64 with
    | .error (a, c) => if c = 0 then s.hubAsk (3 * n) q.asid q.secure a else (s.hubDone (3 * n)).queueError n
    | .ok (b, t) =>
      let p : BitVec 512 := BitVec.ofNat 512 (leNat b)
      if !(p.getLsbD 0) then (t.hubDone (3 * n)).onQueue n (fun q => { q with stopped := true })
      else match t.packetAsks (3 * n) n p with
      | some a => t.hubAsk (3 * n) q.asid q.secure a
      | none =>
        let t1 := t.enterTask (3 * n) n p none
        match t1.hubWrite (.ring n) q.asid q.secure q.slotAddr (leBytes 8 (pkt p 63 0 - 1)) with
        | .ok t2 => t2.advanceRing n
        | .error _ => t1.queueError n
/-- R246: a packet processor's turn on a queue. -/
def execPacketRead (queue : Nat) (s : State) : Out := .next (s.readRing queue)

/-! ### Kernel headers and their prefetch (R20–R22, R250) -/

/-- R20: the fields of a kernel header. -/
def parseHeader (v : Nat) : Header :=
  { dataSize := bits v 383 352, ovlCount := bits v 335 320, ovlTable := bits v 319 288, entry := bits v 287 256, handler := bits v 255 224
    trapen := BitVec.ofNat 5 (bits v 196 192), lbar := bits v 191 184, gbarRange := bits v 183 176, gbar := bits v 175 168, tbar := bits v 167 160
    ropedef := bits v 149 148, ropeok := bits v 147 144, gang := bits v 143 136, cbufs := bits v 135 128, spbytes := bits v 127 96
    skein := bits v 95 88, tiles := bits v 87 80, strands := bits v 79 72, vregs := bits v 71 64, world := bitAt v 49, idemp := bitAt v 48
    version := bits v 47 32, magic := bits v 31 0
    reservedZero := bits v 511 384 == 0 && bits v 351 336 == 0 && bits v 223 197 == 0 && bits v 159 150 == 0 && bits v 63 50 == 0 }
/-- R20, R21, R22: magic, version, reserved fields, ranges and the constraints among them. -/
def Header.ok (h : Header) : Bool :=
  h.magic == 0x484B5A47 && h.version == 1 && h.reservedZero
    && decide (1 ≤ h.ovlCount) && decide (h.ovlCount ≤ 255) && h.ovlTable % 16 == 0 && h.entry % 4 == 0
    && (h.handler == 0xFFFFFFFF || h.handler % 4 == 0)
    && h.lbar ≤ 16 && h.gbarRange ≤ 16 && h.gbar ≤ 16 && h.tbar ≤ 16 && decide (1 ≤ h.gang) && h.gang ≤ 16 && h.cbufs ≤ 16
    && h.spbytes % 4096 == 0 && h.spbytes ≤ 131072 && h.skein ≤ 32 && h.tiles ≤ 8 && decide (1 ≤ h.strands) && h.strands ≤ 16
    && decide (1 ≤ h.vregs) && h.vregs ≤ 16 && bitAt h.ropeok h.ropedef && h.strands * h.tiles ≤ 8
/-- R250: the lines of `n` bytes from `va` fetched into the L2 slices of their homes at class 1; one whose translation fails, or whose home is a peer, is
dropped. -/
def State.fetchAhead (s : State) (q : Queue) (va n : Nat) : State :=
  if n = 0 then s else (List.range ((va % 128 + n + 127) / 128)).foldl (fun (t : State) j =>
    let x := (128 * (va / 128 + j)) % 2 ^ 64
    match t.translate q.asid q.secure true false x with
    | .ok pa _ _ => t.l2Touch (homeCluster pa) (pa / 128) 1 true
    | _ => t) s
/-- R250: the prefetch for a LAUNCH task `id`: its kernel header, its argument block and overlay 0, as far as header and overlay table can be read.
DESIGN CHOICE (log 127): it comes at the moment in which the task becomes READY, and fills an L2 as PREF does. -/
def State.prefetchLaunch (s : State) (id : Nat) (t : Task) : State :=
  let q := t.desc
  let kernel := pkt t.packet 191 128
  let args := pkt t.packet 255 192
  if pktType t.packet != 1 then s else
  let s1 := s.fetchAhead q kernel 64
  match s1.hubRead (3 * id + 1) q.asid q.secure kernel 64 with
  | .error _ => s1
  | .ok (hb, _) =>
    let h := parseHeader (leNat hb)
    if !h.ok then s1 else
    let s2 := s1.fetchAhead q args h.dataSize
    match s2.hubRead (3 * id + 1) q.asid q.secure ((args + h.ovlTable) % 2 ^ 64) 16 with
    | .error _ => s2
    | .ok (ob, _) => s2.fetchAhead q (kernel + 64) (min 65536 (bits (leNat ob) 95 64))

/-! ### Tasks (R249, R251) -/

/-- R247: ORDER: every earlier packet of the queue has retired. -/
def State.ordered (s : State) (t : Task) : Bool :=
  !(bitAt t.packet.toNat 1) || s.tasks.all (fun e => e.2.state == .expected || e.2.queue != t.queue || decide (t.seqNo ≤ e.2.seqNo))
/-- R328: whether a task is a launch of a queue bound to a span record. -/
def State.spanning (s : State) (t : Task) : Bool := pktType t.packet == 1 && (cfind s.fabric.spans t.queue).isSome
/-- R249: whether a WAITING task becomes READY. -/
def State.taskDue (s : State) (t : Task) : Bool :=
  decide (t.count ≤ 0) && decide (pkt t.packet 383 320 ≤ s.time) && s.ordered t && (!(s.spanning t) || t.spanOk)
/-- R249, R251: a task becomes READY; a READY one whose predecessor failed is stopped under STOPONERR. -/
def execTaskReady (task : Nat) (s : State) : Out :=
  .next (match cfind s.tasks task with
    | some t => match t.state with
      | .waiting =>
        if !(s.taskDue t) || s.power.stopped then s
        else if t.stopped then { s with tasks := cput s.tasks task (t.refuse .aborted 0) }
        else { s.prefetchLaunch task t with tasks := cput s.tasks task { t with state := .ready } }
      | .ready => if t.stopped then { s with tasks := cput s.tasks task (t.refuse .aborted 0) } else s
      | _ => s
    | none => s)
/-- A READY packet of a type, not stopped, for which no launch has been handed over. -/
def State.readyTask (s : State) (id type : Nat) : Option Task := match cfind s.tasks id with
  | some t => if t.state == .ready && pktType t.packet == type && !t.stopped && t.launch.isNone && !s.power.stopped then some t else none
  | none => none
/-- A performed task: done, with its class. -/
def Task.performed (t : Task) (c : Cls) (e : Option ErrEvent) : Task := { t with state := .retiring, cls := c, event := e }
/-- A performed task's class, with the failing address where it failed. -/
def State.perform1 (s : State) (id : Nat) (t : Task) (c : Cls) (addr : DWord) : State :=
  { s with tasks := cput s.tasks id (t.performed c (if c == .ok then none else some (hubEvent c t.queue addr))) }

/-! ### LAUNCH packets (R19–R22, R247, R265) -/

/-- R22: the checks of overlay 0's size, ENTRY, HANDLER, rope level and world. -/
def launchOk (h : Header) (size rope : Nat) (secure : Bool) : Bool :=
  size != 0 && size ≤ 65536 && size % 4 == 0 && decide (h.entry < size) && (h.handler == 0xFFFFFFFF || decide (h.handler < size))
    && bitAt h.ropeok rope && (!h.world || secure)
/-- R247: the segments a partition's share of one cluster holds, at most. -/
def mostSegs (pcfg : DWord) : Nat :=
  (clustersOf pcfg).foldl (fun m k => max m (((List.range 2).filter (fun h => holdsGranule pcfg (2 * k + h))).length * 32 * sliceSegs pcfg)) 0
/-- R265: the rope level of a launch packet. -/
def pktRope (p : BitVec 512) (h : Header) : Nat := if p.getLsbD 69 then h.ropedef else pkt p 71 70
/-- The launch that a packet asks for. -/
def State.newLaunch (s : State) (id : Nat) (t : Task) (h : Header) (code : List Byte) : Launch :=
  let p := t.packet
  let sp := cfind s.fabric.spans t.queue
  { Launch.none with
    queue := t.queue, task := id, part := t.desc.part, asid := t.desc.asid, secure := t.desc.secure, plane := t.desc.plane
    prio := t.desc.prio, kernel := BitVec.ofNat 64 (pkt p 191 128), args := BitVec.ofNat 64 (pkt p 255 192)
    nx := pkt p 95 80, ny := pkt p 111 96, nz := pkt p 127 112, segs := pkt p 79 72, rope := pktRope p h, header := h, code := code
    spanParts := (sp.map (fun x => x.ndev + 1)).getD 1, spanIndex := (sp.map (·.index)).getD 0
    nextGang := (sp.map (·.index)).getD 0 }
/-- R22: the header, overlay-table entry 0 and overlay 0 read and checked; a launch handed over, or the class it completes
with. DESIGN CHOICE (log 96): R22 and R247 give no precedence where a launch both fails a check and has an unreadable header or overlay. A grid of 0 in
some direction completes it before anything is read; the table entry is read before the header is checked, and overlay 0 after; whether a cluster can
hold its demand (`possible`) is tested last, after overlay 0 is read. A part of a spanning launch that has no gang is at once running, and done
(R328). -/
def State.handOver (s : State) (id : Nat) (t : Task) : State :=
  let p := t.packet
  let q := t.desc
  let user := 3 * id + 1
  let fail (c : Cls) (a : Nat) : State := { s.hubDone user with tasks := cput s.tasks id (t.refuse c (BitVec.ofNat 64 a)) }
  let bad (e : Nat × Nat) : State := if e.2 = 0 then s.hubAsk user q.asid q.secure e.1 else fail (clsOfCode e.2) e.1
  if pkt p 127 112 = 0 || pkt p 111 96 = 0 || pkt p 95 80 = 0 then fail .aborted 0
  else match s.hubRead user q.asid q.secure (pkt p 191 128) 64 with
    | .error e => bad e
    | .ok (hb, s1) =>
      let h := parseHeader (leNat hb)
      match s1.hubRead user q.asid q.secure ((pkt p 255 192 + h.ovlTable) % 2 ^ 64) 16 with
      | .error e => bad e
      | .ok (ob, s2) =>
        let size := bits (leNat ob) 95 64
        let rope := pktRope p h
        if !h.ok || !(launchOk h size rope q.secure) || decide (mostSegs (s.part q.part).pcfg < pkt p 79 72) then fail .aborted 0
        else match s2.hubRead user q.asid q.secure ((pkt p 191 128 + 64) % 2 ^ 64) size with
          | .error e => bad e
          | .ok (code, s3) =>
            let k := s3.nextId
            let l := s3.newLaunch id t h code
            let s4 := { s3.hubDone user with
              nextId := k + 1, launches := cput s3.launches k l
              tasks := cput s3.tasks id { t with launch := some k, state := if l.unplaced then t.state else .running } }
            if s4.possible k then s4 else fail .aborted 0
/-- R22, R247, R263: a READY launch handed to the dispatcher. -/
def execLaunchPacket (task : Nat) (s : State) : Out :=
  .next (match s.readyTask task 1 with
    | some t => s.handOver task t
    | none => s)

/-! ### PIN and UNPIN (R247, R293, R294) -/

/-- R293: the backed bytes of a stack. -/
def stackBytes : Nat := 96000000000
/-- Whether a frame of a size in a stack is free: backed, clear of every other frame, and in regions the queue's world may
reach (R299). -/
def State.frameFree (s : State) (secure : Bool) (stack size off : Nat) : Bool :=
  let f := stack * 2 ^ 37 + off
  off % size == 0 && decide (off + size ≤ stackBytes)
    && s.pages.all (fun p => (p.frame.toList ++ p.shared.toList).all (fun g => decide (g + p.size ≤ f) || decide (f + size ≤ g)))
    && (secure || s.secure.all (fun r => decide ((r + 1) * 2 ^ 21 ≤ f) || decide (f + size ≤ r * 2 ^ 21)))
/-- R294: a free frame of a stack: the one firmware takes, a free value where it is free, else the lowest (log 3). -/
def State.takeFrame (s : State) (secure : Bool) (stack size : Nat) : Option Nat :=
  let ends := 0 :: s.pages.flatMap (fun p => (p.frame.toList ++ p.shared.toList).filterMap (fun g =>
    if stackOf g = stack then some ((g % 2 ^ 37 + p.size + size - 1) / size * size) else none))
  let marks := if secure then [] else s.secure.filterMap (fun r =>
    if stackOf (r * 2 ^ 21) = stack then some (((r + 1) * 2 ^ 21 % 2 ^ 37 + size - 1) / size * size) else none)
  let free := (ends ++ marks).filter (s.frameFree secure stack size)
  match free with
  | [] => none
  | x :: l =>
    let low := l.foldl min x
    let chosen := Config.frame s.fresh stack size
    some (stack * 2 ^ 37 + if s.frameFree secure stack size chosen then chosen else low)
/-- R294: the stacks a page of a PIN tries, in order; `j` is its place in the range. -/
def stackOrder (pcfg : DWord) (affinity j : Nat) : List Nat :=
  if affinity = 0 then
    let mask := (List.range 12).filter (fun k => bitAt (bits pcfg.toNat 47 36) k)
    let r := if mask.isEmpty then 0 else j % mask.length
    mask.drop r ++ mask.take r ++ (List.range 12).filter (fun k => !(mask.contains k))
  else
    let a := affinity - 1
    let die := (List.range 3).map (fun k => a / 3 * 3 + (a % 3 + k) % 3)
    die ++ (List.range 12).filter (fun k => k / 3 != a / 3)
/-- How a PIN ended a page. -/
inductive PinOut where
  | ok (s : State)
  | fail (c : Cls)
/-- R247, R294: the sharing of a frame broken for a page that is pinned already and is to be written: the state, and the page's frame. It keeps its
frame (R294), and the pages that share it go on with a copy; where one of these is pinned, and so keeps the frame too, the page itself takes the copy, in
the same stack where there is room (log 69). -/
def State.breakShared (s : State) (secure : Bool) (order : List Nat) (p : Page) (f : Nat) : Option (State × Nat) :=
  let other (y : Page) : Bool := !(y.asid == p.asid && y.base == p.base) && (y.shared == some f || y.frame == some f)
  if !(s.pages.any other) then some (s, f)
  else if s.pages.any (fun y => other y && y.frame == some f) then
    match (stackOf f :: order).findSome? (fun k => s.takeFrame secure k p.size) with
    | some g =>
      let u := s.copyFrame f g p.size
      some ({ u.dropPage p with fresh := s.fresh + 1 }, g)
    | none => none
  else match order.findSome? (fun k => s.takeFrame secure k p.size) with
    | some g =>
      let u := s.copyFrame f g p.size
      some ({ u with pages := u.pages.map (fun y => if other y then { y with shared := some g } else y), fresh := s.fresh + 1 }, f)
    | none => none
/-- R247, R294: one page pinned for an access. A page homed on a peer, and one that is pinned already, keeps its home. A page that shares its
frame copy-on-write keeps the shared frame for reading; writing breaks the sharing: the frame it takes is a copy, or its sharers' is (log 69). -/
def State.pinPage (s : State) (t : Task) (access affinity j : Nat) (p : Page) : PinOut :=
  let q := t.desc
  let put (s : State) (x : Page) : State := { s with pages := s.pages.map (fun y => if y.asid == p.asid && y.base == p.base then x else y) }
  let wr := bitAt access 1
  let pinned (f : Option Nat) : Page := { p with pins := q.part :: p.pins, frame := f, shared := if wr then none else p.shared }
  let stay (f : Nat) : PinOut := if s.worldOk q.secure f then .ok (put s (pinned (some f))) else .fail .permission
  if (bitAt access 0 && !p.readable) || (wr && !p.writable) then .fail .permission
  else if p.peer.isSome then .ok (put s (pinned p.frame))
  else match p.frame, (if wr then none else p.shared) with
  | some f, _ =>
    if !wr || p.shared.isNone then stay f
    else if !(s.worldOk q.secure f) then .fail .permission
    else match s.breakShared q.secure (stackOrder (s.part q.part).pcfg affinity j) p f with
      | some (u, g) => .ok (put u (pinned (some g)))
      | none => .fail .aborted
  | none, some f => stay f
  | none, none => match (stackOrder (s.part q.part).pcfg affinity j).findSome? (fun k => s.takeFrame q.secure k p.size) with
    | some f =>
      let t := match p.shared with | some g => s.copyFrame g f p.size | none => s
      .ok { put t (pinned (some f)) with fresh := s.fresh + 1 }
    | none => .fail .aborted
/-- R294: the pages of a range pinned in ascending order from `va`, until one fails; the fuel is the number of bytes left in
4,096s. -/
def State.pinRange (s : State) (t : Task) (access affinity : Nat) (last : Nat) : Nat → Nat → Nat → State × Cls × Nat
  | 0, _, _ => (s, .ok, 0)
  | n + 1, va, j =>
    if last < va then (s, .ok, 0)
    else match s.page t.desc.asid va with
      | none => (s, .translation, va)
      | some p => match s.pinPage t access affinity j p with
        | .ok u => State.pinRange u t access affinity last n (p.base + p.size) (j + 1)
        | .fail c => (s, c, va)
/-- R247, R294: PIN. -/
def execPinPacket (task : Nat) (s : State) : Out :=
  .next (match s.readyTask task 2 with
    | some t =>
      let len := pkt t.packet 191 128
      let r := s.pinRange t (pkt t.packet 65 64) (pkt t.packet 71 68) (pkt t.packet 255 192 + len - 1) (len / 4096) (pkt t.packet 255 192) 0
      r.1.perform1 task t r.2.1 (BitVec.ofNat 64 r.2.2)
    | none => s)
/-- R247, R260: pins of a page taken away; a page without pins gives its frame up. -/
def State.keepPins (s : State) (p : Page) (pins : List Nat) : State :=
  if pins.isEmpty then s.dropPage p
  else { s with pages := s.pages.map (fun y => if y.asid == p.asid && y.base == p.base then { y with pins := pins } else y) }
/-- The pins of a page after a partition has released one: its own, where it has one. -/
def Page.unpinned (p : Page) (part : Nat) : List Nat := if p.pins.contains part then p.pins.erase part else p.pins.drop 1
/-- R247, R299: one pin of each page released in turn, the page checked in the queue's world, until one fails; the page that failed. -/
def State.unpinPages (s : State) (q : Queue) : List Page → State × Option Page
  | [] => (s, none)
  | p :: l => if p.frame.all (s.worldOk q.secure) then State.unpinPages (s.keepPins p (p.unpinned q.part)) q l else (s, some p)
/-- R247: UNPIN releases one pin of each page of its range. DESIGN CHOICE (log 122): an address that no page maps and a page without pins are passed
over; where the queue's partition has no pin of a page, another's is released. -/
def execUnpinPacket (task : Nat) (s : State) : Out :=
  .next (match s.readyTask task 3 with
    | some t =>
      let lo := pkt t.packet 255 192
      let hi := lo + pkt t.packet 191 128
      let named (p : Page) : Bool := p.asid == t.desc.asid && decide (p.base < hi) && decide (lo < p.base + p.size) && !p.pins.isEmpty
      match s.unpinPages t.desc (s.pages.filter named) with
      | (u, none) => u.perform1 task t .ok 0
      | (u, some p) => u.perform1 task t .permission (BitVec.ofNat 64 (max lo p.base))
    | none => s)
/-- R325: whether a request that a hub unit has made for a use waits for its answer. -/
def State.hubWaits (s : State) (use : HubUse) : Bool := s.fabric.outstanding.any (fun e => e.2.hub == use)
/-- R247, R255, R325: a SIGNAL packet; one whose word a peer is home to runs until the answer. -/
def execSignalPacket (task : Nat) (s : State) : Out :=
  .next (match s.readyTask task 4 with
    | some t => match s.signalAdd (.packet task) t.desc (pkt t.packet 255 192) (BitVec.ofNat 64 (pkt t.packet 191 128)) with
      | .ok u => if u.hubWaits (.packet task) then { u with tasks := cput u.tasks task { t with state := .running } } else u.perform1 task t .ok 0
      | .error c => s.perform1 task t (clsOfCode c) (BitVec.ofNat 64 (pkt t.packet 255 192))
    | none => s)
/-- R247: a NOP packet. -/
def execNopPacket (task : Nat) (s : State) : Out :=
  .next (match s.readyTask task 5 with
    | some t => s.perform1 task t .ok 0
    | none => s)

/-! ### Retirement (R252, R260, R262, R264) -/

/-- R262: the bytes of a completion entry. -/
def entryBytes (cls : Cls) (e : Option ErrEvent) (count restarts time : Nat) : List Byte :=
  let v := e.getD (hubEvent .ok 0 0)
  leBytes 32 (clsCode cls + (if cls == .ok then 0 else count) * 2 ^ 16 + restarts % 256 * 2 ^ 32
    + (if cls == .ok || e.isNone then 0 else v.cause % 256 * 2 ^ 40 + v.unit % 65536 * 2 ^ 48 + v.pc % 2 ^ 17 * 2 ^ 64 + (if v.hub then 2 ^ 81 else 0)
        + v.strand % 16 * 2 ^ 92 + v.team % 2 ^ 32 * 2 ^ 96 + v.addr.toNat * 2 ^ 192)
    + time % 2 ^ 64 * 2 ^ 128)
/-- R262: the class of a launch: its tear-down's, else its earliest kill's, else OK. -/
def Launch.cls (l : Launch) : Cls := match l.torn, l.event with
  | some c, _ => c
  | .none, some e => e.cls
  | .none, .none => .ok
/-- R259, R325: whether a write that a launch made at a peer's home is unanswered, so that it may still become visible there. -/
def State.launchOwes (s : State) (lid : Nat) : Bool :=
  s.fabric.outstanding.any (fun e => e.2.launch == lid && e.2.req.op != .read && e.2.req.op != .check)
/-- R252, R259: a launch is done when every gang has been placed and no team is left, or when it is torn down and none of its stores can become visible
any more. -/
def State.launchDone (s : State) (lid : Nat) : Bool :=
  let l := s.launch lid
  (l.torn.isSome || (!l.unplaced && !(s.teams.any (fun e => e.2.launch == lid)))) && !(s.launchOwes lid)
/-- R252 step 1: the completion entry written, or MEVENT bit 7. -/
def State.writeEntry (s : State) (id : Nat) (t : Task) (c : Cls) (e : Option ErrEvent) (count restarts : Nat) : State :=
  let va := pkt t.packet 447 384
  if va = 0 || va % 32 != 0 then s
  else match s.hubWrite (.entry id) t.desc.asid t.desc.secure va (entryBytes c e count restarts s.time) with
    | .ok u => u
    | .error _ => s.mevent 7
/-- R252 step 2: −1 added to the completion signal, or MEVENT bit 7. -/
def State.signalDone (s : State) (id : Nat) (t : Task) : State :=
  let va := pkt t.packet 511 448
  if va = 0 || va % 8 != 0 then s
  else match s.signalAdd (.signal id) t.desc va 0xFFFFFFFFFFFFFFFF with
    | .ok u => u
    | .error _ => s.mevent 7
/-- R260: the tasks of a context. -/
def Task.inContext (t : Task) (part asid : Nat) : Bool := t.desc.part == part && t.desc.asid == asid
/-- R260 step 5: tear-downs whose entries and signals have all been written release the context's pins and blocks. -/
def State.endTearDowns (s : State) : State :=
  s.hub.tearing.foldl (fun (s : State) c =>
    if s.tasks.any (fun e => e.2.inContext c.1 c.2 && e.2.state != .expected) then s
    else
      let t := (s.pages.filter (fun p => p.asid == c.2 && p.pins.contains c.1)).foldl (fun (u : State) p => u.keepPins p (p.pins.filter (· != c.1))) s
      { t with
        tasks := t.tasks.filter (fun e => !(e.2.inContext c.1 c.2))
        hub := { t.hub with tearing := t.hub.tearing.filter (· != c) } }) s
/-- R252 steps 3 and 4: the successors' counts decremented, and the block and its launch gone. -/
def State.freeTask (s : State) (id : Nat) (t : Task) (c : Cls) : State :=
  let s0 := s.hubDone (3 * id + 1)
  let s1 := if t.poisoned && c == .queuePoison then s0 else t.succs.foldl (fun (u : State) j => u.decrement t.desc c j) s0
  { s1 with
    tasks := cdel s1.tasks id
    launches := match t.launch with | some k => cdel s1.launches k | none => s1.launches }.endTearDowns
/-- R252: the steps of a task's retirement, with its class; a step whose write goes to a peer's home is over with the answer (R325). -/
def State.retireTask (s : State) (id : Nat) (t : Task) (c : Cls) (e : Option ErrEvent) (count restarts : Nat) : State :=
  let paused (u : State) (n : Nat) : State := { u with tasks := cput u.tasks id { t with phase := n } }
  if s.hubWaits (.entry id) || s.hubWaits (.signal id) then s else
  let s1 := if t.phase = 0 then s.writeEntry id t c e count restarts else s
  if s1.hubWaits (.entry id) then paused s1 1 else
  let s2 := if t.phase ≤ 1 then s1.signalDone id t else s1
  if s2.hubWaits (.signal id) then paused s2 2 else s2.freeTask id t c
/-- R252, R259: a task that is done retires. -/
def execTaskRetirement (task : Nat) (s : State) : Out :=
  .next (match cfind s.tasks task with
    | none => s
    | some t => match t.state, t.launch with
      | .running, some k =>
        let l := s.launch k
        if s.launchDone k then s.retireTask task t l.cls l.event l.count l.restarts else s
      | .retiring, _ => s.retireTask task t t.cls t.event 0 0
      | _, _ => s)

/-! ### Tear-downs and errors (R259–R261, R264) -/

/-- R259, R304: a launch running longer than its partition's limit is torn down. -/
def execCommandTimeout (launch : Nat) (s : State) : Out :=
  let l := s.launch launch
  .next (match l.started with
    | some t =>
      let lim := (s.part l.part).cmdlimit
      if lim != 0 && l.torn.isNone && decide (t + 1000 * lim < s.time) then s.tearDown launch (hubEvent .timeout l.queue 0) else s
    | none => s)
/-- R260: whether MCMD OP 4 names a context: PART has granules and a queue of it holds the ASID (R321); a queue that was never written holds PART 0 and
ASID 0 (R244). -/
def State.contextOk (s : State) (part asid : Nat) : Bool :=
  granules (s.part part).pcfg != 0 && (s.queues.any (fun e => e.2.part == part && e.2.asid == asid)
    || (part == 0 && asid == 0 && decide (s.queues.length < 65536)))
/-- R260: a context torn down: its queues stopped, running launches aborted, unstarted tasks discarded. -/
def State.tearContext (s : State) (part asid : Nat) : State :=
  let s1 := { s with
    queues := cmap (fun _ q => if q.part == part && q.asid == asid then { q with enable := false } else q) s.queues
    hub := { s.hub with tearing := if s.hub.tearing.contains (part, asid) then s.hub.tearing else s.hub.tearing ++ [(part, asid)] } }
  let s2 := s1.launches.foldl (fun (u : State) e =>
    if e.2.part == part && e.2.asid == asid && e.2.started.isSome then u.tearDown e.1 (hubEvent .aborted e.2.queue 0) else u) s1
  let s3 : State := { s2 with tasks := cmap (fun _ (t : Task) => if t.inContext part asid && (t.state == TaskState.waiting || t.state == TaskState.ready)
      then t.refuse .discarded 0 else t) s2.tasks }
  s3.endTearDowns

/-- R61, R261: a team flushed and started again at its entry, its scratchpad as at any start (log 2). DESIGN CHOICE (log 125): the imem half of its core
and the selectors of its gang's segments stay as they stand. -/
def State.restartTeam (s : State) (tid : Nat) : State :=
  let mine := s.strands.filter (fun e => e.2.team == tid)
  let s1 := mine.foldl (fun (u : State) e =>
    let v := (if e.2.crit then u.endCrit e.1 e.2 else u).leaveCritWait e.1 e.2
    (v.unqueue e.1 (v.team tid).gang).putStrandAt e.1 (Strand.start tid e.2.idx e.2.replica e.2.sched e.2.slotNo (v.headerOf e.2))) s
  ((s1.onTeam tid (fun t => { t with sp := Planes.empty, cbs := [], place := t.place + 1, restarts := t.restarts + 1 })).acquire (s.team tid).core .pkg).onLaunch (s.team tid).launch
    (fun l => { l with restarts := min 255 (l.restarts + 1) })
/-- R261: an uncorrectable error in a core or in a team's cells. `retired` takes the core out of service. -/
def State.coreErrorAt (s : State) (tid : Nat) (retired : Bool) : State :=
  let t := s.team tid
  let s0 := if retired then s.onCore t.core (fun c => { c with retired := true }) else s
  match s0.strands.find? (fun e => e.2.team == tid) with
  | none => s0
  | some (_, st) =>
    if s0.level st != 0 then s0.ropeError st st.pc
    else if t.idemp && decide (t.restarts < 3) then
      let s1 := s0.restartTeam tid
      if retired then s1.onGang t.gang (fun g => { g with moving := some s.time }) else s1
    else (s0.strands.filter (fun e => e.2.team == tid && e.2.run == .running)).foldl (fun (u : State) e => u.killStrand e.1 .uncorrectable 0x12 e.2.pc 0) s0
/-- R261: a core error. -/
def execCoreError (team : Nat) (retired : Bool) (s : State) : Out :=
  .next (if (cfind s.teams team).isSome then s.coreErrorAt team retired else s)
/-- R264: an uncorrectable error in a task block. -/
def execGraphPoison (task : Nat) (s : State) : Out := .next (if (cfind s.tasks task).isSome then s.poisonGraph task else s)
/-- R264: an uncorrectable error in a queue's descriptor. -/
def execQueueDescriptorError (queue : Nat) (s : State) : Out :=
  let s1 := s.queueError queue
  .next { s1 with tasks := cmap (fun _ (t : Task) => if t.queue == queue && (t.state == TaskState.waiting || t.state == TaskState.ready)
    then t.refuse .queuePoison 0 else t) s1.tasks }

end Sys2Proof.Machine
end

