-- ==== Sys2Proof/Machine/Privileged.lean ====
section
/-!
DEFINITION. Privileged instructions (R93–R96, R289, R296–R298) and the exchange of a partition's contexts, which PFLIP and
firmware share. Under a rope the leader alone performs a SYSWR (R289), and so it does HALTC, PFLIP and TLBINV (log 23).
-/
namespace Sys2Proof.Machine

/-- R57, R296: an instruction of privileged strands. -/
def privileged (s : State) (f : Strand → Out) : Out :=
  onCur s (fun st => if s.privileged st then f st else trapCur s (Trap.atIssue st 0x02 0 0))
/-- R289, R291: what the leader of a rope performs alone, after the checks that every replica makes (log 23). -/
def leaderActs (s : State) (st : Strand) (k : Out) : Out := if st.replica != 0 then finish s st 0 else k

/-! ### System registers (R93, R297) -/

/-- R297: a partition that holds no granules is unconfigured. -/
def State.configured (s : State) (p : Nat) : Bool := granules (s.part p).pcfg != 0
/-- R297: the target partition of a partition. -/
def State.target (s : State) (p : Nat) : Nat := (s.part p).ptarget
/-- R297: PHASES. -/
def phasesWord (l : List Nat) : DWord := BitVec.ofNat 64 (((List.range 4).map (fun d => (l.getD d 16 - 1) * 2 ^ (4 * d))).foldl (· + ·) 0)
/-- R297: the value of a system register for a strand of team `tid` of partition `p`; none where the number names none. ROPEINJ is there
for the debug partition alone (log 24). -/
def State.sysValue (s : State) (p tid n : Nat) : Option DWord :=
  let t := s.target p
  let x := s.part t
  let w (v : Nat) : DWord := BitVec.ofNat 64 v
  match n with
  | 0x0010 => some (s.part p).pcfg
  | 0x0011 => some (w t)
  | 0x0100 => some (if s.configured t then x.pcfg else 0)
  | 0x0101 => some (w x.cmdlimit)
  | 0x0102 => some (w x.rank)
  | 0x0103 => some (w x.pcap)
  | 0x0104 => some (if s.configured t then w x.lim else 0)
  | 0x0105 => some (if s.configured t then s.throttle t else 0)
  | 0x0200 => some (w s.power.modlim)
  | 0x0201 => some (w s.power.uncore)
  | 0x0202 => some (phasesWord s.power.phases)
  | 0x0310 => if pcfgDebug (s.part p).pcfg then some (s.team tid).ropeinj else none
  | _ => none
/-- R297, R289: whether a value may be written to a system register, whatever the target partition; `debug`: by a strand of the debug
partition. -/
def sysFits (debug : Bool) (n k : Nat) : Bool :=
  match n with
  | 0x0011 => decide (k < 16)
  | 0x0101 => decide (k < 2 ^ 32)
  | 0x0102 => decide (k < 256)
  | 0x0103 => decide (50 ≤ k) && decide (k ≤ 3600)
  | 0x0200 => decide (600 ≤ k) && decide (k ≤ 3600)
  | 0x0310 => debug && bits k 44 36 = 0
  | _ => false
/-- R297, R289: a value written to a system register by a strand of team `tid` of partition `p`; none where it may not be. -/
def State.sysPut (s : State) (p tid n : Nat) (v : DWord) : Option State :=
  let t := s.target p
  let k := v.toNat
  let onTarget (f : Partition → Partition) : Option State := if s.configured t then some (s.onPart t f) else none
  if !(sysFits (pcfgDebug (s.part p).pcfg) n k) then none else
  match n with
  | 0x0011 => some (s.onPart p (fun x => { x with ptarget := k }))
  | 0x0101 => onTarget (fun x => { x with cmdlimit := k })
  | 0x0102 => onTarget (fun x => { x with rank := k })
  | 0x0103 => onTarget (fun x => { x with pcap := k })
  | 0x0200 => some { s with power := { s.power with modlim := k } }
  | 0x0310 => some (s.onTeam tid (fun x => { x with ropeinj := v }))
  | _ => none
/-- R93: the register number in a scalar. -/
def sysNumber (v : DWord) : Option Nat := if v.toNat / 2 ^ 16 = 0 then some v.toNat else none
/-- R93, R291: SYSRD. -/
def execSysrd (d a : Nat) (s : State) : Out :=
  privileged s (fun st =>
    sharedRead s st d ((sysNumber (st.getS a)).bind (s.sysValue (s.launchOf st).part st.team)) (st.getS a))
/-- R93, R291: SYSWR. A replica that is no leader does nothing. -/
def execSyswr (d a : Nat) (s : State) : Out :=
  privileged s (fun st =>
    if st.replica != 0 then finish s st 0
    else match (sysNumber (st.getS a)).bind (fun n => s.sysPut (s.launchOf st).part st.team n (st.getS d)) with
    | some t => finish t st 0
    | none => illegal s st (st.getS a))

/-! ### Halts (R94) -/

/-- R94: a stop asked of a core, unless it is halted or asked already. -/
def State.haltAsk (s : State) (c : Nat) : State :=
  s.onCore c (fun x => if x.halted || x.haltAsked.isSome then x else { x with haltAsked := some s.time })
/-- R94, R232: whether a critical strand still defers a stop asked at device time `t`. -/
def State.critHolds (s : State) (c t : Nat) : Bool :=
  decide (s.time < t + 100000) && s.strands.any (fun e => e.2.crit && s.coreOf e.2 == c && s.resident e.2)
/-- R256: a request that waits in the queues of a gang. -/
def MemReq.queues : MemReq → Bool
  | .qpush _ _ _ | .qpop _ _ _ => true
  | _ => false
/-- R200, R256: a strand that stops while it waits for a critical slot or at a gang queue, there or in its operand log, gives up its place: the
instruction is presented again on return. What it holds of peers' lines is fetched again (R190). -/
def State.waitAfresh (s : State) (i : Nat) (st : Strand) : State :=
  let queued := !st.committed && (((st.log.head?).map (·.req)).any MemReq.queues || st.presentedReq.any MemReq.queues)
  let s1 := (s.leaveCritWait i st).abandonReads i
  let s2 := if st.wait == .qpush || st.wait == .qpop || queued then s1.unqueue i (s.team st.team).gang else s1
  s2.onStrandAt i (fun x => { (if st.wait == .crit || st.wait == .qpush || st.wait == .qpop then { x.unissue with wait := .none } else x) with
    peerLines := [] })
/-- R280: whether the rope release of a strand has been matched and is still being performed by its leader. DESIGN CHOICE (log 128): a LAUNCH that
waits for room among 256 tasks does not hold a stop off. -/
def State.performing (s : State) (st : Strand) : Bool :=
  (s.leaderOf st).any (fun e => e.2.committed && !(match e.2.presented with
    | some (.release _ _ (.submit _ _ _)) => e.2.copied.isSome && decide (256 ≤ s.children (s.team e.2.team).launch)
    | _ => false))
/-- R190, R200, R280: whether a strand that works has still to finish what it has issued: an access that waits for a peer, the step of a TMMA pass
that waits for lines, or a matched release of a rope. -/
def State.finishing (s : State) (i : Nat) (st : Strand) : Bool :=
  s.resident st && (st.wait == .peer || st.wait == .line
    || s.fabric.outstanding.any (fun e => e.2.strand == i && (e.2.req.op != .read || e.2.report.isSome))
    || (!st.peerLines.isEmpty && st.nodes.any Node.running) || (s.level st != 0 && s.performing st))
/-- R94, R200: a core asked to stop is halted once no critical strand defers it and what has been issued is finished. -/
def State.haltTry (s : State) (c : Nat) : State :=
  match (s.core c).haltAsked with
  | some t => if s.critHolds c t || s.strands.any (fun e => s.coreOf e.2 == c && s.finishing e.1 e.2) then s else
      ((s.strands.filter (fun e => s.coreOf e.2 == c && s.resident e.2)).foldl (fun (u : State) e => u.waitAfresh e.1 e.2) s).onCore c
        (fun x => { x with halted := true, haltAsked := none })
  | none => s
/-- R94: HALTC. One that waits is done when its core has stopped, or has been resumed since. -/
def execHaltc (a : Nat) (s : State) : Out :=
  privileged s (fun st =>
    let v := (st.getS a).toNat
    let p := (s.launchOf st).part
    let t := s.target p
    if st.wait == .halt then
      let s1 := s.haltTry v
      if (s1.core v).halted || (s1.core v).haltAsked.isNone then finish s1 st 0 else .next s1
    else if v / 2 ^ 11 != 0 || t = p || !(s.configured t) || !(holdsGranule (s.part t).pcfg (granuleOf v)) then illegal s st 0
    else leaderActs s st (
      let s1 := (s.haltAsk v).haltTry v
      if (s1.core v).halted then finish s1 st 0 else .next (s1.putStrand { st with wait := .halt })))
/-- R232: a core whose stop CRIT defers. -/
def execCritDeferralExpiry (core : Nat) (s : State) : Out := .next (s.haltTry core)

/-! ### The exchange of contexts (R95, R298, R329) -/

/-- The teams of a partition. -/
def State.partTeams (s : State) (p : Nat) : List (Nat × Team) := s.teams.filter (fun e => (s.launch e.2.launch).part == p)
/-- The cores on which a partition has teams. -/
def State.partCores (s : State) (p : Nat) : List Nat := ((s.partTeams p).map (·.2.core)).eraseDups
/-- R95: a live transfer bound to a staging bank of the partition. -/
def State.stagingBusy (s : State) (p : Nat) : Bool :=
  (s.partTeams p).any (fun e => e.2.plane == (s.part p).plane && e.2.xfers.any (fun x => x.live && x.desc.stage.isSome))
/-- R147: a transfer of a team whose context leaves or enters the working planes. -/
def Xfer.exchange (x : Xfer) (working : Bool) : Xfer :=
  match x.state with
  | .suspended => if working then { x with state := if x.router.isSome then .running else .queued } else x
  | .queued | .running => if working then x else { x with state := .suspended }
  | _ => x
/-- R95, R201, R202: the planes of a partition exchanged and its cores resumed; `%place` rises for the teams that return. A launch whose context
leaves is no longer passed over (R329). -/
def State.exchangePlanes (s : State) (p : Nat) : State :=
  let now := !(s.part p).plane
  let pcfg := (s.part p).pcfg
  let s1 := s.onPart p (fun x => { x with plane := now })
  let s2 : State := { s1 with
    teams := cmap (fun _ t => if (s.launch t.launch).part != p then t else
      { t with place := if t.plane == now then t.place + 1 else t.place, xfers := t.xfers.map (fun x => x.exchange (t.plane == now)) }) s1.teams
    launches := cmap (fun _ l => if l.part == p && l.plane != now then { l with passedSince := none } else l) s1.launches
    cores := cmap (fun c x => if holdsGranule pcfg (granuleOf c) then { x with halted := false, haltAsked := none } else x) s1.cores }
  s2.settleSpills
/-- R298: an exchange asked for by a strand. -/
def State.ask (s : State) (p k : Nat) : State := s.onPart p (fun x => { x with requests := x.requests ++ [k] })
/-- R95, R298: the exchange asked for by `k` (a strand, or 0 for firmware) carried as far as it can go, and whether it has
been done: exchanges of one partition take their turns in order of arrival. -/
def State.exchangeTry (s : State) (p k : Nat) : State × Bool :=
  if (s.part p).requests.head? != some k then (s, false)
  else
    let s2 := (s.partCores p).foldl (fun (t : State) c => (t.haltAsk c).haltTry c) s
    if (s2.partCores p).any (fun c => !(s2.core c).halted) || s2.stagingBusy p then (s2, false)
    else ((s2.exchangePlanes p).onPart p (fun x => { x with requests := x.requests.drop 1 }), true)
/-- R95, R298: PFLIP. One that waits is done when the exchange it asked for has been made, whoever carried it out. -/
def execPflip (s : State) : Out :=
  privileged s (fun st =>
    let p := (s.launchOf st).part
    let t := s.target p
    if st.wait == .halt then match s.parts.find? (fun e => e.2.requests.contains s.cur) with
      | none => finish s st 0
      | some (q, _) => match s.exchangeTry q s.cur with
        | (s1, true) => finish s1 st 0
        | (s1, false) => .next s1
    else if t = p || !(s.configured t) then illegal s st 0
    else leaderActs s st (match (s.ask t s.cur).exchangeTry t s.cur with
      | (s1, true) => finish s1 st 0
      | (s1, false) => .next (s1.putStrand { st with wait := .halt })))

/-! ### TLBINV (R96) -/

/-- R96: whether a page is one that TLBINV names. -/
def tlbinvPage (asid : Nat) (b : DWord) (p : Page) : Bool :=
  p.asid == asid && (b == 0xFFFFFFFFFFFFFFFF || (decide (p.base ≤ b.toNat) && decide (b.toNat < p.base + p.size)))
/-- R96: translations invalidated module-wide; L1 lines of the pages leave, and running launches lose the pages whose
entries were removed. -/
def State.tlbinv (s : State) (asid : Nat) (b : DWord) : State :=
  let pages := s.pages.filter (tlbinvPage asid b)
  let named (e : Nat × Nat) : Bool := e.1 == asid && (b == 0xFFFFFFFFFFFFFFFF || pages.any (fun p => p.base == e.2))
  let removed := (s.clusters.flatMap (fun k => k.2.tlb.filter named)).eraseDups
  let s1 := { s with
    clusters := cmap (fun _ k => { k with tlb := k.tlb.filter (fun e => !(named e)) }) s.clusters
    launches := cmap (fun _ l => if l.asid == asid && l.started.isSome then { l with dropped := (l.dropped ++ removed).eraseDups } else l) s.launches }
  s1.cores.foldl (fun (t : State) c => c.2.l1.foldl (fun (t : State) l =>
    if l.asid == asid && pages.any (fun p => decide (p.base ≤ 128 * l.vline) && decide (128 * l.vline < p.base + p.size))
    then t.evict c.1 asid l.vline else t) t) s1
/-- R96: TLBINV. -/
def execTlbinv (a b : Nat) (s : State) : Out :=
  privileged s (fun st =>
    let v := (st.getS a).toNat
    if v / 2 ^ 16 != 0 then illegal s st 0 else leaderActs s st (finish (s.tlbinv v (st.getS b)) st 0))

end Sys2Proof.Machine
end

