-- ==== Sys2Proof/Machine/Management.lean ====
section
/-!
DEFINITION. The host port and the management block: BAR2 accesses (R316, R317), queue records (R244, R245), span records (R327),
context tear-down (R260), management registers (R321), TDISP and SPDM (R319, R320), reconfiguration (R295) and boot (R312–R314).
-/
namespace Sys2Proof.Machine

/-! ### Accesses of the host's functions (R293, R316, R317, R319) -/

/-- R319: the state of a virtual function's interface; unlisted ones are in CONFIG_UNLOCKED. -/
def State.tdispOf (s : State) (vf : Nat) : Tdisp := (cfind s.tdisp vf).getD .configUnlocked
/-- R319: LOCK freezes until the interface returns to CONFIG_UNLOCKED. -/
def State.locked (s : State) (vf : Nat) : Bool := s.tdispOf vf != .configUnlocked
/-- R319: the world of a function's access: its partition's where it arrives on the IDE stream that the function holds and its interface is in
RUN. -/
def State.hostSecure (s : State) (fn : Nat) (ide : Bool) : Bool :=
  fn != 0 && ide && member s.hub.ide fn && s.tdispOf (fn - 1) == .run && pcfgSecure (s.part (fn - 1)).pcfg
/-- R293: whether a physical address is backed. -/
def backed (pa : Nat) : Bool := decide (stackOf pa < 12) && decide (pa % 2 ^ 37 < 96000000000)
/-- R316: whether a BAR2 access of a function reaches `n` bytes from an offset. -/
def State.barOk (s : State) (fn : Nat) (ide : Bool) (pa n : Nat) : Bool :=
  let last := pa + n - 1
  let regions := (List.range (last / 2 ^ 21 + 1 - pa / 2 ^ 21)).map (pa / 2 ^ 21 + ·)
  s.vfExists fn && backed pa && backed last && stackOf pa == stackOf last
    && regions.all (fun r => (fn == 0 || cfind s.assigned r == some (fn - 1)) && s.worldOk (s.hostSecure fn ide) (r * 2 ^ 21))
/-! ### Queue descriptors (R244, R245) -/

/-- R244: the fields of a queue record; RIDX and ERROR are ignored. -/
def parseQueue (v : Nat) : Queue :=
  { Queue.zero with
    ring := BitVec.ofNat 64 (bits v 255 192), rptr := BitVec.ofNat 64 (bits v 191 128), asid := bits v 127 112, msix := bits v 111 100
    sigirq := bitAt v 99, secure := bitAt v 98, part := bits v 97 94, prio := bits v 93 90, slotlog := bits v 89 86, plane := bitAt v 85
    enable := bitAt v 0 }
/-- R244: a queue's descriptor as a record. -/
def Queue.record (q : Queue) : Nat :=
  let b (x : Bool) (k : Nat) : Nat := if x then 2 ^ k else 0
  q.ring.toNat * 2 ^ 192 + q.rptr.toNat * 2 ^ 128 + q.asid * 2 ^ 112 + q.msix * 2 ^ 100 + b q.sigirq 99 + b q.secure 98 + q.part * 2 ^ 94
    + q.prio * 2 ^ 90 + q.slotlog * 2 ^ 86 + b q.plane 85 + q.ridx.toNat * 2 ^ 32 + b q.error 1 + b q.enable 0
/-- R245, R260, R313, R319, R329: whether a record for queue `n` is valid. -/
def State.recordOk (s : State) (n v : Nat) : Bool :=
  let q := parseQueue v
  let old := s.queue n
  let frozen := s.locked q.part || s.locked old.part
  bits v 84 64 == 0 && bits v 31 2 == 0 && q.slotlog ≤ 12 && q.ring.toNat % 4096 == 0 && q.rptr.toNat % 8 == 0
    && granules (s.part q.part).pcfg != 0 && q.secure == pcfgSecure (s.part q.part).pcfg && q.msix < 256
    && s.queues.all (fun e => e.1 == n || !(e.2.enable && e.2.part == q.part && e.2.asid == q.asid) || e.2.plane == q.plane)
    && (!frozen || (q.asid == old.asid && q.part == old.part && q.secure == old.secure))
    && !(s.hub.tearing.contains (q.part, q.asid)) && (!s.boot.minimal || n < 64)
/-- R245: a valid record written: a queue that is not enabled is reset with it. -/
def State.writeQueue (s : State) (n v : Nat) : State :=
  (s.hubDone (3 * n)).onQueue n (fun o =>
    let q := parseQueue v
    if o.enable then { q with ridx := o.ridx, doorbell := o.doorbell, error := o.error, stopped := o.stopped, consumed := o.consumed, launches := o.launches }
    else { q with consumed := o.consumed, launches := o.launches })

/-! ### Span records (R327) -/

/-- R324, R327: whether a fabric id is the device's own or in its scope table. -/
def State.knowsDevice (s : State) (d : Nat) : Bool := d == s.fabric.id || (cfind s.fabric.hops d).isSome
/-- R327: the devices of a span record. -/
def spanDevs (v : Nat) : List Nat := (List.range (bits v 47 44 + 1)).map (fun j => bits v (12 * j + 75) (12 * j + 64))
/-- R327: whether a span record is valid. -/
def State.spanOk (s : State) (v : Nat) : Bool :=
  let devs := spanDevs v
  bits v 39 17 == 0 && decide (1 ≤ bits v 47 44) && decide (bits v 43 40 ≤ bits v 47 44) && devs.getD (bits v 43 40) 4096 == s.fabric.id
    && devs.all s.knowsDevice
/-- R327: a valid span record binds or unbinds its queue. -/
def State.writeSpan (s : State) (v : Nat) : State :=
  let n := bits v 15 0
  let spans := if bitAt v 16 then cput s.fabric.spans n { devs := spanDevs v, spanId := bits v 63 48, ndev := bits v 47 44, index := bits v 43 40 }
    else cdel s.fabric.spans n
  { s with fabric := { s.fabric with spans := spans } }

/-! ### The management block (R321) -/

/-- R321: the 32-byte record in MREC. -/
def State.mrecord (s : State) : Nat := (List.range 4).foldl (fun acc k => acc + (s.hub.mrec.getD k 0).toNat * 2 ^ (64 * k)) 0
/-- R321: a record placed in MREC. -/
def State.putRecord (s : State) (v : Nat) : State :=
  { s with hub := { s.hub with mrec := (List.range 4).map (fun k => BitVec.ofNat 64 (v / 2 ^ (64 * k))) } }
/-- R321: a command of MCMD performed, with its STATUS; an OP that names none is invalid (log 32). -/
def State.mcmd (s : State) (op part arg : Nat) : State :=
  let r : Option State := match op with
    | 1 => if s.recordOk arg s.mrecord then some (s.writeQueue arg s.mrecord) else none
    | 2 => some (s.putRecord (s.queue arg).record)
    | 3 => if s.spanOk s.mrecord then some (s.writeSpan s.mrecord) else none
    | 4 => if s.contextOk part arg then some (s.tearContext part arg) else none
    | _ => none
  let t := r.getD s
  { t with hub := { t.hub with mop := op, mpart := part, mqueue := arg, mstatus := if r.isSome then 0 else 1 } }
/-- R245, R321: MCMD OP 1. -/
def execQueueRecordWrite (queue : Nat) (s : State) : Out := .next (s.mcmd 1 0 queue)
/-- R321: MCMD OP 2. -/
def execQueueRecordRead (queue : Nat) (s : State) : Out := .next (s.mcmd 2 0 queue)
/-- R321, R327: MCMD OP 3. -/
def execSpanRecordWrite (s : State) : Out := .next (s.mcmd 3 0 0)
/-- R260, R321: MCMD OP 4. -/
def execContextTearDown (part asid : Nat) (s : State) : Out := .next (s.mcmd 4 part asid)
/-- R321: bits of MEVENT written as 1 are cleared. -/
def State.clearEvents (s : State) (mask : DWord) : State := { s with hub := { s.hub with mevent := s.hub.mevent &&& ~~~ mask } }
/-- R321: a write to MEVENT. -/
def execMeventClear (mask : DWord) (s : State) : Out := .next (s.clearEvents mask)
/-- R321, R297: a write to the management block; values out of range and writes to read-only registers are dropped, reserved
offsets are rejected (R316). -/
def State.writeRegister (s : State) (offset : Nat) (v : DWord) : State :=
  let k := v.toNat
  let t := s.hub.mtarget
  match offset with
  | 0x00 => { s with hub := { s.hub with mtarget := if k < 16 then k else t } }
  | 0x08 => if s.configured t && decide (k < 256) then s.onPart t (fun x => { x with rank := k }) else s
  | 0x10 => if s.configured t && decide (50 ≤ k) && decide (k ≤ 3600) then s.onPart t (fun x => { x with pcap := k }) else s
  | 0x18 | 0x20 | 0x38 => s
  | 0x28 => if 600 ≤ k && k ≤ 3600 then { s with power := { s.power with modlim := k } } else s
  | 0x30 => s.clearEvents v
  | 0x40 | 0x48 | 0x50 | 0x58 => { s with hub := { s.hub with mrec := s.hub.mrec.set ((offset - 0x40) / 8) v } }
  | 0x60 => s.mcmd (bits k 3 0) (bits k 7 4) (bits k 31 16)
  | _ => s.rejectAccess
/-- R321: the value a management register reads; reserved offsets have none. -/
def State.readRegister (s : State) (offset : Nat) : Option DWord :=
  let t := s.hub.mtarget
  let w (v : Nat) : DWord := BitVec.ofNat 64 v
  match offset with
  | 0x00 => some (w t)
  | 0x08 => some (w (s.part t).rank)
  | 0x10 => some (w (s.part t).pcap)
  | 0x18 => some (if s.configured t then w (s.part t).lim else 0)
  | 0x20 => some (if s.configured t then s.throttle t else 0)
  | 0x28 => some (w s.power.modlim)
  | 0x30 => some s.hub.mevent
  | 0x38 => some (w s.hub.mdiscard)
  | 0x40 | 0x48 | 0x50 | 0x58 => some (s.hub.mrec.getD ((offset - 0x40) / 8) 0)
  | 0x60 => some (w (s.hub.mstatus * 2 ^ 56 + s.hub.mqueue * 2 ^ 16 + s.hub.mpart * 2 ^ 4 + s.hub.mop))
  | _ => none
/-- R321: a write to a management register. -/
def execRegisterWrite (offset : Nat) (value : DWord) (s : State) : Out := .next (s.writeRegister offset value)
/-- R321: ARP and neighbour discovery are answered on the port; every other frame is dropped. -/
def execManagementPortFrame (_kind : FrameKind) (s : State) : Out := .next s

/-! ### BAR0 and BAR2 (R244, R315–R317) -/

/-- R316: what an access at an offset of BAR0 reaches: a notify register, a management register, or words of the MSI-X structures. -/
inductive Bar0 where
  | notify (queue : Nat)
  | block (offset : Nat)
  | table (word : Nat)
  | pending (word : Nat)
  deriving DecidableEq, Repr
/-- R316: what an access of `n` bytes reaches, none where it is rejected: a notify register takes 4 bytes, a management register 8, an MSI-X
structure aligned 4 or 8 (log 97). -/
def bar0At (fn off n : Nat) : Option Bar0 :=
  let table := if fn = 0 then 0x200000 else 0x80000
  let pba := if fn = 0 then 0x210000 else 0x81000
  let vectors := if fn = 0 then 4096 else 256
  let words := off % n == 0 && (n == 4 || n == 8)
  if off < 0x80000 then (if off % 8 = 0 ∧ n = 4 then some (.notify (off / 8)) else none)
  else if fn = 0 && decide (0x100000 ≤ off) && decide (off < 0x100100) then (if off % 8 = 0 ∧ n = 8 then some (.block (off - 0x100000)) else none)
  else if words && decide (table ≤ off) && decide (off < table + 16 * vectors) then some (.table ((off - table) / 4))
  else if words && decide (pba ≤ off) && decide (off < pba + vectors / 8) then some (.pending ((off - pba) / 4))
  else none
/-- A word of an MSI-X table entry (log 97). -/
def MsixEntry.word (e : MsixEntry) (k : Nat) : Word := match k with
  | 0 => BitVec.ofNat 32 e.addr.toNat
  | 1 => BitVec.ofNat 32 (e.addr.toNat / 2 ^ 32)
  | 2 => e.data
  | _ => if e.masked then 1 else 0
/-- A word of an MSI-X table entry written. -/
def MsixEntry.putWord (e : MsixEntry) (k : Nat) (v : Word) : MsixEntry := match k with
  | 0 => { e with addr := BitVec.ofNat 64 (e.addr.toNat / 2 ^ 32 * 2 ^ 32 + v.toNat) }
  | 1 => { e with addr := BitVec.ofNat 64 (v.toNat * 2 ^ 32 + e.addr.toNat % 2 ^ 32) }
  | 2 => { e with data := v }
  | _ => { e with masked := v.getLsbD 0 }
/-- A word of a function's MSI-X table written; an entry that is no longer masked sends what is pending. -/
def State.putMsix (s : State) (fn word : Nat) (v : Word) : State :=
  let k := 4096 * fn + word / 4
  let e := (s.msixEntry fn (word / 4)).putWord (word % 4) v
  let t : State := { s with hub := { s.hub with msixTable := cput s.hub.msixTable k e } }
  if !e.masked && member t.hub.msixPending k then
    ({ t with hub := { t.hub with msixPending := setErase t.hub.msixPending k } } : State).sendMsix fn (word / 4)
  else t
/-- A word of a function's pending-bit array. -/
def State.pendingWord (s : State) (fn word : Nat) : Word :=
  BitVec.ofNat 32 (((List.range 32).map (fun i => if member s.hub.msixPending (4096 * fn + 32 * word + i) then 2 ^ i else 0)).foldl (· + ·) 0)
/-- The 4-byte words that bytes form. -/
def wordsOf (bytes : List Byte) : List Word := (List.range (bytes.length / 4)).map (fun i => BitVec.ofNat 32 (leNat ((bytes.drop (4 * i)).take 4)))
/-- R244, R316, R321: a write to BAR0; the pending-bit array is not written. -/
def State.bar0Write (s : State) (fn off : Nat) (bytes : List Byte) : State :=
  if !(s.vfExists fn) then s.rejectAccess else
  match bar0At fn off bytes.length with
  | some (.notify q) => if s.notifyOk fn q then s.onQueue q (fun x => { x with doorbell := BitVec.ofNat 32 (leNat bytes), stopped := false }) else s.rejectAccess
  | some (.block o) => s.writeRegister o (BitVec.ofNat 64 (leNat bytes))
  | some (.table w) => ((List.range (bytes.length / 4)).zip (wordsOf bytes)).foldl (fun (t : State) e => t.putMsix fn (w + e.1) e.2) s
  | some (.pending _) => s
  | none => s.rejectAccess
/-- R244, R316, R321: the bytes that a read of BAR0 returns, none where it is rejected. A notify register reads RIDX. -/
def State.bar0Read (s : State) (fn off n : Nat) : Option (List Byte) :=
  if !(s.vfExists fn) then none else
  match bar0At fn off n with
  | some (.notify q) => if s.notifyOk fn q then some (leBytes 4 (s.queue q).ridx.toNat) else none
  | some (.block o) => (s.readRegister o).map (fun v => leBytes 8 v.toNat)
  | some (.table w) => some ((List.range (n / 4)).flatMap (fun i => leBytes 4 ((s.msixEntry fn ((w + i) / 4)).word ((w + i) % 4)).toNat))
  | some (.pending w) => some ((List.range (n / 4)).flatMap (fun i => leBytes 4 (s.pendingWord fn (w + i)).toNat))
  | none => none
/-- The completion of a host read. -/
def State.complete1 (s : State) (data : List Byte) (poisoned : Bool) : State :=
  { s with hub := { s.hub with reads := s.hub.reads ++ [{ data := data, poisoned := poisoned }] } }
/-- R316, R317: a memory write TLP; one above the maximum payload (R315) is malformed and dropped (log 97). -/
def execHostMemoryWrite (fn : Nat) (ide : Bool) (at' : HostAddr) (bytes : List Byte) (s : State) : Out :=
  .next (if 512 < bytes.length then s else match at' with
    | .bar0 off => s.bar0Write fn off bytes
    | .bar2 pa => if s.barOk fn ide pa bytes.length then s.homeStore pa bytes else s.rejectAccess)
/-- R316, R317: a memory read TLP; its completion is recorded, poisoned where a sector it reads is (R292). -/
def execHostMemoryRead (fn : Nat) (ide : Bool) (at' : HostAddr) (n : Nat) (s : State) : Out :=
  .next (match at' with
    | .bar0 off => match s.bar0Read fn off n with
      | some b => s.complete1 b false
      | none => s.rejectAccess
    | .bar2 pa => if s.barOk fn ide pa n then
        let r := s.homeLoad pa n
        r.2.complete1 r.1 ((List.range n).any (fun i => s.poisoned (pa + i)))
      else s.rejectAccess)

/-! ### TDISP and SPDM (R319, R320) -/

/-- R319: LOCK. -/
def execTdispLock (vf : Nat) (s : State) : Out :=
  .next (if s.vfExists (vf + 1) && s.tdispOf vf == .configUnlocked then { s with tdisp := cput s.tdisp vf .configLocked } else s)
/-- R319: a locked interface enters RUN. -/
def execTdispRun (vf : Nat) (s : State) : Out :=
  .next (if s.tdispOf vf == .configLocked then { s with tdisp := cput s.tdisp vf .run } else s)
/-- R319: the interface returns to CONFIG_UNLOCKED. -/
def execTdispConfigUnlocked (vf : Nat) (s : State) : Out := .next { s with tdisp := cdel s.tdisp vf }
/-- R319: ERROR set in every queue of a partition; a queue that was never written has PART 0. -/
def State.errorQueues (s : State) (part : Nat) : State :=
  let t := (s.queues.filter (fun e => e.2.part == part)).foldl (fun (u : State) e => u.queueError e.1) s
  if part != 0 || 65536 ≤ t.queues.length then t
  else ({ t with queues := (List.range 65536).map (fun n => (n, (cfind t.queues n).getD { Queue.zero with error := true })) } : State).mevent 6
/-- R319: a locked or running interface moves to ERROR (log 33). -/
def execTdispError (vf : Nat) (s : State) : Out :=
  .next (if s.tdispOf vf == .configUnlocked || s.tdispOf vf == .error then s
    else
      let s1 := { s with tdisp := cput s.tdisp vf .error }
      let s2 := s1.errorQueues vf
      let s3 := s2.launches.foldl (fun (u : State) e =>
        if e.2.part == vf && e.2.started.isSome then u.tearDown e.1 (hubEvent .aborted e.2.queue 0) else u) s2
      s3.mevent 4)
/-- R313: a start under way at device time `now`: a stage that ends well is followed by the next; how long one takes is left open (log 92). -/
def Boot.passStage (b : Boot) (now : Nat) : Boot :=
  if b.starting && decide (1 ≤ b.stage) && decide (b.stage < 5) && Config.stagePassed b.stage (now - b.since) then { b with stage := b.stage + 1 } else b
/-- R314: the boot status register. -/
def Boot.status (b : Boot) : DWord :=
  BitVec.ofNat 64 (b.reason * 2 ^ 24 + b.stage * 2 ^ 20 + min 15 b.fails * 2 ^ 16 + (if b.minimal then 2 else 0) + (if b.ready then 1 else 0))
/-- R320: what a measurement block measures. -/
def State.measured (s : State) (index : Nat) : List DWord := match index with
  | 1 => Config.romImage
  | 2 => match s.boot.image with
    | some im => BitVec.ofNat 64 im.version :: im.firmware
    | none => []
  | 3 => [BitVec.ofNat 64 s.boot.counter]
  | 4 => (List.range 16).map (fun p => (s.part p).pcfg)
  | _ => [s.boot.status]
/-- R320: what a request for a measurement block is answered; index 0 asks for their number (log 33), and there is no block above 5. -/
def State.measurement (s : State) (index : Nat) : List Byte :=
  if index = 0 then [5] else if 5 < index then [] else Config.measure index (s.measured index)
/-- An SPDM answer sent. -/
def State.answer (s : State) (a : List Byte) : State := { s with hub := { s.hub with answers := s.hub.answers ++ [a] } }
/-- R320: an answer with its signature. -/
def State.signedAnswer (s : State) (a : List Byte) : State := { s.answer (a ++ Config.spdmSign s.fresh a) with fresh := s.fresh + 1 }
/-- R319, R320: an SPDM request over DOE answered; an IDE stream is keyed through the session (log 33). -/
def execSpdmRequest (ask : SpdmAsk) (s : State) : Out := .next (match ask with
  | .measurement index signed => if signed then s.signedAnswer (s.measurement index) else s.answer (s.measurement index)
  | .certificate => s.answer Config.certificateChain
  | .challenge nonce => s.signedAnswer nonce
  | .ideStart fn => if s.vfExists fn then { s with hub := { s.hub with ide := setInsert s.hub.ide fn } } else s
  | .ideStop fn => { s with hub := { s.hub with ide := setErase s.hub.ide fn } })

/-! ### Partitions configured (R295, R260) -/

/-- R295, R297: a partition as it is configured: the caps and ranks are the image's (log 34). -/
def freshPart (im : Option Image) (pcfg : DWord) : Nat × Partition :=
  let p := bits pcfg.toNat 3 0
  let cap := (im.map (fun x => x.pcaps.getD p 3600)).getD 3600
  (p, { Partition.none with pcfg := pcfg, pcap := cap, lim := cap, cause := 2, rank := (im.map (fun x => x.ranks.getD p 0)).getD 0 })
/-- R295: two configurations that may stand beside each other. -/
def apart (a b : DWord) : Bool :=
  let r := taskRange a
  let q := taskRange b
  granules a == 0 || granules b == 0
    || (granules a &&& granules b == 0 && (decide (r.1 + r.2 ≤ q.1) || decide (q.1 + q.2 ≤ r.1)) && !(pcfgDebug a && pcfgDebug b))
/-- R295: a configuration's own form. -/
def pcfgOk (a : DWord) : Bool :=
  bits a.toNat 7 6 == 0 && decide (1 ≤ bits a.toNat 16 9) && bits a.toNat 16 9 ≤ 128 && (!(pcfgDebug a) || pcfgPriv a)
    && bits a.toNat 33 17 + 1024 * bits a.toNat 16 9 ≤ 131072
/-- R295: the configurations after a change, in partition order. -/
def State.layout (s : State) (cfgs : List DWord) : List DWord := (List.range 16).map (fun p =>
  (cfgs.find? (fun a => bits a.toNat 3 0 == p)).getD (s.part p).pcfg)
/-- R295, R313, R319: whether firmware may make a change: no minimal mode, one configuration a partition, its form, no command placed on a partition it changes, none of them
locked. -/
def State.layoutOk (s : State) (cfgs : List DWord) : Bool :=
  let all := s.layout cfgs
  !s.boot.minimal && (cfgs.map (fun a => bits a.toNat 3 0)).eraseDups.length == cfgs.length && cfgs.all (fun a => granules a == 0 || pcfgOk a)
    && (List.range 16).all (fun i => (List.range i).all (fun j => apart (all.getD i 0) (all.getD j 0)))
    && cfgs.all (fun a =>
      let p := bits a.toNat 3 0
      (s.part p).pcfg == a || (!(s.locked p) && !(s.launches.any (fun e => e.2.part == p && e.2.started.isSome))))
/-- R316: the regions that firmware assigns to partitions (log 6). -/
def State.assignedBy (fresh : Nat) : Cells Nat := (Config.regionsAssigned fresh).foldl (fun m e => cput m e.1 (e.2 % 16)) []
/-- R299, R319: firmware sets the world bits of the 2 MiB regions that no pin covers and no locked interface freezes, and assigns regions (log 6). -/
def State.setWorlds (s : State) : State :=
  let pinned (r : Nat) : Bool := s.pages.any (fun p => !p.pins.isEmpty && (match p.frame with
    | some f => decide (f / 2 ^ 21 ≤ r) && decide (r ≤ (f + p.size - 1) / 2 ^ 21)
    | none => false))
  let frozen (r : Nat) : Bool := (cfind s.assigned r).any s.locked
  { s with secure := (Config.regionsSet s.fresh).foldl (fun l r => if pinned r.1 || frozen r.1 then l else if r.2 then setInsert l r.1 else setErase l r.1) s.secure
           assigned := State.assignedBy s.fresh, fresh := s.fresh + 1 }
/-- R260: the address spaces of a partition's contexts: those that its queues name, or that tasks, launches or pins of it still hold. -/
def State.contextsOf (s : State) (part : Nat) : List Nat :=
  ((s.queues.filter (fun e => e.2.part == part)).map (fun e => e.2.asid)
    ++ (s.tasks.filter (fun e => e.2.desc.part == part)).map (fun e => e.2.desc.asid)
    ++ (s.launches.filter (fun e => e.2.part == part)).map (fun e => e.2.asid)
    ++ (s.pages.filter (fun p => p.pins.contains part)).map (fun p => p.asid)).eraseDups
/-- R260, R295: partitions reconfigured: those that change are reset, and with them their contexts. -/
def State.reconfigure (s : State) (cfgs : List DWord) : State :=
  let changed := cfgs.filter (fun a => (s.part (bits a.toNat 3 0)).pcfg != a)
  changed.foldl (fun (u : State) a =>
    let p := bits a.toNat 3 0
    let asids := u.contextsOf p
    let v := asids.foldl (fun (x : State) k => x.tearContext p k) u
    let f := freshPart s.boot.image a
    ({ v with parts := if granules a = 0 then cdel v.parts p else cput v.parts p f.2 } : State).trimL2) s
/-- R295: a reconfiguration. -/
def execPartitionReconfiguration (cfgs : List DWord) (s : State) : Out := .next (if s.layoutOk cfgs then (s.reconfigure cfgs).setWorlds else s)

/-! ### Boot (R312–R314, R324) -/

/-- R312: the image that starts: the highest version that verifies and is not below the counter. -/
def Boot.pick (b : Boot) : Option Image :=
  (b.slots.filter (fun im => im.verifies && decide (b.counter ≤ im.version))).foldl (fun (acc : Option Image) im => match acc with
    | some x => if x.version < im.version then some im else acc
    | none => some im) none
/-- R313: the partition of minimal mode: the two granules of a cluster and its die's stacks. -/
def minimalCfg (k : Nat) : DWord := BitVec.ofNat 64 (3 * 2 ^ (48 + 2 * k) + 7 * 2 ^ (36 + 3 * (k / 2)) + 2 ^ 9)
/-- R295: the configurations of an image that may stand: each well formed and apart from those before it (log 91). -/
def soundCfgs (cfgs : List DWord) : List DWord :=
  cfgs.foldl (fun acc a => if granules a != 0 && pcfgOk a && acc.all (fun b => apart a b && bits a.toNat 3 0 != bits b.toNat 3 0) then acc ++ [a] else acc) []
/-- R324: the scope table of a device with an id: the hop distances of the devices that firmware found, whose ids differ from it. -/
def hopsBut (id : Nat) (found : List (Nat × Nat)) : Cells Nat :=
  (found.filter (fun e => e.1 % 4096 != id)).foldl (fun m e => cput m (e.1 % 4096) e.2) []
/-- R312, R324: the module after a reset that starts `im`, or minimal mode: volatile state as after reset; the fabric as firmware
discovers it. -/
def State.restart (s : State) (b : Boot) (im : Option Image) (cfgs : List DWord) : State :=
  { State.reset with
    turns := s.turns, fresh := s.fresh + 1, time := s.time, nextId := s.nextId, boot := b
    parts := (soundCfgs cfgs).foldl (fun m a => cput m (freshPart im a).1 (freshPart im a).2) []
    secure := ((Config.regionsSet s.fresh).filter (·.2)).foldl (fun l r => setInsert l r.1) []
    assigned := State.assignedBy s.fresh
    power := { Power.reset with modlim := (im.map (·.modlim)).getD 3600 }
    fabric := match im with
      | some x => { Fabric.reset with
          id := (Config.fabricId s.fresh).toNat, hops := hopsBut (Config.fabricId s.fresh).toNat (Config.fabricHops s.fresh)
          imports := (Config.importTable s.fresh).take 256, timeSource := x.timeSource
          ports := (List.range 16).map (fun k => (k, { up := true, retraining := none, rxSeq := 0, txSeq := 0, acked := 0, seen := 0, replays := 0, resends := 0, sent := [], wire := [], received := [], credits := [0, 0, 0], delay := 0 })) }
      | none => Fabric.reset }
/-- R313: a start that fails, with REASON and the stage it reached; nothing runs until the next reset. -/
def State.failStart (s : State) (reason stage : Nat) : State :=
  { s with parts := [], boot := { s.boot with reason := reason, stage := stage, fails := s.boot.fails + 1, starting := false, ready := false, image := none } }
/-- R312, R313: a reset: the slots verified, or minimal mode after three failed starts until a new image or RETRY. -/
def State.resetModule (s : State) : State :=
  let b := s.boot
  let b0 := { b with starting := true, ready := false, since := s.time, newImage := false, stage := 0, image := none }
  if (b.minimal || 3 ≤ b.fails) && !b.newImage then
    s.restart { b0 with minimal := true, stage := 1 } none [minimalCfg (Config.healthyCluster s.fresh).val]
  else match b.pick with
    | some im => s.restart { b0 with minimal := false, stage := 1, image := some im } (some im) im.partitions
    | none => (s.restart { b0 with minimal := false } none []).failStart (if b.slots.any (·.verifies) then 2 else 1) 1
/-- R312: the module is reset. -/
def execModuleReset (s : State) : Out := .next s.resetModule
/-- R314: RETRY clears FAILS and resets the module out of minimal mode. -/
def execBootRetry (s : State) : Out := .next { s with boot := { s.boot with fails := 0, minimal := false } }.resetModule
/-- R313: firmware, which the last stage starts, reports READY. -/
def execFirmwareReady (s : State) : Out :=
  .next (if s.boot.starting && s.boot.stage == 5 then { s with boot := { s.boot with starting := false, ready := true, stage := 5, fails := 0 } } else s)
/-- R313: firmware has not reported READY within 60 s. -/
def execStartTimeout (s : State) : Out :=
  .next (if s.boot.starting && decide (s.boot.since + 60000000000 ≤ s.time) then s.failStart 6 s.boot.stage else s)
/-- R313, R314: whether a REASON can be that of a failure in a stage: image verification, memory training, die-link training, core self-test; the
regulator and heat in any. -/
def failsIn (stage reason : Nat) : Bool := match reason with
  | 1 | 2 => stage == 1
  | 3 => stage == 2
  | 4 => stage == 3
  | 5 => stage == 4
  | 7 | 8 => true
  | _ => false
/-- R313: the stage that a start has reached fails. -/
def execStartStageFailure (reason : Nat) (s : State) : Out :=
  .next (if s.boot.starting && failsIn s.boot.stage reason then s.failStart reason s.boot.stage else s)
/-- R312: the slot a new image takes: a free one, else that of the lower version (log 35). -/
def putImage (l : List Image) (im : Image) : List Image := match l with
  | [a, b] => if a.version ≤ b.version then [im, b] else [a, im]
  | _ => l ++ [im]
/-- R313: the diagnostics firmware writes a new image in minimal mode. -/
def execNewImageWrite (image : Image) (s : State) : Out :=
  .next (if s.boot.minimal && s.boot.ready then { s with boot := { s.boot with slots := putImage s.boot.slots image, newImage := true } } else s)

end Sys2Proof.Machine
end

