-- ==== Sys2Proof/Machine/Fabric.lean ====
section
/-!
DEFINITION. The Jalino fabric: flits and links (R322, R323), peer requests and responses (R325), device time (R326), launches
that span devices (R327, R328).
-/
namespace Sys2Proof.Machine

/-! ### Flits and links (R322, R323) -/

/-- R322: CRC-16 with polynomial 0x1021 and initial value 0xFFFF, each byte's most significant bit first (log 36). -/
def crc16 (bs : List Byte) : Half :=
  bs.foldl (fun c b => (List.range 8).foldl (fun (c : Half) i => if c.getLsbD 15 != b.getLsbD (7 - i) then (c <<< 1) ^^^ 0x1021 else c <<< 1) c) 0xFFFF
/-- R322: the header of a flit, bytes 0 to 7. -/
def flitHeader (f : List Byte) : Nat := leNat (f.take 8)
/-- R322: the flit with its CRC field zero. -/
def flitClear (f : List Byte) : List Byte := f.take 6 ++ [0, 0] ++ f.drop 8
/-- R322, R323: a good CRC, no reserved KIND and no reserved VC. -/
def flitOk (f : List Byte) : Bool :=
  let h := flitHeader f
  bits h 63 48 == (crc16 (flitClear f)).toNat && bits h 29 26 ≤ 4 && bits h 31 30 != 3
/-- A Jalino port changed, where it exists. -/
def State.onPort (s : State) (k : Nat) (f : Port → Port) : State :=
  match cfind s.fabric.ports k with
  | some p => { s with fabric := { s.fabric with ports := cput s.fabric.ports k (f p) } }
  | none => s
/-- R323: the port replays, from the first unacknowledged SEQ on, the flits that it has sent; the eighth time in a row the link retrains. -/
def Port.replay (p : Port) (now : Nat) : Port :=
  { p with wire := p.wire ++ p.sent, resends := p.resends + 1, retraining := if 8 ≤ p.resends + 1 then some now else p.retraining }
/-- R322, R323: what a flit's ACK and CREDITS fields say. An ACK that moves on ends a row of replays; one that does not, while flits stand
unacknowledged, makes the port replay them (log 112). -/
def Port.acknowledge (p : Port) (now h : Nat) : Port :=
  let n := (bits h 47 40 + 256 - p.acked) % 256
  let p1 := { p with credits := p.credits.set (bits h 17 16) (p.credits.getD (bits h 17 16) 0 + bits h 25 18) }
  if n = 0 then (if p.sent.isEmpty then p1 else p1.replay now)
  else if n ≤ p.sent.length then { p1 with acked := bits h 47 40, sent := p.sent.drop n, resends := 0 }
  else p1
/-- R323: a flit arrives at a port: a bad one is dropped; the next in sequence is delivered once; another is dropped. Where its SEQ does not move on from
that of the last good flit, the neighbour has begun a replay; the eighth in a row without progress makes the link retrain (log 112). -/
def Port.receive (p : Port) (now : Nat) (f : List Byte) : Port :=
  if !p.up || p.retraining.isSome || !flitOk f then p
  else
    let h := flitHeader f
    let seq := bits h 39 32
    let on := (seq + 256 - p.seen) % 256
    if seq = (p.rxSeq + 1) % 256 then { (p.acknowledge now h) with rxSeq := seq, seen := seq, replays := 0, received := p.received ++ [f] }
    else if 1 ≤ on && on ≤ 127 then { p with seen := seq }
    else { p with seen := seq, replays := p.replays + 1, retraining := if 8 ≤ p.replays + 1 then some now else none }
/-- R323: a flit is received. -/
def execFlitReceive (port : Nat) (flit : List Byte) (s : State) : Out := .next (s.onPort port (fun p => p.receive s.time flit))
/-- R323: retraining ends within its millisecond; what is unacknowledged is sent again. -/
def execLinkRetrained (port : Nat) (s : State) : Out :=
  .next (s.onPort port (fun p => match p.retraining with
    | some t => if s.time < t + 1000000 then { p with retraining := none, seen := p.rxSeq, replays := 0, resends := 0, wire := p.wire ++ p.sent } else p
    | none => p))
/-- R323: a link that has not retrained within 1 ms is down. -/
def execLinkRetrainTimeout (port : Nat) (s : State) : Out :=
  .next (match (cfind s.fabric.ports port).bind (·.retraining) with
    | some t => if t + 1000000 ≤ s.time then (s.onPort port (fun p => { p with up := false, retraining := none })).mevent 3 else s
    | none => s)

/-! ### Peer requests at their requester (R323, R325) -/

/-- An outstanding request removed. -/
def State.closeRequest (s : State) (tag : Nat) : State := { s with fabric := { s.fabric with outstanding := cdel s.fabric.outstanding tag } }
/-- The launch of a request that no strand or transfer waits for: the one named, else the first started one of its address space
(log 37). -/
def State.requestLaunch (s : State) (o : PeerOut) : Option Nat :=
  if o.launch != 0 then some o.launch else (s.launches.find? (fun e => e.2.asid == o.req.asid && e.2.started.isSome)).map (·.1)
/-- R325: the additions of a hub unit done at a peer's home: the interrupt where the sum is 0 and not poisoned (R255). -/
def State.signalled (s : State) (qd : Queue) (r : PeerResp) : State :=
  if r.mask != 0 && r.words.getD 0 0 == 0 && r.words.getD 1 0 == 0 && qd.sigirq then s.raiseMsix qd else s
/-- R325: a line of a peer's home delivered to a user of the hub, or the code of its failure. -/
def State.hubLine (s : State) (user : Nat) (o : PeerOut) (words : Cells Word) (fail : Nat) : State :=
  let l : HubLine := { user := user, asid := o.req.asid, secure := o.req.secure, line := o.req.line, words := words, fail := fail }
  { s with hub := { s.hub with lines := s.hub.lines ++ [l] } }
/-- R246, R252, R325, R323: a request of a hub unit fails: a ring's stops its queue, an entry or a signal at retirement is skipped (MEVENT bit 7), a SIGNAL
packet completes with the class, a read fails where its line is used. -/
def State.failHub (s : State) (o : PeerOut) (cls : Cls) (code : Nat) : State :=
  match o.hub with
  | .none | .dropped => s
  | .read user => s.hubLine user o [] (if code = 0 then 1 else code)
  | .ring queue => s.queueError queue
  | .entry _ | .signal _ => s.mevent 7
  | .packet task => match cfind s.tasks task with
    | some t => s.perform1 task t cls o.vaddr
    | none => s
/-- R325, R323: a request fails: fatal to its command, with the class, the PC and the address reported there. A walker that finds its source
poisoned takes it as poisoned data (R136); a line that node work needs ends the command (R166, log 48), and a transfer whose request is not answered
writes no record (R259). Where nothing waits, the event is that of the instruction that made the request, where it is known; a read that is waited for no
more has no consumer of poison. -/
def State.failRequest (s : State) (o : PeerOut) (cls : Cls) (code : Nat) : State :=
  let whole : State := match s.requestLaunch o with
    | some k => s.tearDown k (match o.report with
      | some e => { e with cls := cls, addr := o.vaddr, cause := code }
      | none => hubEvent cls (s.launch k).queue o.vaddr)
    | none => s
  if o.hub == .dropped then (if code = 0x12 || o.launch = 0 then s else whole)
  else if o.hub != .none then s.failHub o cls code else
  match o.xfer with
  | some (tid, id) => match s.xferOf tid id with
    | some x =>
      if !x.live then s.tearDown (s.team tid).launch (s.xferEvent tid x cls code o.vaddr)
      else if code = 0 then s.xferEnd tid { x with failAddr := o.vaddr } .fault false (some (s.xferEvent tid x cls 0 o.vaddr))
      else s.xferFault tid x code (o.places.headD x.done) o.vaddr
    | none => whole
  | none => match s.strandAt o.strand with
    | some st =>
      let app := (o.report.map (fun e => e.pc)).getD st.reqPc
      if code = 0 || (code = 0x12 && o.report.isSome && s.level st = 0) then s.tearDown (s.team st.team).launch (s.errorEvent st cls code app o.vaddr)
      else s.fatalAt o.strand code st.reqPc app o.vaddr
    | none => whole
/-- R323: a request unanswered for 1 ms. -/
def execRequestTimeout (tag : Nat) (s : State) : Out :=
  .next (match cfind s.fabric.outstanding tag with
    | some o => if o.sent + 1000000 ≤ s.time then (s.closeRequest tag).failRequest o .timeout 0 else s
    | none => s)
/-- The words of a response by number, those it delivers. -/
def respCells (r : PeerResp) : Cells Word :=
  ((List.range 32).filter (fun w => bits r.mask.toNat (4 * w + 3) (4 * w) == 15)).map (fun w => (w, r.words.getD w 0))
/-- R325, R53, R234: a peer's line filled into the L1 of the core that asked, at the access's class: the words delivered become VALID, those
the core has written apart. -/
def State.fillPeer (s : State) (a : Agent) (o : PeerOut) (ws : Cells Word) : State :=
  match s.page a.asid o.vaddr.toNat with
  | none => s
  | some p =>
    let r := s.makeRoom a.core { asid := a.asid, vline := o.vaddr.toNat / 128, pline := 0, peer := some o.home, readable := p.readable, writable := p.writable
                                 way := 0, rrip := 0, words := [] } false
    let put (acc : Cells L1Word) (e : Nat × Word) : Cells L1Word := match (cfind acc e.1).map L1Word.st with
      | some (.dirty _) => acc
      | _ => cput acc e.1 { st := .valid, data := e.2, poison := false, owner := 0, report := none }
    r.2.putLine a.core { r.1 with rrip := o.reuse, words := ws.foldl put r.1.words }
/-- R325: words of a line put beside what has been fetched of it. -/
def addWords (lines : Cells (Cells Word)) (line : Nat) (ws : Cells Word) : Cells (Cells Word) :=
  cput lines line (ws.foldl (fun m e => cput m e.1 e.2) (cget [] lines line))
/-- R325, R234–R236: the words that a response to a read delivers to the strand that waits. They fill the L1 of the core that asked unless an acquire or
a later response has overtaken the read; what its core has written to the line since is newer, and the strand asks again (log 107). -/
def State.deliver (s : State) (o : PeerOut) (ws : Cells Word) : State :=
  match s.strandAt o.strand with
  | none => s
  | some st =>
    if 2 ≤ o.stale then s else
    let t := if o.stale = 0 && o.core == some (s.viewCore st)
      then (s.fillPeer { s.agentOf st with core := s.viewCore st } o ws).overtake (s.viewCore st) (fun r => r.asid == o.req.asid && r.line == o.req.line) 1 else s
    t.onStrandAt o.strand (fun x => { x with peerLines := addWords x.peerLines o.req.line ws })
/-- R325: what a good response completes. -/
def State.takeResponse (s : State) (o : PeerOut) (r : PeerResp) : State :=
  match o.hub with
  | .read user => s.hubLine user o (respCells r) 0
  | .dropped | .ring _ | .entry _ => s
  | .signal task => match cfind s.tasks task with
    | some t => s.signalled t.desc r
    | none => s
  | .packet task => match cfind s.tasks task with
    | some t => (s.perform1 task t .ok 0).signalled t.desc r
    | none => s
  | .none =>
  match o.req.op with
  | .read => match o.xfer with
    | some (tid, id) => match s.xferOf tid id with
      | some x => s.putXfer tid { x with peerLines := addWords x.peerLines (o.vaddr.toNat / 128) (respCells r) }
      | none => s
    | none => s.deliver o (respCells r)
  | .store => match o.xfer with
    | some (tid, id) => match s.xferOf tid id with
      | some x => if !x.live then s else match s.beatRing tid x with
        | some b => s.beatDone tid x b
        | none => s
      | none => s
    | none => s
  | .atomic _ _ => match s.strandAt o.strand with
    | some st => s.putStrandAt o.strand { st with peerDone := st.peerDone ++ o.places.zip r.words }
    | none => s
  | .check => s.onStrandAt o.strand (fun st => { st with peerDone := st.peerDone ++ o.places.map (fun j => (j, 0)) })
  | .signal => s.signalled (s.launchDesc (s.launch o.launch)) r
  | .reduce _ => s
/-- R325: the failure a response names. -/
def statusFail : PeerStatus → Option (Cls × Nat)
  | .ok => none
  | .translation => some (.translation, 0x10)
  | .permission => some (.permission, 0x11)
  | .uncorrectable => some (.uncorrectable, 0x12)
/-- R325, R323: a response arrives; one whose request is no longer outstanding is discarded. -/
def execPeerResponse (resp : PeerResp) (s : State) : Out :=
  .next (match cfind s.fabric.outstanding resp.tag with
    | none => s
    | some o =>
      let s1 := s.closeRequest resp.tag
      match statusFail resp.status with
      | none => s1.takeResponse o resp
      | some (c, k) => match (if c == .uncorrectable && o.req.op == .read then o.xfer else none) with
        | some (tid, id) => match s1.xferOf tid id with
          | some x => s1.putXfer tid { x with
              peerLines := addWords x.peerLines (o.vaddr.toNat / 128) [(o.vaddr.toNat / 4 % 32, resp.words.getD (o.vaddr.toNat / 4 % 32) 0)]
              peerBad := setInsert x.peerBad (o.vaddr.toNat / 4) }
          | none => s1
        | none => s1.failRequest o c k)

/-! ### Peer requests at their home (R325) -/

/-- The words a request names. -/
def reqWords (r : PeerReq) : List Nat := (List.range 32).filter (fun w => bits r.mask.toNat (4 * w + 3) (4 * w) != 0)
/-- R325, R224–R226: an atomic or a reduction performed at its home on the line at `pa`: each word it names once, its operands in lane order;
what each operand found. -/
def State.servePeer (s : State) (r : PeerReq) (pa : Nat) (serve : Word → List Nat → Served) : State × List (Nat × Word) :=
  (groupLanes (List.range r.places.length) (fun n => r.places.getD n 0)).foldl (fun (acc : State × List (Nat × Word)) g =>
    let x := acc.1.homeRead (pa / 4 + g.1)
    let y := serve x.1 g.2
    (x.2.homeStore (pa + 4 * g.1) (leBytes 4 y.1.toNat), acc.2 ++ y.2.1)) (s, [])
/-- R325, R226: a request performed at its home on the line at `pa`: the state, what is delivered, and how it ended. -/
def State.performPeer (s : State) (r : PeerReq) (pa : Nat) : State × PeerResp :=
  let answer (t : State) (st : PeerStatus) (m : BitVec 128) (ws : List Word) : State × PeerResp := (t, { tag := r.tag, status := st, mask := m, words := ws })
  let bad := (reqWords r).any (fun w => s.poisoned (pa + 4 * w))
  let x (n : Nat) : Word := r.words.getD n 0
  let found (l : List (Nat × Word)) : List Word := (List.range r.places.length).map (fun n => ((l.find? (fun e => e.1 == n)).map (·.2)).getD 0)
  match r.op with
  | .read =>
    let t := s.combine (pa / 128)
    let line := (List.range 32).map (fun w => t.homeWord (pa / 4 + w))
    if bad then answer t .uncorrectable 0 line
    else
      let whole := (List.range 32).filter (fun w => !(t.poisoned (pa + 4 * w)))
      answer t .ok (BitVec.ofNat 128 ((whole.map (fun w => 15 * 2 ^ (4 * w))).foldl (· + ·) 0)) line
  | .store =>
    let byte (k : Nat) : Byte := BitVec.ofNat 8 ((r.words.getD (k / 4) 0).toNat / 256 ^ (k % 4))
    let bytes := ((List.range 128).filter (fun k => r.mask.getLsbD k)).map (fun k => (pa + k, byte k))
    answer (s.homeBytes 8 bytes (((List.range 4).filter (fun k => r.poison.getLsbD k)).map (fun k => pa + 32 * k))) .ok 0 []
  | .atomic op tag =>
    if bad then answer s .uncorrectable 0 []
    else
      let y := s.servePeer r pa (fun w lanes => atomicServe op tag w lanes x (fun n => r.expected.getD n 0))
      answer y.1 .ok r.mask (found y.2)
  | .check => answer s (if bad then .uncorrectable else .ok) 0 []
  | .reduce fl => answer (s.servePeer r pa (fun w lanes => (lanes.foldl (fun v n => addPartial fl v (x n)) w, [], 0))).1 .ok 0 []
  | .signal => match r.places with
    | [] => answer s .ok 0 []
    | w :: _ =>
      let b := s.homeLoad (pa + 4 * w) 8
      let n := leNat b.1 + (x 0).toNat + 2 ^ 32 * (x 1).toNat
      answer (b.2.homeStore (pa + 4 * w) (leBytes 8 n)) .ok (if bad then 0 else r.mask) [BitVec.ofNat 32 n, BitVec.ofNat 32 (n / 2 ^ 32)]
/-- R325: a request from a peer: the import table, then translation, permission and world at the home. -/
def State.serveRequest (s : State) (r : PeerReq) : State × PeerResp :=
  let fail (st : PeerStatus) : State × PeerResp := (s, { tag := r.tag, status := st, mask := 0, words := [] })
  match s.fabric.imports.find? (fun e => e.1 == (r.src, r.asid)) with
  | none => fail .permission
  | some (_, asid, secure) =>
    let rd := match r.op with | .read | .atomic _ _ | .reduce _ | .check => true | .store | .signal => false
    match s.translate asid (secure && r.secure) rd (r.op != .read) (128 * r.line) with
    | .ok pa _ _ => s.performPeer r pa
    | .peer _ _ _ => fail .translation
    | .fail c => fail (if c = 0x11 then .permission else .translation)
/-- R325: a peer request served, its response sent. -/
def execPeerRequest (req : PeerReq) (s : State) : Out :=
  let r := s.serveRequest req
  .next { r.1 with fabric := { r.1.fabric with responses := r.1.fabric.responses ++ [r.2] } }

/-! ### Device time (R326) -/

/-- R322, R326: a time flit of a port. -/
def timeFlitOf (dest : Nat) (payload : BitVec 448) (ack seq : Nat) : List Byte :=
  let h := ack % 256 * 2 ^ 40 + seq % 256 * 2 ^ 32 + 2 * 2 ^ 30 + 3 * 2 ^ 26 + dest % 2 ^ 12
  let f := leBytes 8 h ++ leBytes 56 payload.toNat
  leBytes 6 h ++ leBytes 2 (crc16 f).toNat ++ leBytes 56 payload.toNat
/-- R326: time flits sent on every port that is up, once in every microsecond of device time. -/
def execTimeFlitSend (s : State) : Out :=
  let send (k : Nat) (p : Port) : Port :=
    if !p.up || p.retraining.isSome then p
    else
      let c := Config.timeFlit s.fresh k s.time
      let f := timeFlitOf c.1.toNat c.2 p.rxSeq (p.txSeq + 1)
      { p with txSeq := (p.txSeq + 1) % 256, sent := p.sent ++ [f], wire := p.wire ++ [f] }
  .next (if s.fabric.timeSent < s.time / 1000 then
    { s with fresh := s.fresh + 1, fabric := { s.fabric with timeSent := s.time / 1000, ports := cmap send s.fabric.ports } } else s)
/-- R326: device time corrected by an offset: the one forward step before the first placement, else slewed. -/
def State.correctTime (s : State) (offset : Int) : State :=
  if !s.fabric.stepped && decide (0 < offset) then { s with time := s.time + offset.toNat, fabric := { s.fabric with stepped := true, slew := 0 } }
  else { s with fabric := { s.fabric with slew := offset } }
/-- R326: whether the device is the master: locked, with the lowest fabric id of the devices that are locked; which other devices are is a free value
(log 38). -/
def State.timeMaster (s : State) : Bool :=
  s.fabric.locked && s.fabric.hops.all (fun e => decide (s.fabric.id < e.1) || !(Config.deviceLocked e.1 s.time))
/-- R326: a time flit from the master's side; the delay of the hop is the one measured. -/
def execTimeFlitReceive (port time delay : Nat) (s : State) : Out :=
  let s1 := s.onPort port (fun p => { p with delay := delay })
  .next (if s.timeMaster then s1 else s1.correctTime ((time + delay : Nat) - (s.time : Int)))
/-- R326: a message of the time source that the image names locks the device; it corrects the time of the master, which the others follow. -/
def State.disciplined (s : State) (source : Nat) (offset : Int) : State :=
  if s.fabric.timeSource != source then s else
  let t := { s with fabric := { s.fabric with locked := true } }
  if t.timeMaster then t.correctTime offset else t
/-- R326: an IEEE 1588 message. -/
def execIeee1588Message (offset : Int) (s : State) : Out := .next (s.disciplined 1 offset)
/-- R315, R326: a PTM message: a request is answered with device time, an answer corrects it. -/
def execPtmMessage (kind : PtmKind) (s : State) : Out := .next (match kind with
  | .request => { s with hub := { s.hub with ptm := s.hub.ptm ++ [s.time] } }
  | .time offset => s.disciplined 2 offset)

/-! ### Spanning launches (R327, R328, R230, R231) -/

/-- R324, R328: whether some hop scope includes every device of a span. -/
def State.spanScope (s : State) (x : Span) : Bool :=
  x.devs.all (fun d => d == s.fabric.id || (match cfind s.fabric.hops d with | some h => decide (h ≤ 3) | none => false))
/-- R328: a waiting launch of a bound queue that has not yet been matched. -/
def State.unmatched (s : State) (id : Nat) : Option (Task × Span) := match cfind s.tasks id with
  | some t => if t.state == .waiting && pktType t.packet == 1 && !t.spanOk then (cfind s.fabric.spans t.queue).map (fun x => (t, x)) else none
  | none => none
/-- R328: the hashes of the other parts' packets, each with its place among the LAUNCH packets of the part's queue, compared with this part's: packets of
the same count form one launch. -/
def execSpanHashCompare (task : Nat) (hashes : List (Nat × DWord)) (s : State) : Out :=
  .next (match s.unmatched task with
    | some (t, x) =>
      let mine := hashes.filter (fun h => h.1 == t.launchNo)
      if mine.length != x.ndev then s
      else
        let own := Config.packetHash (hashedBytes t.packet)
        { s with tasks := cput s.tasks task (if mine.all (fun h => h.2 == own) && s.spanScope x then { t with spanOk := true } else t.refuse .aborted 0) }
    | none => s)
/-- R328: no counterpart within 1 s. -/
def execSpanMatchTimeout (task : Nat) (s : State) : Out :=
  .next (match s.unmatched task with
    | some (t, _) => if t.since + 1000000000 ≤ s.time then { s with tasks := cput s.tasks task (t.refuse .aborted 0) } else s
    | none => s)
/-- R328, R230, R231: what another part says of a launch barrier. A participant that had arrived at a phase counts at its end as gone and no more as
arrived there. -/
def Barrier.heard (b : Barrier) : PeerBarrier → Barrier
  | .arrival => { b with count := b.count + 1 }
  | .gone => { b with gone := b.gone + 1 }
  | .killed => { b with gone := b.gone + 1, abandoned := true }
  | .goneArrived p => { b with gone := b.gone + 1, count := if b.phase = p then b.count - 1 else b.count }
  | .killedArrived p => { b with gone := b.gone + 1, count := if b.phase = p then b.count - 1 else b.count, abandoned := true }
  | .phaseComplete => { b with phase := b.phase + 1, count := 0 }
/-- R328: a message about a launch barrier reaches the hub. -/
def execPeerBarrierArrival (launch number : Nat) (kind : PeerBarrier) (s : State) : Out :=
  .next (if (cfind s.launches launch).isNone then s
    else
      let s1 := s.onLaunch launch (fun l => { l with lbars := cput l.lbars number (((cfind l.lbars number).getD Barrier.fresh).heard kind) })
      match s1.strands.find? (fun e => (s1.team e.2.team).launch == launch) with
      | some (_, st) => if kind == .phaseComplete then s1 else s1.barCheck st .launch number
      | none => s1)

end Sys2Proof.Machine
end

