-- ==== Sys2Proof/Machine/Flips.lean ====
section
/-!
DEFINITION. Flips (R124, R128–R134, R165, R279): the arrival of a strand, and the flip's effect once every counted strand
has arrived, the named nodes are forced and the bound transfers have ended. Node work and beats are single steps here, so
no pin is held and no beat is in flight when a flip looks, but for one on its way to a peer's home, which finishes (log 22).
-/
namespace Sys2Proof.Machine

/-! ### What a flip names (R129, R130) -/

/-- R130: whether a running strand is counted in the gathering of strand `st` at a collective scope. -/
def State.gathers (s : State) (st : Strand) (scope : FlipScope) (x : Strand) : Bool :=
  x.run == .running && (match scope with
    | .team => x.team == st.team
    | .imem => (s.team x.team).launch == (s.team st.team).launch && s.coreOf x == s.coreOf st
    | _ => false)
/-- R130: a gathering open under another opcode. -/
def State.otherGathering (s : State) (st : Strand) (scope : FlipScope) (op : Nat) : Bool :=
  s.strands.any (fun e => s.gathers st scope e.2 && (match e.2.flip with
    | some f => f.scope == scope && f.op != op
    | none => false))
/-- R130: every counted strand has arrived. -/
def State.gathered (s : State) (st : Strand) (scope : FlipScope) : Bool :=
  s.strands.all (fun e => !(s.gathers st scope e.2) || (match e.2.flip with
    | some f => f.scope == scope
    | none => false))
/-- The strands that a flip of strand `i` resumes, with their keys. -/
def State.flippers (s : State) (i : Nat) (st : Strand) (scope : FlipScope) : List (Nat × Strand) :=
  match scope with
  | .team | .imem => s.strands.filter (fun e => s.gathers st scope e.2)
  | _ => [(i, st)]

/-- R129: whether a live transfer `x` of team `tid` is bound to a staging bank of a flip of strand `st`. -/
def State.boundTo (s : State) (st : Strand) (f : FlipWait) (tid : Nat) (x : Xfer) : Bool :=
  let t := s.team st.team
  let u := s.team tid
  x.live && (match x.desc.stage with
    | none => false
    | some a => match f.scope with
      | .strand => a.kind = 1 && u.gang = t.gang && a.strand = st.idx && x.banks.any (fun e => e.1 == t.member && e.2 == !st.sel)
      | .team => a.kind = 0 && u.gang = t.gang && x.banks.any (fun e => e.1 == t.member && e.2 == !t.sp.sel)
      | .imem => a.kind = 3 && u.launch = t.launch && x.banks.any (fun e => match s.memberTeam tid e.1 with
          | some v => (s.team v).core == t.core && e.2 == s.stageBank tid a e.1
          | none => false)
      | .segment => a.kind = 2 && u.gang = t.gang && x.banks.any (fun e => bitAt f.mask.toNat e.1
          && e.2 == !((s.gang t.gang).segs.getD e.1 Planes.empty).sel))
/-- The bound transfers of a flip: team and transfer. -/
def State.boundXfers (s : State) (st : Strand) (f : FlipWait) : List (Nat × Xfer) :=
  s.teams.flatMap (fun e => (e.2.xfers.filter (s.boundTo st f e.1)).map (fun x => (e.1, x)))

/-- R129: the pending nodes that a flip forces, by strand, in skein order. -/
def State.flipNodes (s : State) (i : Nat) (st : Strand) (scope : FlipScope) : List (Nat × Nat) :=
  match scope with
  | .strand => st.nodes.map (fun n => (i, n.id))
  | .team => (s.strands.filter (fun e => e.2.team == st.team)).flatMap (fun e =>
      (e.2.nodes.filter (fun n => n.ranges.any (fun r => r.space == 1 || r.space == 3))).map (fun n => (e.1, n.id)))
  | _ => []

/-! ### The exchange (R131) -/

/-- R131: the planes of a scope exchanged (FLIP, FLIPX) or copied (FLIPC). -/
def Planes.flipBy (p : Planes) (op : Nat) : Planes := if op = 2 then p.copy else p.flip
/-- R131: the strand slot exchanged or copied. -/
def Strand.flipSlot (st : Strand) (op : Nat) : Strand := if op = 2 then st.withStaging st.slot else { st with sel := !st.sel }
/-- R131: the scope of a flip of strand `i` exchanged or copied. -/
def State.exchange (s : State) (i : Nat) (st : Strand) (f : FlipWait) : State :=
  let t := s.team st.team
  match f.scope with
  | .strand => s.onStrandAt i (fun x => x.flipSlot f.op)
  | .team => s.onTeam st.team (fun t => { t with sp := t.sp.flipBy f.op })
  | .imem => s.onLaunch t.launch (fun l => match cfind l.imems t.core with
      | some im => { l with imems := cput l.imems t.core { im with planes := im.planes.flipBy f.op } }
      | none => l)
  | .segment => s.onGang t.gang (fun g => { g with segs := (List.range g.segs.length).map (fun k =>
      let p := g.segs.getD k Planes.empty
      if bitAt f.mask.toNat k then p.flipBy f.op else p) })

/-- R133: a team flip is an acquire and a release at team scope for every arrived strand. -/
def State.flipOrder (s : State) (l : List (Nat × Strand)) (scope : FlipScope) : State :=
  if scope == .team then l.foldl (fun (u : State) e => (u.releaseBy e.2 .team).acquireBy e.2 .team) s else s
/-- R130: arrived strands resume at their next pcs. -/
def State.flipResume (s : State) (l : List (Nat × Strand)) : State :=
  l.foldl (fun (u : State) e => u.onStrandAt e.1 (fun x => if x.flip.isSome then { x with flip := none, wait := .none }.advance else x)) s

/-- R131: forcing done, the flip drains and exchanges, or aborts what is bound. DESIGN CHOICE (log 22): a step that reads a named segment while the
flip waits for its bound transfers reads the old plane, since the flip is past its PIN state. -/
def State.flipAct (s : State) (i : Nat) (f : FlipWait) : State :=
  match s.strandAt i with
  | none => s
  | some st =>
    let bound := s.boundXfers st f
    let l := s.flippers i st f.scope
    if f.op != 1 && !bound.isEmpty then s
    else
      let s1 := (s.flipOrder l f.scope).exchange i st f
      let s2 := if f.op = 1 then bound.foldl (fun (u : State) e => u.xferAbort e.1 e.2) s1 else s1
      s2.flipResume l

/-- R131: the nodes of a flip forced, one after another; a fault is raised in the strand that owns the node (R166). -/
def State.flipForce (s : State) (i : Nat) (f : FlipWait) : List (Nat × Nat) → State
  | [] => s.flipAct i f
  | (k, n) :: l => match s.force k n with
    | .ok t => State.flipForce t i f l
    | .busy t => t
    | .fault t e => match e.fail with
      | some (.peer h va n) => t.askForNode k e h va n
      | _ => t.nodeFault k e

/-- R131, R134: the flip that strand `i` waits for, carried as far as it can go. -/
def State.flipTry (s : State) (i : Nat) : State :=
  match s.strandAt i with
  | none => s
  | some st => match st.flip with
    | none => s
    | some f =>
      let l := s.flippers i st f.scope
      let collective := f.scope == .team || f.scope == .imem
      if !(s.resident st) || (collective && !(s.gathered st f.scope)) then s
      else if s.level st != 0 && (f.scope == .strand || f.scope == .team || f.op == 1) then
        l.foldl (fun (u : State) e => match u.strandAt e.1 with
          | some x => u.takeTrap e.1 (Trap.atIssue x 0x0D 0 0)
          | none => u) s
      else if (f.scope == .strand || f.scope == .team) && l.any (fun e => !e.2.log.isEmpty) then s
      else s.flipForce i f (s.flipNodes i st f.scope)

/-- R130: the current strand arrives at a flip. -/
def arriveFlip (s : State) (st : Strand) (f : FlipWait) : Out :=
  .next ((s.putStrand { st with wait := .flip, flip := some f }).flipTry s.cur)
/-- R128–R134: a flip issued: opcode 0 FLIP, 1 FLIPX, 2 FLIPC. A shadow's segment flip is its leader's, which has taken effect (R267, R290). -/
def issueFlip (op : Nat) (scope : FlipScope) (a : Nat) (s : State) : Out :=
  onCur s (fun st =>
    let mask := if scope == .segment then st.getS a else 0
    let f : FlipWait := { op := op, scope := scope, mask := mask }
    if scope == .segment && mask.toNat / 2 ^ (s.gangOf st).segs.length != 0 then illegal s st mask
    else if s.otherGathering st scope op then illegal s st 0
    else if scope == .segment && (mask == 0 || (s.level st = 1 && st.replica != 0)) && !(s.level st != 0 && op == 1) then finish s st 0
    else arriveFlip s st f)

/-- R131: FLIP. -/
def execFlip (scope : FlipScope) (a : Nat) (s : State) : Out := issueFlip 0 scope a s
/-- R131: FLIPX. -/
def execFlipx (scope : FlipScope) (a : Nat) (s : State) : Out := issueFlip 1 scope a s
/-- R131: FLIPC. -/
def execFlipc (scope : FlipScope) (a : Nat) (s : State) : Out := issueFlip 2 scope a s
/-- R131: a waiting flip takes effect. -/
def execFlipTakesEffect (strand : Nat) (s : State) : Out := .next (s.flipTry strand)

end Sys2Proof.Machine
end

