-- ==== Sys2Proof/Machine/Scalar.lean ====
section
/-!
DEFINITION. Scalar arithmetic and immediates (R81–R83) and the predicate instructions (R86, R87).
-/
namespace Sys2Proof.Machine

/-- R74, R81: a scalar result; it wraps and raises nothing. -/
def scalarOp (s : State) (d : Nat) (f : Strand → DWord) : Out := onCur s (fun st => finish s (st.setS d (f st)) 0)
/-- A scalar operation on two registers. -/
def scalar2 (s : State) (d a b : Nat) (f : DWord → DWord → DWord) : Out := scalarOp s d (fun st => f (st.getS a) (st.getS b))
/-- A scalar operation on one register. -/
def scalar1 (s : State) (d a : Nat) (f : DWord → DWord) : Out := scalarOp s d (fun st => f (st.getS a))
/-- A condition as a result. -/
def bit01 (b : Bool) : DWord := if b then 1 else 0

/-- R81: bits 127:64 of a signed product. -/
def mulHigh (x y : DWord) : DWord := BitVec.ofInt 64 (x.toInt * y.toInt / 2 ^ 64)
/-- R81: bits 127:64 of an unsigned product. -/
def mulHighU (x y : DWord) : DWord := BitVec.ofNat 64 (x.toNat * y.toNat / 2 ^ 64)
/-- R82: DIV. -/
def divS (x y : DWord) : DWord := if y = 0 then 0xFFFFFFFFFFFFFFFF else BitVec.ofInt 64 (Int.tdiv x.toInt y.toInt)
/-- R82: DIVN. -/
def divU (x y : DWord) : DWord := if y = 0 then 0xFFFFFFFFFFFFFFFF else BitVec.ofNat 64 (x.toNat / y.toNat)
/-- R82: REM. -/
def remS (x y : DWord) : DWord := if y = 0 then x else BitVec.ofInt 64 (Int.tmod x.toInt y.toInt)
/-- R82: REMN. -/
def remU (x y : DWord) : DWord := if y = 0 then x else BitVec.ofNat 64 (x.toNat % y.toNat)
/-- R81: leading zero bits of an n-bit number. -/
def leadingZeros (n v : Nat) : Nat := ((List.range n).find? (fun i => bitAt v (n - 1 - i))).getD n
/-- R81: one bits of an n-bit number. -/
def oneBits (n v : Nat) : Nat := ((List.range n).filter (bitAt v)).length
/-- R81: an arithmetic right shift. -/
def sraBy (x : DWord) (k : Nat) : DWord := BitVec.ofInt 64 (x.toInt / 2 ^ k)

/-- R81: ADD. -/
def execAdd (d a b : Nat) (s : State) : Out := scalar2 s d a b (fun x y => x + y)
/-- R81: SUB. -/
def execSub (d a b : Nat) (s : State) : Out := scalar2 s d a b (fun x y => x - y)
/-- R81: MUL. -/
def execMul (d a b : Nat) (s : State) : Out := scalar2 s d a b (fun x y => x * y)
/-- R81: MULH. -/
def execMulh (d a b : Nat) (s : State) : Out := scalar2 s d a b mulHigh
/-- R81: MULHN. -/
def execMulhn (d a b : Nat) (s : State) : Out := scalar2 s d a b mulHighU
/-- R82: DIV. -/
def execDiv (d a b : Nat) (s : State) : Out := scalar2 s d a b divS
/-- R82: DIVN. -/
def execDivn (d a b : Nat) (s : State) : Out := scalar2 s d a b divU
/-- R82: REM. -/
def execRem (d a b : Nat) (s : State) : Out := scalar2 s d a b remS
/-- R82: REMN. -/
def execRemn (d a b : Nat) (s : State) : Out := scalar2 s d a b remU
/-- R81: AND. -/
def execAnd (d a b : Nat) (s : State) : Out := scalar2 s d a b (fun x y => x &&& y)
/-- R81: OR. -/
def execOr (d a b : Nat) (s : State) : Out := scalar2 s d a b (fun x y => x ||| y)
/-- R81: XOR. -/
def execXor (d a b : Nat) (s : State) : Out := scalar2 s d a b (fun x y => x ^^^ y)
/-- R81: SHL. -/
def execShl (d a b : Nat) (s : State) : Out := scalar2 s d a b (fun x y => x <<< (y.toNat % 64))
/-- R81: SHR. -/
def execShr (d a b : Nat) (s : State) : Out := scalar2 s d a b (fun x y => x >>> (y.toNat % 64))
/-- R81: SRA. -/
def execSra (d a b : Nat) (s : State) : Out := scalar2 s d a b (fun x y => sraBy x (y.toNat % 64))
/-- R81: SLT. -/
def execSlt (d a b : Nat) (s : State) : Out := scalar2 s d a b (fun x y => bit01 (decide (x.toInt < y.toInt)))
/-- R81: SLTN. -/
def execSltn (d a b : Nat) (s : State) : Out := scalar2 s d a b (fun x y => bit01 (decide (x.toNat < y.toNat)))
/-- R81: MIN. -/
def execMin (d a b : Nat) (s : State) : Out := scalar2 s d a b (fun x y => if x.toInt ≤ y.toInt then x else y)
/-- R81: MAX. -/
def execMax (d a b : Nat) (s : State) : Out := scalar2 s d a b (fun x y => if x.toInt ≤ y.toInt then y else x)
/-- R81: MINN. -/
def execMinn (d a b : Nat) (s : State) : Out := scalar2 s d a b (fun x y => if x.toNat ≤ y.toNat then x else y)
/-- R81: MAXN. -/
def execMaxn (d a b : Nat) (s : State) : Out := scalar2 s d a b (fun x y => if x.toNat ≤ y.toNat then y else x)
/-- R81: CLZ. -/
def execClz (d a : Nat) (s : State) : Out := scalar1 s d a (fun x => BitVec.ofNat 64 (leadingZeros 64 x.toNat))
/-- R81: POPC. -/
def execPopc (d a : Nat) (s : State) : Out := scalar1 s d a (fun x => BitVec.ofNat 64 (oneBits 64 x.toNat))
/-- R81: ADDI. -/
def execAddi (d a : Nat) (imm : BitVec 8) (s : State) : Out := scalar1 s d a (fun x => x + imm.signExtend 64)
/-- R81: SHLI. -/
def execShli (d a sh : Nat) (s : State) : Out := scalar1 s d a (fun x => x <<< sh)
/-- R81: SHRI. -/
def execShri (d a sh : Nat) (s : State) : Out := scalar1 s d a (fun x => x >>> sh)
/-- R81: SRAI. -/
def execSrai (d a sh : Nat) (s : State) : Out := scalar1 s d a (fun x => sraBy x sh)
/-- R81: ANDI. -/
def execAndi (d a : Nat) (imm : BitVec 8) (s : State) : Out := scalar1 s d a (fun x => x &&& imm.signExtend 64)
/-- R83: LI. -/
def execLi (d : Nat) (imm : BitVec 16) (s : State) : Out := scalarOp s d (fun _ => imm.signExtend 64)
/-- R83: LIH. -/
def execLih (d : Nat) (imm : BitVec 16) (s : State) : Out := scalar1 s d d (fun x => x <<< 16 ||| imm.zeroExtend 64)

/-- R87: a predicate result on all 32 bits. -/
def predOp (s : State) (d : Nat) (f : Strand → Word) : Out := onCur s (fun st => finish s (st.setP d (f st)) 0)

/-- R86: EMSET. -/
def execEmset (a : Nat) (s : State) : Out := onCur s (fun st => finish s (st.setEm (st.getP a)) 0)
/-- R86: EMGET. -/
def execEmget (d : Nat) (s : State) : Out := predOp s d Strand.em
/-- R87: PAND. -/
def execPand (d a b : Nat) (s : State) : Out := predOp s d (fun st => st.getP a &&& st.getP b)
/-- R87: POR. -/
def execPor (d a b : Nat) (s : State) : Out := predOp s d (fun st => st.getP a ||| st.getP b)
/-- R87: PXOR. -/
def execPxor (d a b : Nat) (s : State) : Out := predOp s d (fun st => st.getP a ^^^ st.getP b)
/-- R87: PANDN. -/
def execPandn (d a b : Nat) (s : State) : Out := predOp s d (fun st => st.getP a &&& ~~~ st.getP b)
/-- R87: PNOT. -/
def execPnot (d a : Nat) (s : State) : Out := predOp s d (fun st => ~~~ st.getP a)
/-- R87: PPOPC. -/
def execPpopc (d a : Nat) (s : State) : Out := scalarOp s d (fun st => BitVec.ofNat 64 (oneBits 32 (st.getP a).toNat))
/-- R87: PFFS. -/
def execPffs (d a : Nat) (s : State) : Out :=
  scalarOp s d (fun st => BitVec.ofNat 64 (((List.range 32).find? (laneOn (st.getP a))).getD 32))
/-- R87: PFROMS. -/
def execPfroms (d a : Nat) (s : State) : Out := predOp s d (fun st => (st.getS a).setWidth 32)
/-- R87: PTOS. -/
def execPtos (d a : Nat) (s : State) : Out := scalarOp s d (fun st => (st.getP a).zeroExtend 64)

end Sys2Proof.Machine
end

