-- ==== Sys2Proof/Machine/Vector.lean ====
section
/-!
DEFINITION. Vector instructions on registers (R97–R112): arithmetic, bits, compares, moves, lane masks, reductions and
conversions. What they compute stands in Operands.lean; here stand the checks of R57 and the completion.
-/
namespace Sys2Proof.Machine

/-- R51, R57: vector registers beyond those declared trap ILLEGAL. -/
def withRegs (s : State) (st : Strand) (regs : List Nat) (k : Out) : Out :=
  if regs.all (fun r => decide (r < 8 * (s.headerOf st).vregs)) then k else illegal s st 0
/-- R97: the tag checks in their order; the first that fails traps FORMAT. -/
def withTags (s : State) (st : Strand) (checks : List (Bool × Nat × Tag)) (k : Out) : Out :=
  match firstBad checks with
  | some b => formatTrap s st b
  | none => k
/-- R97 stage 1. -/
def stage1 (st : Strand) (ok : Tag → Bool) : Bool × Nat × Tag := (ok st.ty, 0, st.ty)
/-- R97 stage 2: a source in field `f` (1 a, 2 b, 3 d) with the tag required. -/
def stage2 (st : Strand) (ok : Tag → Bool) (f r : Nat) : Bool × Nat × Tag := (ok (st.getV r).tag, f, (st.getV r).tag)
/-- R98: "mode type". -/
def isTy (st : Strand) (t : Tag) : Bool := t == st.ty
/-- R98: "mode type or RAW". -/
def tyOrRaw (st : Strand) (t : Tag) : Bool := orRaw st.ty t
/-- Any mode type. -/
def anyTag (_ : Tag) : Bool := true
/-- R98: integer types and RAW. -/
def intOrRaw (t : Tag) : Bool := isInt t || t == .raw
/-- R98: integer and floating types. -/
def intOrFlt (t : Tag) : Bool := isInt t || isFlt t

/-! ### Arithmetic (R99–R101) -/

/-- R98–R101: an element-wise operation of two sources. -/
def vec2 (op : VOp) (d a b : Nat) (s : State) : Out :=
  onCur s (fun st => withRegs s st [d, a, b] (withTags s st
    [stage1 st op.accepts, stage2 st (isTy st) 1 a, stage2 st (isTy st) 2 b, stage2 st (fun t => op != .mad || isTy st t) 3 d]
    (let r := op.apply st.ty (envOf st.mode) st.active (st.getV a) (st.getV b) (st.getV d)
     finish s (st.setV d r.1) r.2)))
/-- R98–R101: an element-wise operation of one source. -/
def vec1 (op : VOp) (d a : Nat) (s : State) : Out := vec2 op d a a s

/-- R99, R100: VADD. -/
def execVadd (d a b : Nat) (s : State) : Out := vec2 .add d a b s
/-- R99, R100: VSUB. -/
def execVsub (d a b : Nat) (s : State) : Out := vec2 .sub d a b s
/-- R99, R100: VMUL. -/
def execVmul (d a b : Nat) (s : State) : Out := vec2 .mul d a b s
/-- R99, R100: VMAD. -/
def execVmad (d a b : Nat) (s : State) : Out := vec2 .mad d a b s
/-- R99, R101: VMIN. -/
def execVmin (d a b : Nat) (s : State) : Out := vec2 .min d a b s
/-- R99, R101: VMAX. -/
def execVmax (d a b : Nat) (s : State) : Out := vec2 .max d a b s
/-- R99, R101: VABS. -/
def execVabs (d a : Nat) (s : State) : Out := vec1 .abs d a s
/-- R99, R101: VNEG. -/
def execVneg (d a : Nat) (s : State) : Out := vec1 .neg d a s
/-- R99, R100: VDIV. -/
def execVdiv (d a b : Nat) (s : State) : Out := vec2 .div d a b s
/-- R100: VRCP. -/
def execVrcp (d a : Nat) (s : State) : Out := vec1 .rcp d a s
/-- R100: VRSQ. -/
def execVrsq (d a : Nat) (s : State) : Out := vec1 .rsq d a s
/-- R100: VSQRT. -/
def execVsqrt (d a : Nat) (s : State) : Out := vec1 .sqrt d a s
/-- R100: VEXP2. -/
def execVexp2 (d a : Nat) (s : State) : Out := vec1 .exp2 d a s
/-- R100: VLOG2. -/
def execVlog2 (d a : Nat) (s : State) : Out := vec1 .log2 d a s
/-- R101: VRND. -/
def execVrnd (d a : Nat) (s : State) : Out := vec1 .rnd d a s
/-- R99: VMULH. -/
def execVmulh (d a b : Nat) (s : State) : Out := vec2 .mulh d a b s

/-! ### Bits (R102) -/

/-- A result written to the active lanes under the mode type. -/
def writeLanes (s : State) (st : Strand) (d : Nat) (f : Nat → Word) : Out :=
  finish s (st.setV d (VReg.merge (st.getV d) st.ty st.active f)) 0
/-- R102: a bitwise operation. -/
def vecBits (d a b : Nat) (f : Word → Word → Word) (s : State) : Out :=
  onCur s (fun st => withRegs s st [d, a, b] (withTags s st [stage2 st (tyOrRaw st) 1 a, stage2 st (tyOrRaw st) 2 b]
    (writeLanes s st d (fun i => f ((st.getV a).lane i) ((st.getV b).lane i)))))
/-- R102: an operation on the elements of integer types or RAW, which is treated as N32. -/
def vecElems (d a b : Nat) (f : Tag → Nat → Nat → Nat) (s : State) : Out :=
  onCur s (fun st => withRegs s st [d, a, b] (withTags s st
    [stage1 st intOrRaw, stage2 st (tyOrRaw st) 1 a, stage2 st (tyOrRaw st) 2 b]
    (let t := asBits st.ty
     let r := mapElems t st.active (st.getV d) (fun e => { bits := f t (elemAt t (st.getV a) e) (elemAt t (st.getV b) e), fl := 0 })
     finish s (st.setV d { r.1 with tag := st.ty }) 0)))

/-- R102: VAND. -/
def execVand (d a b : Nat) (s : State) : Out := vecBits d a b (fun x y => x &&& y) s
/-- R102: VOR. -/
def execVor (d a b : Nat) (s : State) : Out := vecBits d a b (fun x y => x ||| y) s
/-- R102: VXOR. -/
def execVxor (d a b : Nat) (s : State) : Out := vecBits d a b (fun x y => x ^^^ y) s
/-- R102: VNOT. -/
def execVnot (d a : Nat) (s : State) : Out := vecBits d a a (fun x _ => ~~~ x) s
/-- R102: VSHL. -/
def execVshl (d a b : Nat) (s : State) : Out := vecElems d a b shlElem s
/-- R102: VSHR. -/
def execVshr (d a b : Nat) (s : State) : Out := vecElems d a b shrElem s
/-- R102: VCLZ. -/
def execVclz (d a : Nat) (s : State) : Out := vecElems d a a (fun t x _ => leadingZeros (elemBits t) x) s
/-- R102: VPOPC. -/
def execVpopc (d a : Nat) (s : State) : Out := vecElems d a a (fun t x _ => oneBits (elemBits t) x) s

/-! ### Compares (R103) -/

/-- R103: a compare into a predicate. -/
def vecCmp (c : Cmp) (d a b : Nat) (s : State) : Out :=
  onCur s (fun st => withRegs s st [a, b] (withTags s st [stage1 st isWord, stage2 st (isTy st) 1 a, stage2 st (isTy st) 2 b]
    (let r := c.apply st.ty (modeFlush st.mode) st.active (st.getV a) (st.getV b) (st.getP d)
     finish s (st.setP d r.1) r.2)))
/-- R103: VCEQ. -/
def execVceq (d a b : Nat) (s : State) : Out := vecCmp .eq d a b s
/-- R103: VCNE. -/
def execVcne (d a b : Nat) (s : State) : Out := vecCmp .ne d a b s
/-- R103: VCLT. -/
def execVclt (d a b : Nat) (s : State) : Out := vecCmp .lt d a b s
/-- R103: VCLE. -/
def execVcle (d a b : Nat) (s : State) : Out := vecCmp .le d a b s

/-! ### Moves (R104) -/

/-- R104: VSEL writes every lane of `%em`. -/
def execVsel (d a b : Nat) (s : State) : Out :=
  onCur s (fun st => withRegs s st [d, a, b] (withTags s st [stage2 st (tyOrRaw st) 1 a, stage2 st (tyOrRaw st) 2 b]
    (finish s (st.setV d (VReg.merge (st.getV d) st.ty st.em (fun i =>
      if laneOn st.guardMask i then (st.getV a).lane i else (st.getV b).lane i))) 0)))
/-- R104: VBCST. -/
def execVbcst (d a : Nat) (s : State) : Out :=
  onCur s (fun st => withRegs s st [d] (writeLanes s st d (fun _ => (st.getS a).setWidth 32)))
/-- R104: VTOS. -/
def execVtos (d a lane : Nat) (s : State) : Out :=
  onCur s (fun st => withRegs s st [a]
    (finish s (st.setS d (if laneOn st.active lane then ((st.getV a).lane lane).zeroExtend 64 else 0)) 0))
/-- R104: VSETL. -/
def execVsetl (d a lane : Nat) (s : State) : Out :=
  onCur s (fun st => withRegs s st [d] (withTags s st [stage2 st (tyOrRaw st) 3 d]
    (writeLanes s st d (fun i => if i = lane then (st.getS a).setWidth 32 else (st.getV d).lane i))))
/-- R104: VSHUF. -/
def execVshuf (d a b : Nat) (s : State) : Out :=
  onCur s (fun st => withRegs s st [d, a, b] (withTags s st [stage2 st (tyOrRaw st) 1 a, stage2 st isIndex 2 b]
    (writeLanes s st d (fun i => (st.getV a).lane (((st.getV b).lane i).toNat % 32)))))
/-- R104: VLANE. -/
def execVlane (d a b : Nat) (s : State) : Out :=
  onCur s (fun st => withRegs s st [d, a] (withTags s st [stage2 st (tyOrRaw st) 1 a]
    (writeLanes s st d (fun i => (st.getV a).lane ((i + (st.getS b).toNat) % 32)))))

/-! ### Lane masks (R105) -/

/-- R98: I32, N32, RAW. -/
def countType (t : Tag) : Bool := isIndex t
/-- R105: VPREFIX. -/
def execVprefix (d a : Nat) (s : State) : Out :=
  onCur s (fun st => withRegs s st [d] (withTags s st [stage1 st countType]
    (writeLanes s st d (fun i => BitVec.ofNat 32 (oneBits i (st.getP a &&& st.active).toNat)))))
/-- R105: VMATCH. -/
def execVmatch (d a : Nat) (s : State) : Out :=
  onCur s (fun st => withRegs s st [d, a] (withTags s st [stage1 st countType, stage2 st (tyOrRaw st) 1 a]
    (writeLanes s st d (fun i => maskOf (fun j => laneOn st.active j && (st.getV a).lane j == (st.getV a).lane i)))))
/-- R105: VBALLOT. -/
def execVballot (d a : Nat) (s : State) : Out :=
  onCur s (fun st => withRegs s st [a]
    (finish s (st.setP d (maskMerge (st.getP d) st.active (maskOf (fun i => (st.getV a).lane i != 0)))) 0))

/-! ### Reductions and scan (R106, R107) -/

/-- R106: a reduction into a scalar. -/
def vecRed (r : Red) (d a : Nat) (s : State) : Out :=
  onCur s (fun st => withRegs s st [a] (withTags s st [stage1 st intOrFlt, stage2 st (isTy st) 1 a]
    (let x := r.apply st.ty (envOf st.mode) st.active (st.getV a)
     finish s (st.setS d x.1) x.2)))
/-- R106: VREDADD. -/
def execVredadd (d a : Nat) (s : State) : Out := vecRed .add d a s
/-- R106: VREDMIN. -/
def execVredmin (d a : Nat) (s : State) : Out := vecRed .min d a s
/-- R106: VREDMAX. -/
def execVredmax (d a : Nat) (s : State) : Out := vecRed .max d a s
/-- R107: VSCAN. -/
def execVscan (d a : Nat) (s : State) : Out :=
  onCur s (fun st => withRegs s st [d, a] (withTags s st [stage1 st isWord, stage2 st (isTy st) 1 a]
    (let r := scan st.ty (envOf st.mode) st.active (st.getV a) (st.getV d)
     finish s (st.setV d r.1) r.2)))

/-! ### Conversions (R108–R112) -/

/-- R108–R110: VCVT. -/
def execVcvt (d a : Nat) (s : State) : Out :=
  onCur s (fun st => withRegs s st [d, a]
    (let src := (st.getV a).tag
     withTags s st [stage1 st (fun t => t != .raw), stage2 st (fun t => t != .raw) 1 a, (cvtPair src st.ty, 1, src)]
      (match src, st.ty with
        | .pl _ p, .pl _ q => writeLanes s st d (narrowPl p q 32 (st.getV a).lane)
        | _, _ =>
          let r := convertElems (envOf st.mode) src st.ty st.active (st.getV d) (elemAt src (st.getV a)) (32 * elems src)
          finish s (st.setV d r.1) r.2)))
/-- R108, R109: VPACK. -/
def execVpack (d a b : Nat) (s : State) : Out :=
  onCur s (fun st => withRegs s st [d, a, b]
    (let src := (st.getV a).tag
     withTags s st [stage1 st (fun t => t != .raw), stage2 st (fun t => t != .raw) 1 a, stage2 st (fun t => t == src) 2 b, (packPair src st.ty, 1, src)]
      (let n := 32 * elems src
       let r := convertElems (envOf st.mode) src st.ty st.active (st.getV d)
         (fun e => if e < n then elemAt src (st.getV a) e else elemAt src (st.getV b) (e - n)) (2 * n)
       finish s (st.setV d r.1) r.2)))
/-- R108–R110: VUNPK. -/
def execVunpk (d a sel : Nat) (s : State) : Out :=
  onCur s (fun st => withRegs s st [d, a]
    (let src := (st.getV a).tag
     withTags s st [stage1 st (fun t => t != .raw), stage2 st (fun t => t != .raw) 1 a, (unpkPair src st.ty sel, 1, src)]
      (match src with
        | .pl _ p => writeLanes s st d (fun i => BitVec.ofNat 32 (unpackPl p (blockPlanes p (st.getV a) sel) i).bits)
        | _ =>
          let r := convertElems (envOf st.mode) src st.ty st.active (st.getV d) (fun e => elemAt src (st.getV a) (sel * 32 * elems st.ty + e))
            (32 * elems st.ty)
          finish s (st.setV d r.1) r.2)))
/-- R98: PL8 and PL8H. -/
def isPl8 (t : Tag) : Bool := t == .pl false 8 || t == .pl true 8
/-- R111: VCVTH; the scales go to the scalar in field b. -/
def execVcvth (d a b : Nat) (s : State) : Out :=
  onCur s (fun st => withRegs s st [d, a]
    (let src := (st.getV a).tag
     withTags s st [stage1 st isPl8, stage2 st isFlt 1 a]
      (let q := quantRegister (st.ty == .pl true 8) src (modeFlush st.mode) st.active (st.getV a)
       let v := VReg.merge (st.getV d) st.ty st.active (fun i => ((q.getD (i / 8) ([], 0, 0)).1).getD (i % 8) 0)
       let sc := ((List.range q.length).map (fun k => (q.getD k ([], 0, 0)).2.1.toNat * 2 ^ (16 * k))).foldl (· + ·) 0
       finish s ((st.setV d v).setS b (BitVec.ofNat 64 sc)) (q.foldl (fun acc x => acc ||| x.2.2) 0))))
/-- R112: VRETAG. -/
def execVretag (d a : Nat) (tag : Tag) (s : State) : Out :=
  onCur s (fun st => withRegs s st [d, a] (finish s (st.setV d (VReg.merge (st.getV d) tag st.active (st.getV a).lane)) 0))
/-- R112: VGETTAG. -/
def execVgettag (d a : Nat) (s : State) : Out :=
  onCur s (fun st => withRegs s st [a] (finish s (st.setS d (BitVec.ofNat 64 (tagCode (st.getV a).tag))) 0))

end Sys2Proof.Machine
end

