-- ==== Sys2Proof/Machine/LoadStore.lean ====
section
/-!
DEFINITION. Loads and stores, prefetch, the scratchpad, atomics and reductions (R113–R120, R223–R227): the checks at issue
and the captured request. What a request does when it is performed stands in Perform.lean.
-/
namespace Sys2Proof.Machine

/-! ### Scalars (R114) -/

/-- R114: a scalar load of `n` bytes. -/
def loadScalar (n d a reuse : Nat) (off : BitVec 6) (s : State) : Out :=
  onCur s (fun st =>
    let x := offsetAddr (st.getS a) off n
    if x.toNat % n != 0 then alignTrap s st x else issueMem s st (.load d n x reuse))
/-- R114: a scalar store of `n` bytes. -/
def storeScalar (n d a : Nat) (off : BitVec 6) (s : State) : Out :=
  onCur s (fun st =>
    let x := offsetAddr (st.getS a) off n
    if x.toNat % n != 0 then alignTrap s st x else issueMem s st (.store n x (st.getS d)))

/-- R114: LDB. -/
def execLdb (d a reuse : Nat) (off : BitVec 6) (s : State) : Out := loadScalar 1 d a reuse off s
/-- R114: LDH. -/
def execLdh (d a reuse : Nat) (off : BitVec 6) (s : State) : Out := loadScalar 2 d a reuse off s
/-- R114: LDW. -/
def execLdw (d a reuse : Nat) (off : BitVec 6) (s : State) : Out := loadScalar 4 d a reuse off s
/-- R114: LDD. -/
def execLdd (d a reuse : Nat) (off : BitVec 6) (s : State) : Out := loadScalar 8 d a reuse off s
/-- R114: STB. -/
def execStb (d a : Nat) (off : BitVec 6) (s : State) : Out := storeScalar 1 d a off s
/-- R114: STH. -/
def execSth (d a : Nat) (off : BitVec 6) (s : State) : Out := storeScalar 2 d a off s
/-- R114: STW. -/
def execStw (d a : Nat) (off : BitVec 6) (s : State) : Out := storeScalar 4 d a off s
/-- R114: STD. -/
def execStd (d a : Nat) (off : BitVec 6) (s : State) : Out := storeScalar 8 d a off s

/-! ### Vectors (R115, R116, R120) -/

/-- R113: active lanes that are misaligned trap ALIGN at the lowest of them; else the rest. -/
def withAligned (s : State) (st : Strand) (addrs : List DWord) (act : Word) (size : Nat) (k : Out) : Out :=
  match misaligned addrs act size with
  | some x => alignTrap s st x
  | none => k
/-- R116, R120: a gather; `addrs` forms the lane addresses. -/
def gather (d a b : Nat) (addrs : DWord → VReg → List DWord) (req : Strand → Nat → List DWord → MemReq) (s : State) : Out :=
  onCur s (fun st => withRegs s st [d, b] (withTags s st [stage2 st isIndex 2 b]
    (let xs := addrs (st.getS a) (st.getV b)
     let n := accessBytes st.ty
     withAligned s st xs st.active n (issueMem s st (req st n xs)))))
/-- R116, R120: a scatter. -/
def scatter (d a b : Nat) (addrs : DWord → VReg → List DWord) (req : Strand → Nat → List DWord → MemReq) (s : State) : Out :=
  onCur s (fun st => withRegs s st [d, b] (withTags s st [stage2 st isIndex 2 b, stage2 st (tyOrRaw st) 3 d]
    (let xs := addrs (st.getS a) (st.getV b)
     let n := accessBytes st.ty
     withAligned s st xs st.active n (issueMem s st (req st n xs)))))
/-- R115, R120: 32 words from an address, loaded (`store` false) or stored. -/
def contiguous (d : Nat) (store : Bool) (addr : Strand → DWord) (req : Strand → List DWord → MemReq) (s : State) : Out :=
  onCur s (fun st => withRegs s st [d] (withTags s st [stage2 st (fun t => !store || tyOrRaw st t) 3 d]
    (let xs := lineAddrs (addr st)
     withAligned s st xs st.active 4 (issueMem s st (req st xs)))))

/-- R116, R53: VLD. -/
def execVld (d a : Nat) (reuse3 : Bool) (b : Nat) (s : State) : Out :=
  gather d a b gatherAddrs (fun st n xs => .vload d st.ty n xs st.active (if reuse3 then 3 else 0)) s
/-- R116: VST. -/
def execVst (d a b : Nat) (s : State) : Out :=
  scatter d a b gatherAddrs (fun st n xs => .vstore n xs (st.getV d).lanes st.active) s
/-- R115: VLDC. -/
def execVldc (d a reuse : Nat) (off : BitVec 6) (s : State) : Out :=
  contiguous d false (fun st => offsetAddr (st.getS a) off 4) (fun st xs => .vload d st.ty 4 xs st.active reuse) s
/-- R115: VSTC. -/
def execVstc (d a : Nat) (off : BitVec 6) (s : State) : Out :=
  contiguous d true (fun st => offsetAddr (st.getS a) off 4) (fun st xs => .vstore 4 xs (st.getV d).lanes st.active) s
/-- R118: PREF; a misaligned address is rounded down. -/
def execPref (a reuse : Nat) (off : BitVec 6) (s : State) : Out :=
  onCur s (fun st => issueMem s st (.pref (offsetAddr (st.getS a) off 4 &&& 0xFFFFFFFFFFFFFFFC) reuse))
/-- R120: SPLD. -/
def execSpld (d a b : Nat) (s : State) : Out := gather d a b spAddrs (fun st n xs => .spload d st.ty n xs st.active) s
/-- R120: SPST. -/
def execSpst (d a b : Nat) (s : State) : Out :=
  scatter d a b spAddrs (fun st n xs => .spstore n xs (st.getV d).lanes st.active) s
/-- R52: the address of SPLDC and SPSTC. -/
def spOffset (base : DWord) (imm : BitVec 8) : DWord := base + BitVec.ofInt 64 (imm.toInt * 4)
/-- R120: SPLDC. -/
def execSpldc (d a : Nat) (imm : BitVec 8) (s : State) : Out :=
  contiguous d false (fun st => spOffset (st.getS a) imm) (fun st xs => .spload d st.ty 4 xs st.active) s
/-- R120: SPSTC. -/
def execSpstc (d a : Nat) (imm : BitVec 8) (s : State) : Out :=
  contiguous d true (fun st => spOffset (st.getS a) imm) (fun st xs => .spstore 4 xs (st.getV d).lanes st.active) s

/-! ### Atomics and reductions (R223–R227) -/

/-- R223: I32, N32. -/
def int32Type : Tag → Bool
  | .i32 | .n32 => true
  | _ => false
/-- R223: I32, N32, F32, RAW. -/
def wordType (t : Tag) : Bool := isWord t || t == .raw
/-- R223: the mode types of an atomic. -/
def atomicAccepts : AtomicOp → Tag → Bool
  | .add, t | .min, t | .max, t => int32Type t
  | .and, t | .or, t | .xor, t => isIndex t
  | .xch, t | .cas, t => wordType t
  | .fadd, t => t == .f32

/-- R223: the checks of an atomic at issue, then its request: with a destination `d`, or none for a reduction. -/
def atomic (op : AtomicOp) (d : Option Nat) (a b : Nat) (addrs : DWord → VReg → List DWord) (req : Strand → List DWord → List Word → MemReq)
    (s : State) : Out :=
  onCur s (fun st => withRegs s st (d.toList ++ [b, b + 1]) (withTags s st
    ([stage1 st (atomicAccepts op), stage2 st isIndex 2 b, stage2 st (tyOrRaw st) 2 (b + 1)]
      ++ (if op == .cas then [stage2 st (tyOrRaw st) 3 (d.getD 0)] else []))
    (let xs := addrs (st.getS a) (st.getV b)
     withAligned s st xs st.active 4 (issueMem s st (req st xs (st.getV (b + 1)).lanes)))))
/-- R223: an atomic on scratchpad words. -/
def spAtomic (op : AtomicOp) (d a b : Nat) (s : State) : Out :=
  atomic op (some d) a b spAddrs (fun st xs ys => .spatomic op d st.ty xs ys (st.getV d).lanes st.active) s
/-- R223: a returning atomic on memory words. -/
def memAtomic (op : AtomicOp) (d a b : Nat) (s : State) : Out :=
  atomic op (some d) a b gatherAddrs (fun st xs ys => .atomic op (some d) st.ty xs ys (st.getV d).lanes st.active) s
/-- R226: a reduction. -/
def memReduce (op : AtomicOp) (a b : Nat) (s : State) : Out :=
  atomic op none a b gatherAddrs (fun st xs ys => .atomic op none st.ty xs ys [] st.active) s

/-- R223: SPAADD. -/
def execSpaadd (d a b : Nat) (s : State) : Out := spAtomic .add d a b s
/-- R225: SPACAS. -/
def execSpacas (d a b : Nat) (s : State) : Out := spAtomic .cas d a b s
/-- R223: AADD. -/
def execAadd (d a b : Nat) (s : State) : Out := memAtomic .add d a b s
/-- R223: AMIN. -/
def execAmin (d a b : Nat) (s : State) : Out := memAtomic .min d a b s
/-- R223: AMAX. -/
def execAmax (d a b : Nat) (s : State) : Out := memAtomic .max d a b s
/-- R223: AAND. -/
def execAand (d a b : Nat) (s : State) : Out := memAtomic .and d a b s
/-- R223: AOR. -/
def execAor (d a b : Nat) (s : State) : Out := memAtomic .or d a b s
/-- R223: AXOR. -/
def execAxor (d a b : Nat) (s : State) : Out := memAtomic .xor d a b s
/-- R223: AXCH. -/
def execAxch (d a b : Nat) (s : State) : Out := memAtomic .xch d a b s
/-- R225: ACAS. -/
def execAcas (d a b : Nat) (s : State) : Out := memAtomic .cas d a b s
/-- R223: AFADD. -/
def execAfadd (d a b : Nat) (s : State) : Out := memAtomic .fadd d a b s
/-- R226: REDADD. -/
def execRedadd (a b : Nat) (s : State) : Out := memReduce .add a b s
/-- R226: REDFADD. -/
def execRedfadd (a b : Nat) (s : State) : Out := memReduce .fadd a b s

end Sys2Proof.Machine
end

