-- ==== Sys2Proof/Machine/Power.lean ====
section
/-!
DEFINITION. Migration (R203, R204), thermal limits and the loss of a phase (R306, R307), ballast (R308), the power controller's
tick (R300–R305, R310), hall cap messages (R309, R311) and the patrol scrub (R292).
-/
namespace Sys2Proof.Machine

/-! ### Migration (R203, R204) -/

/-- R203: the run of cool cores of its cluster, other than its own, that a gang may move to, by R195's choice; its barrier entries and its
segments stay where they are. -/
def State.moveRun (s : State) (gid : Nat) : Option Nat :=
  let g := s.gang gid
  let l := s.launch g.launch
  let r := l.asReplica g.replica
  s.bestRun g.launch { r with segs := 0, header := { r.header with gbar := 0 } } (l.gangTeams g.index).length (fun c => !(s.core c).hot) [g.cluster]
    (some g.core)
/-- R306: a core's sensor reaches 100 °C: the gangs that work there are ordered moved where a run exists. -/
def execHotSpotLimit (core : Nat) (s : State) : Out :=
  let s1 := s.onCore core (fun c => { c with hot := true })
  .next ((s1.gangs.filter (fun e => e.2.moving.isNone && s1.onPlane (s1.launch e.2.launch) && e.2.teams.any (fun i => (s1.team i).core == core))).foldl
    (fun (u : State) e => if (u.moveRun e.1).isSome then u.onGang e.1 (fun g => { g with moving := some u.time }) else u) s1)

/-- R204 step 1, R232: whether a critical strand of a gang still defers a stop asked at device time `t`. -/
def State.gangDefers (s : State) (g : Gang) (t : Nat) : Bool :=
  decide (s.time < t + 100000) && s.strands.any (fun e => e.2.crit && g.teams.contains e.2.team && s.resident e.2)
/-- R204 step 3: the lines of an address space leave a core's L1, its DIRTY words to the L2. -/
def State.emptyL1 (s : State) (core asid : Nat) : State :=
  (s.core core).l1.foldl (fun (u : State) l => if l.asid == asid then u.evictToL2 core l else u) s
/-- R196, R202: the strands of a moved team take slots of its new core, one by one; a stopped pass waits for the new core's matrix unit (R183).
DESIGN CHOICE (log 120): strands that have exited take slots too. -/
def State.reseat (s : State) (l : Launch) (core : Nat) (sch : List Bool) (mine : List (Nat × Strand)) : State :=
  (mine.foldl (fun (acc : State × List (Bool × Nat)) e =>
    let d := sch.getD e.2.idx false
    let n := s.lowSlotBeside l core d acc.2
    (acc.1.onStrandAt e.1 (fun x => { x.parkPasses with sched := d, slotNo := n }), acc.2 ++ [(d, n)])) (s, [])).1
/-- R204 steps 4 and 5: team `tid`, which stands on no core, takes a new one; `bump` counts the move in `%place`. -/
def State.moveTeam (s : State) (bump : Bool) (tid core : Nat) : State :=
  let l := s.launch (s.team tid).launch
  let s1 := s.reseat l core ((s.scheds l core).getD []) (s.strands.filter (fun e => e.2.team == tid))
  (((s1.emptyL1 core l.asid).onCore core id)).onTeam tid (fun t => { t with
    core := core, place := if bump then t.place + 1 else t.place, xfers := t.xfers.map (fun x => { x with paused := false }) })
/-- R200, R204 steps 1 and 3: a stopped gang leaves its cores: waits that start afresh, lines of its address space that leave the L1s, imem
halves that no team of the launch is left on. -/
def State.lift (s : State) (gid : Nat) : State :=
  let g := s.gang gid
  let lid := g.launch
  let s1 := g.teams.foldl (fun (u : State) i => u.emptyL1 (u.team i).core (s.launch lid).asid) s
  let s2 := (s1.strands.filter (fun e => g.teams.contains e.2.team)).foldl (fun (u : State) e => u.waitAfresh e.1 e.2) s1
  let s3 := g.teams.foldl (fun (u : State) i => u.onTeam i (fun t => { t with core := 2048 })) s2
  s3.onLaunch lid (fun l => { l with imems := l.imems.filter (fun e => s3.teams.any (fun x => x.2.launch == lid && x.2.core == e.1)) })
/-- R204 steps 4 and 5: a lifted gang stands on the run at core `c`, with the imem halves its members held in `s0`. DESIGN CHOICE (log 115): a
half of the launch that another gang's team already has on a new core stays as it is, and none is copied over it. -/
def State.settle (s0 s : State) (bump : Bool) (gid c : Nat) : State :=
  let g := s.gang gid
  let lid := g.launch
  let half (i : Nat) : Option Imem := cfind (s0.launch lid).imems (s0.team i).core
  let take (m : Cells Imem) (i : Nat) : Cells Imem :=
    match cfind m (c + (s.team i).member), half i with
    | none, some im => cput m (c + (s.team i).member) im
    | _, _ => m
  let s1 := s.onLaunch lid (fun l => { l with imems := g.teams.foldl take l.imems })
  (g.teams.foldl (fun (u : State) i => u.moveTeam bump i (c + (u.team i).member)) s1).onGang gid (fun g => { g with core := c })
/-- R204: the move of a gang to a run of cores. -/
def State.moveGang (s : State) (gid c : Nat) : State :=
  (s.settle (s.lift gid) true gid c).onGang gid (fun g => { g with moving := none, stopped := none })
/-- R204: a migration of a gang whose context works goes through once every strand has stopped and every transfer has ended or is paused;
without a run the gang stays. -/
def execMigration (gang : Nat) (s : State) : Out :=
  let g := s.gang gang
  .next (match g.moving with
    | none => s
    | some t =>
      if !(s.onPlane (s.launch g.launch)) || s.gangDefers g t
          || s.strands.any (fun e => g.teams.contains e.2.team && s.finishing e.1 e.2) then s
      else if g.teams.any (fun i => (s.team i).xfers.any (fun x => x.live && !x.paused)) then
        (if g.stopped.isSome then s else s.onGang gang (fun g => { g with stopped := some s.time }))
      else match s.moveRun gang with
        | some c => s.moveGang gang c
        | none => g.teams.foldl (fun (u : State) i => u.onTeam i (fun t => { t with xfers := t.xfers.map (fun x => { x with paused := false }) }))
            (s.onGang gang (fun g => { g with moving := none, stopped := none })))
/-- R204 step 2: 50 µs after the stop unended transfers are paused at a beat boundary; their banks are named by member, and so follow it. -/
def execMigrationTransferRebind (gang : Nat) (s : State) : Out :=
  let g := s.gang gang
  .next (match g.moving, g.stopped with
    | some _, some t =>
      if s.time < t + 50000 then s
      else g.teams.foldl (fun (u : State) i => u.onTeam i (fun t => { t with xfers := t.xfers.map (fun x => { x with paused := x.live }) })) s
    | _, _ => s)

/-! ### Firmware's exchanges (R202, R298) -/

/-- R202, R298 step 1: the context of a partition that is not working, reloaded from its save area: each gang placed afresh in its cluster by
R195's rule; where one finds no run, all return to the cores they left (log 89). DESIGN CHOICE (log 119): an order to move a gang, and the time since it
has stopped for it, outlive the reload. -/
def State.reload (s : State) (p : Nat) : State :=
  let now := !(s.part p).plane
  let gs := s.gangs.filter (fun e => (s.launch e.2.launch).part == p && (s.launch e.2.launch).plane == now)
  let up := gs.foldl (fun (u : State) e => (u.lift e.1).onGang e.1 (fun g => { g with core := 2048, barCore := 2048 })) s
  (gs.foldl (fun (acc : Option State) e => acc.bind (fun u =>
    let l := u.launch e.2.launch
    (u.bestRun e.2.launch { (l.asReplica e.2.replica) with segs := 0 } (l.gangTeams e.2.index).length (fun _ => true) [e.2.cluster]).map (fun c =>
      (s.settle u false e.1 c).onGang e.1 (fun g => { g with barCore := c })))) (some up)).getD s
/-- R298: firmware's oldest request of a partition, where it is the oldest of all, carried as far as it can go: the incoming context loaded
once, then the exchange. -/
def State.firmwareTry (s : State) (p : Nat) : State :=
  if (s.part p).requests.head? != some 0 then s
  else
    let s1 := if (s.part p).loaded then s else
      { (if Config.reloads s.fresh then s.reload p else s).onPart p (fun x => { x with loaded := true }) with fresh := s.fresh + 1 }
    match s1.exchangeTry p 0 with
    | (t, true) => t.onPart p (fun x => { x with loaded := false })
    | (t, false) => t
/-- R95, R298: the oldest exchange asked of a partition goes on: firmware's, or that of a strand's PFLIP. -/
def State.carryExchange (s : State) (p : Nat) : State :=
  match (s.part p).requests.head? with
  | none => s
  | some 0 => s.firmwareTry p
  | some k => (s.exchangeTry p k).1
/-- R298: firmware asks for a pre-emption of a partition; each request is an exchange of its own. -/
def execPreemption (part : Nat) (s : State) : Out :=
  .next (if s.configured part then (s.onPart part (fun x => { x with requests := x.requests ++ [0] })).firmwareTry part else s)

/-! ### Thermal limits, phases, ballast (R306–R308) -/

/-- R306, R307: the clock of a cluster falls below the one asked for, where it is not at 1.2 GHz already (R302, log 90). -/
def State.slowCluster (s : State) (k : Nat) : State := s.onCluster k (fun c => { c with clock := max 120 (min c.clock (s.clockAsked k - 1)) })
/-- R306: a cluster's hottest sensor reaches 105 °C: its clock falls. -/
def execThermalClockLimit (cluster : Nat) (s : State) : Out :=
  .next (((s.onCluster cluster (fun c => { c with thermal := true })).slowCluster cluster).mevent 1)
/-- R306: the sensor is below 103 °C. -/
def execThermalLimitRelease (cluster : Nat) (s : State) : Out := .next (s.onCluster cluster (fun c => { c with thermal := false }))
/-- R306: the thermal trip: every command torn down with class ABORTED, the module stopped until reset. -/
def execThermalTrip (s : State) : Out :=
  let s1 := s.launches.foldl (fun (u : State) e => if e.2.started.isSome then u.tearDown e.1 (hubEvent .aborted e.2.queue 0) else u) s
  .next { s1.mevent 1 with power := { s1.power with stopped := true }, boot := { s1.boot with reason := 8 } }
/-- R307: ILIMIT of a die's rail in A. -/
def State.ilimit (s : State) (die : Nat) : Nat := 1000 * s.power.phases.getD die 16 / 16
/-- R307: a phase of a die's rail fails: ILIMIT falls with the working phases, and the die's clocks fall. -/
def execPhaseLoss (die : Nat) (s : State) : Out :=
  let s1 : State := { s with power := { s.power with phases := (List.range 4).map (fun d => s.power.phases.getD d 16 - if d = die then 1 else 0) } }
  .next (((s1.slowCluster (2 * die)).slowCluster (2 * die + 1)).mevent 0)
/-- R310: a bit of ACTIVE for limit `k`. -/
def activeBit (k : Nat) : Nat := 2 ^ (k - 1)
/-- R308: the cycles of a ballast period: whole steps of 64, at most 20 µs of the cluster's clock. -/
def State.ballastCycles (s : State) (k cycles : Nat) : Nat := 64 * (min cycles (200 * s.clockOf k) / 64)
/-- R308: a matrix unit of a granule is idle: no pass of a resident strand is under way on its core. -/
def State.idleUnit (s : State) (granule : Nat) : Bool :=
  let used := ((s.strands.filter (fun e => s.resident e.2 && e.2.nodes.any Node.running)).map (fun e => s.coreOf e.2)).eraseDups
  decide ((used.filter (fun c => granuleOf c == granule)).length < 128)
/-- R308: ballast steps of an idle matrix unit of a granule: their charge, counted in the windows of the partition that owns the granule, and limit 7
of that partition. -/
def execBallast (granule cycles : Nat) (s : State) : Out :=
  let n := s.ballastCycles (granule / 2) cycles
  let q := 2400 * n
  let s1 := s.addCharge (granule / 2) q
  .next (if !(s.idleUnit granule) then s else { s1 with parts := cmap (fun _ p => if holdsGranule p.pcfg granule then { p with
    ballast := p.ballast + BitVec.ofNat 64 q, ballastAt := some (s.time + n * 100 / s.clockOf (granule / 2)), active := if bitAt p.active 6 then p.active else p.active + activeBit 7 } else p) s1.parts })

/-! ### Limits (R304, R305, R301, R302, R310) -/

/-- R304: a partition in the computation of limits. -/
structure LimRow where
  id : Nat
  rank : Nat
  pcap : Nat
  lim : Nat
  cause : Nat
  deriving DecidableEq, Repr
/-- R304: the hall message in force applied to a partition's cap. -/
def hallCap (h : Option Hall) (r : LimRow) : LimRow := match h with
  | some m =>
    let c := m.capfrac * r.pcap / 256
    if r.rank ≤ m.thresh && c < r.lim then { r with lim := c, cause := 3 } else r
  | none => r
/-- R304: the module limit and its code. -/
def moduleLimit (modlim : Nat) (h : Option Hall) : Nat × Nat := match h with
  | some m => if m.modcap != 0 && m.modcap < modlim then (m.modcap, 3) else (modlim, 1)
  | none => (modlim, 1)
/-- R304: one rank's part of the cut; a rank whose hall cap lies below its floor is raised to it (log 71). -/
def cutRank (cm v : Nat) (rows : List LimRow) (excess : Int) : List LimRow × Int :=
  let g := rows.filter (fun r => r.rank == v)
  let room : Int := (g.map (fun r => (r.lim : Int) - ((r.pcap + 9) / 10 : Nat))).foldl (· + ·) 0
  let cut := min excess room
  let total : Nat := (g.map (·.pcap)).foldl (· + ·) 0
  let share (r : LimRow) : Int := (cut * r.pcap).fdiv total
  let rest := cut - (g.map share).foldl (· + ·) 0
  let first := (g.head?.map (·.id)).getD 0
  if excess ≤ 0 || g.isEmpty then (rows, excess)
  else (rows.map (fun r => if r.rank != v then r else
      let part := share r + if r.id = first then rest else 0
      if part = 0 then r else { r with lim := ((r.lim : Int) - part).toNat, cause := cm }), excess - cut)
/-- R304: the limits of the configured partitions, and whether the module is still above its own. -/
def State.limits (s : State) : List LimRow × Bool :=
  let rows := (s.parts.filter (fun e => granules e.2.pcfg != 0)).map (fun e =>
    hallCap s.power.hall { id := e.1, rank := e.2.rank, pcap := e.2.pcap, lim := e.2.pcap, cause := 2 })
  let m := moduleLimit s.power.modlim s.power.hall
  let excess : Int := ((rows.map (·.lim)).foldl (· + ·) 0 : Nat) - ((m.1 : Int) - s.power.uncore)
  let r := (List.range 256).foldl (fun (acc : List LimRow × Int) v => cutRank m.2 v acc.1 acc.2) (rows, excess)
  (r.1, decide (0 < r.2))
/-- R304, R306, R307: the codes of the limits under which a cluster's clock falls: the module above its limit, heat, and the die's rail, whose
derate replaces its current limit. -/
def State.fallCodes (s : State) (above : Bool) (k : Nat) : List Nat :=
  let die := k / 2
  (if above then [1] else []) ++ (if (s.cluster k).thermal then [4] else [])
    ++ (if s.power.phases.getD die 16 < 16 then [6] else if s.ilimit die < Config.railCurrent s.fresh die then [5] else [])
/-- R302, R304: the highest clock the limits leave a cluster, the controller choosing `ask` where one acts on it: below the clock asked for, never
below 1.2 GHz (log 90). -/
def State.limitedClock (s : State) (above : Bool) (k ask : Nat) : Nat :=
  if s.fallCodes above k = [] then 180 else max 120 (min (min 180 ask) (s.clockAsked k - 1))
/-- R303, R307, R310: the limits that lower a cluster's clock, as a partition of cause `cause` sees them. -/
def State.clockCodes (s : State) (above : Bool) (cause k : Nat) : List Nat :=
  if (s.cluster k).clock < s.clockAsked k then (s.fallCodes above k).filter (fun c => c != 1 || cause == 1) else []
/-- R308: ballast of partition `p` still runs, or is repaid until the mean of its power over the last millisecond is within the limit `lim` (log 90). -/
def State.repaying (s : State) (p lim : Nat) : Bool := match (s.part p).ballastAt with
  | some t => decide (s.time < t) || decide (lim < Config.partitionMean s.fresh p (s.part p).ballast)
  | none => false
/-- R301: TARGET of a cluster. -/
def State.targetOf (s : State) (k : Nat) : Nat := Config.clusterPower s.fresh k * 10 ^ 12 / (256 * (s.clockOf k * 10 ^ 7))
/-- R304, R305, R310: a partition after a tick: its limit and cause, its duty of 4 to 64 and the limits that bind. -/
def State.tickPart (s : State) (rows : List LimRow) (above : Bool) (duties : List Nat) (p : Nat) (x : Partition) : Partition :=
  match rows.find? (fun r => r.id == p) with
  | none => x
  | some r =>
    let lim := min r.lim x.pcap
    let owes := s.repaying p lim
    let duty := max 4 (min (if owes then 63 else 64) (duties.getD p 64))
    let codes := (if duties.getD p 64 < 64 then [r.cause] else []) ++ (if owes then [7] else [])
      ++ (clustersOf x.pcfg).flatMap (s.clockCodes above r.cause)
    { x with lim := lim, cause := r.cause, duty := duty, active := ((codes.eraseDups).map activeBit).foldl (· + ·) 0
             ballast := if owes then x.ballast else 0, ballastAt := if owes then x.ballastAt else none }
/-- R301–R305, R310: the power controller's tick: UNCORE as measured, the duties and clock limits it chooses. Marks of hot
cores are renewed by their sensors (log 30). -/
def execPowerControlTick (uncore : Nat) (duties clocks : List Nat) (s : State) : Out :=
  let s1 := { s with
    power := { s.power with uncore := uncore }
    cores := cmap (fun _ c => { c with hot := false }) s.cores }
  let r := s1.limits
  let s1 := { s1 with clusters := (List.range 8).foldl (fun m k => cput m k { s.cluster k with clock := s1.limitedClock r.2 k (clocks.getD k 180) }) s.clusters }
  let s2 := { s1 with parts := cmap (s1.tickPart r.1 r.2 duties) s1.parts, clusters := cmap (fun k c => { c with target := s1.targetOf k }) s1.clusters }
  .next { s2 with fresh := s2.fresh + 1 }

/-! ### Hall messages (R309, R311) -/

/-- The number whose most significant byte comes first. -/
def beNat (l : List Byte) : Nat := l.foldl (fun acc b => 256 * acc + b.toNat) 0
/-- R309: whether a message is well formed for an image. -/
def hallOk (im : Image) (b : List Byte) : Bool :=
  let v := beNat b
  b.length == 64 && bits v 511 480 == 0x47434150 && bits v 479 464 == 1 && bits v 383 352 == im.hallId
    && bits v 463 449 == 0 && bits v 303 128 == 0 && BitVec.ofNat 128 v == Config.hallMac im.hallKey (b.take 48)
/-- R309: a discarded message. -/
def State.hallDiscard (s : State) : State := { s with hub := { s.hub with mdiscard := s.hub.mdiscard + 1 } }.mevent 2
/-- R311: an accepted message replaces the one in force; LIFT leaves none. -/
def State.hallAccept (s : State) (v : Nat) : State :=
  let seq := BitVec.ofNat 64 (bits v 447 384)
  let hold := bits v 319 304
  let h : Hall := { seq := seq, thresh := bits v 351 344, capfrac := bits v 343 336, modcap := bits v 335 320
                    expiry := if hold = 0 then none else some (s.time + 1000000 * hold) }
  { s with power := { s.power with lastSeq := some seq, hall := if bitAt v 448 then none else some h } }
/-- R309, R311: a hall cap message received. One that is out of sequence is dropped without being counted (log 31). -/
def execHallCapMessage (bytes : List Byte) (s : State) : Out :=
  .next (match s.boot.image with
    | none => if s.boot.minimal then s else s.hallDiscard
    | some im =>
      if !(hallOk im bytes) then s.hallDiscard
      else
        let v := beNat bytes
        if (match s.power.lastSeq with | some q => decide (bits v 447 384 ≤ q.toNat) | none => false) then s.mevent 2 else s.hallAccept v)
/-- R311: HOLDMS expires. -/
def execHallCapExpiry (s : State) : Out :=
  .next (match s.power.hall.bind (·.expiry) with
    | some t => if t ≤ s.time then { s with power := { s.power with hall := none } } else s
    | none => s)

/-- R292: a scrub visit corrects errors in place: neither data nor poison that can be seen changes. -/
def execPatrolScrub (_sector : Nat) (s : State) : Out := .next s

end Sys2Proof.Machine
end

