-- ==== Sys2Proof/Decode.lean ====
section
/-!
DEFINITION. The decoder and the encoder, both written from the encoding tables R49–R55.
The decoder works on the fields of R50; it is total and refuses by name. The checks that need a kernel header are the
machine's (R57).
-/
namespace Sys2Proof

/-- A field check of R57 step 2. -/
def okIf (c : Bool) (i : Instr) : Option Instr := if c then some i else none

/-- Opcodes 0x00–0x0F of R54, R55; fields d, a, b of R50. -/
def decode0 (lo d a b : Nat) : Option Instr :=
  match lo with
  | 0x1 => okIf (d == 0 && a == 0 && b == 0) (.nop)
  | 0x2 => some (.br (BitVec.ofNat 24 (d * 65536 + a * 256 + b)))
  | 0x3 => some (.call (BitVec.ofNat 24 (d * 65536 + a * 256 + b)))
  | 0x4 => okIf (decide (d < 64)) (.brz d (BitVec.ofNat 16 (a * 256 + b)))
  | 0x5 => okIf (decide (d < 64)) (.brnz d (BitVec.ofNat 16 (a * 256 + b)))
  | 0x6 => okIf (decide (d < 8)) (.bre d (BitVec.ofNat 16 (a * 256 + b)))
  | 0x7 => okIf (decide (d < 8)) (.brne d (BitVec.ofNat 16 (a * 256 + b)))
  | 0x8 => okIf (d == 0 && decide (a < 64) && b == 0) (.jr a)
  | 0x9 => okIf (d == 0 && a == 0 && b == 0) (.ret)
  | 0xA => okIf (d == 0) (.trap (BitVec.ofNat 16 (a * 256 + b)))
  | 0xB => okIf (d == 0 && a == 0 && b == 0) (.eret)
  | 0xC => okIf (d == 0 && a == 0 && b == 0) (.exit)
  | 0xD => okIf (d == 0) (.bkpt (BitVec.ofNat 16 (a * 256 + b)))
  | 0xE => okIf (d == 0 && decide (a < 64) && b == 0) (.callr a)
  | _ => none

/-- Opcodes 0x10–0x1F of R54, R55; fields d, a, b of R50. -/
def decode1 (lo d a b : Nat) : Option Instr :=
  match lo with
  | 0x0 => okIf (decide (d < 64) && decide (a < 64) && decide (b < 64)) (.add d a b)
  | 0x1 => okIf (decide (d < 64) && decide (a < 64) && decide (b < 64)) (.sub d a b)
  | 0x2 => okIf (decide (d < 64) && decide (a < 64) && decide (b < 64)) (.mul d a b)
  | 0x3 => okIf (decide (d < 64) && decide (a < 64) && decide (b < 64)) (.mulh d a b)
  | 0x4 => okIf (decide (d < 64) && decide (a < 64) && decide (b < 64)) (.mulhn d a b)
  | 0x5 => okIf (decide (d < 64) && decide (a < 64) && decide (b < 64)) (.div d a b)
  | 0x6 => okIf (decide (d < 64) && decide (a < 64) && decide (b < 64)) (.divn d a b)
  | 0x7 => okIf (decide (d < 64) && decide (a < 64) && decide (b < 64)) (.rem d a b)
  | 0x8 => okIf (decide (d < 64) && decide (a < 64) && decide (b < 64)) (.remn d a b)
  | 0x9 => okIf (decide (d < 64) && decide (a < 64) && decide (b < 64)) (.and d a b)
  | 0xA => okIf (decide (d < 64) && decide (a < 64) && decide (b < 64)) (.or d a b)
  | 0xB => okIf (decide (d < 64) && decide (a < 64) && decide (b < 64)) (.xor d a b)
  | 0xC => okIf (decide (d < 64) && decide (a < 64) && decide (b < 64)) (.shl d a b)
  | 0xD => okIf (decide (d < 64) && decide (a < 64) && decide (b < 64)) (.shr d a b)
  | 0xE => okIf (decide (d < 64) && decide (a < 64) && decide (b < 64)) (.sra d a b)
  | 0xF => okIf (decide (d < 64) && decide (a < 64) && decide (b < 64)) (.slt d a b)
  | _ => none

/-- Opcodes 0x20–0x2F of R54, R55; fields d, a, b of R50. -/
def decode2 (lo d a b : Nat) : Option Instr :=
  match lo with
  | 0x0 => okIf (decide (d < 64) && decide (a < 64) && decide (b < 64)) (.sltn d a b)
  | 0x1 => okIf (decide (d < 64) && decide (a < 64) && decide (b < 64)) (.min d a b)
  | 0x2 => okIf (decide (d < 64) && decide (a < 64) && decide (b < 64)) (.max d a b)
  | 0x3 => okIf (decide (d < 64) && decide (a < 64) && decide (b < 64)) (.minn d a b)
  | 0x4 => okIf (decide (d < 64) && decide (a < 64) && decide (b < 64)) (.maxn d a b)
  | 0x5 => okIf (decide (d < 64) && decide (a < 64) && b == 0) (.clz d a)
  | 0x6 => okIf (decide (d < 64) && decide (a < 64) && b == 0) (.popc d a)
  | 0x7 => okIf (decide (d < 64) && decide (a < 64)) (.addi d a (BitVec.ofNat 8 b))
  | 0x8 => okIf (decide (d < 64) && decide (a < 64) && decide (b < 64)) (.shli d a b)
  | 0x9 => okIf (decide (d < 64) && decide (a < 64) && decide (b < 64)) (.shri d a b)
  | 0xA => okIf (decide (d < 64) && decide (a < 64) && decide (b < 64)) (.srai d a b)
  | 0xB => okIf (decide (d < 64) && decide (a < 64)) (.andi d a (BitVec.ofNat 8 b))
  | 0xC => okIf (decide (d < 64)) (.li d (BitVec.ofNat 16 (a * 256 + b)))
  | 0xD => okIf (decide (d < 64)) (.lih d (BitVec.ofNat 16 (a * 256 + b)))
  | 0xE => okIf (decide (d < 64) && Machine.specialRegs.contains a && b == 0) (.mfsr d a)
  | 0xF => okIf (Machine.specialRegs.contains d && decide (a < 64) && b == 0) (.mtsr d a)
  | _ => none

/-- Opcodes 0x30–0x3F of R54, R55; fields d, a, b of R50. -/
def decode3 (lo d a b : Nat) : Option Instr :=
  match lo with
  | 0x0 => okIf (d == 0 && Machine.modeOk (BitVec.ofNat 16 (a * 256 + b))) (.mode (BitVec.ofNat 16 (a * 256 + b)))
  | 0x1 => okIf (d == 0 && decide (a < 64) && b == 0) (.modes a)
  | 0x2 => okIf (d == 0 && decide (a < 8) && b == 0) (.emset a)
  | 0x3 => okIf (decide (d < 8) && a == 0 && b == 0) (.emget d)
  | 0x4 => okIf (decide (d < 8) && decide (a < 8) && decide (b < 8)) (.pand d a b)
  | 0x5 => okIf (decide (d < 8) && decide (a < 8) && decide (b < 8)) (.por d a b)
  | 0x6 => okIf (decide (d < 8) && decide (a < 8) && decide (b < 8)) (.pxor d a b)
  | 0x7 => okIf (decide (d < 8) && decide (a < 8) && decide (b < 8)) (.pandn d a b)
  | 0x8 => okIf (decide (d < 8) && decide (a < 8) && b == 0) (.pnot d a)
  | 0x9 => okIf (decide (d < 64) && decide (a < 8) && b == 0) (.ppopc d a)
  | 0xA => okIf (decide (d < 64) && decide (a < 8) && b == 0) (.pffs d a)
  | 0xB => okIf (decide (d < 8) && decide (a < 64) && b == 0) (.pfroms d a)
  | 0xC => okIf (decide (d < 64) && decide (a < 8) && b == 0) (.ptos d a)
  | _ => none

/-- Opcodes 0x40–0x4F of R54, R55; fields d, a, b of R50. -/
def decode4 (lo d a b : Nat) : Option Instr :=
  match lo with
  | 0x0 => okIf (decide (d < 128) && decide (a < 128) && decide (b < 128)) (.vadd d a b)
  | 0x1 => okIf (decide (d < 128) && decide (a < 128) && decide (b < 128)) (.vsub d a b)
  | 0x2 => okIf (decide (d < 128) && decide (a < 128) && decide (b < 128)) (.vmul d a b)
  | 0x3 => okIf (decide (d < 128) && decide (a < 128) && decide (b < 128)) (.vmad d a b)
  | 0x4 => okIf (decide (d < 128) && decide (a < 128) && decide (b < 128)) (.vmin d a b)
  | 0x5 => okIf (decide (d < 128) && decide (a < 128) && decide (b < 128)) (.vmax d a b)
  | 0x6 => okIf (decide (d < 128) && decide (a < 128) && b == 0) (.vabs d a)
  | 0x7 => okIf (decide (d < 128) && decide (a < 128) && b == 0) (.vneg d a)
  | 0x8 => okIf (decide (d < 128) && decide (a < 128) && decide (b < 128)) (.vdiv d a b)
  | 0x9 => okIf (decide (d < 128) && decide (a < 128) && b == 0) (.vrcp d a)
  | 0xA => okIf (decide (d < 128) && decide (a < 128) && b == 0) (.vrsq d a)
  | 0xB => okIf (decide (d < 128) && decide (a < 128) && b == 0) (.vsqrt d a)
  | 0xC => okIf (decide (d < 128) && decide (a < 128) && b == 0) (.vexp2 d a)
  | 0xD => okIf (decide (d < 128) && decide (a < 128) && b == 0) (.vlog2 d a)
  | 0xE => okIf (decide (d < 128) && decide (a < 128) && b == 0) (.vrnd d a)
  | 0xF => okIf (decide (d < 128) && decide (a < 128) && decide (b < 128)) (.vmulh d a b)
  | _ => none

/-- Opcodes 0x50–0x5F of R54, R55; fields d, a, b of R50. -/
def decode5 (lo d a b : Nat) : Option Instr :=
  match lo with
  | 0x0 => okIf (decide (d < 128) && decide (a < 128) && decide (b < 128)) (.vand d a b)
  | 0x1 => okIf (decide (d < 128) && decide (a < 128) && decide (b < 128)) (.vor d a b)
  | 0x2 => okIf (decide (d < 128) && decide (a < 128) && decide (b < 128)) (.vxor d a b)
  | 0x3 => okIf (decide (d < 128) && decide (a < 128) && b == 0) (.vnot d a)
  | 0x4 => okIf (decide (d < 128) && decide (a < 128) && decide (b < 128)) (.vshl d a b)
  | 0x5 => okIf (decide (d < 128) && decide (a < 128) && decide (b < 128)) (.vshr d a b)
  | 0x6 => okIf (decide (d < 128) && decide (a < 128) && b == 0) (.vclz d a)
  | 0x7 => okIf (decide (d < 128) && decide (a < 128) && b == 0) (.vpopc d a)
  | 0x8 => okIf (decide (d < 8) && decide (a < 128) && decide (b < 128)) (.vceq d a b)
  | 0x9 => okIf (decide (d < 8) && decide (a < 128) && decide (b < 128)) (.vcne d a b)
  | 0xA => okIf (decide (d < 8) && decide (a < 128) && decide (b < 128)) (.vclt d a b)
  | 0xB => okIf (decide (d < 8) && decide (a < 128) && decide (b < 128)) (.vcle d a b)
  | 0xC => okIf (decide (d < 128) && decide (a < 128) && decide (b < 128)) (.vsel d a b)
  | 0xD => okIf (decide (d < 128) && decide (a < 64) && b == 0) (.vbcst d a)
  | 0xE => okIf (decide (d < 64) && decide (a < 128) && decide (b < 32)) (.vtos d a b)
  | 0xF => okIf (decide (d < 128) && decide (a < 64) && decide (b < 32)) (.vsetl d a b)
  | _ => none

/-- Opcodes 0x60–0x6F of R54, R55; fields d, a, b of R50. -/
def decode6 (lo d a b : Nat) : Option Instr :=
  match lo with
  | 0x0 => okIf (decide (d < 128) && decide (a < 128) && decide (b < 128)) (.vshuf d a b)
  | 0x1 => okIf (decide (d < 128) && decide (a < 128) && decide (b < 64)) (.vlane d a b)
  | 0x2 => okIf (decide (d < 128) && decide (a < 8) && b == 0) (.vprefix d a)
  | 0x3 => okIf (decide (d < 128) && decide (a < 128) && b == 0) (.vmatch d a)
  | 0x4 => okIf (decide (d < 8) && decide (a < 128) && b == 0) (.vballot d a)
  | 0x5 => okIf (decide (d < 64) && decide (a < 128) && b == 0) (.vredadd d a)
  | 0x6 => okIf (decide (d < 64) && decide (a < 128) && b == 0) (.vredmin d a)
  | 0x7 => okIf (decide (d < 64) && decide (a < 128) && b == 0) (.vredmax d a)
  | 0x8 => okIf (decide (d < 128) && decide (a < 128) && b == 0) (.vscan d a)
  | 0x9 => okIf (decide (d < 128) && decide (a < 128) && b == 0) (.vcvt d a)
  | 0xA => okIf (decide (d < 128) && decide (a < 128) && decide (b < 64)) (.vcvth d a b)
  | 0xB => okIf (decide (d < 128) && decide (a < 128) && decide (b < 128)) (.vpack d a b)
  | 0xC => okIf (decide (d < 128) && decide (a < 128) && decide (b < 4)) (.vunpk d a b)
  | 0xD => (match Machine.tagOfCode b with
      | some t => okIf (decide (d < 128) && decide (a < 128)) (.vretag d a t)
      | none => none)
  | 0xE => okIf (decide (d < 64) && decide (a < 128) && b == 0) (.vgettag d a)
  | _ => none

/-- Opcodes 0x70–0x7F of R54, R55; fields d, a, b of R50. -/
def decode7 (lo d a b : Nat) : Option Instr :=
  match lo with
  | 0x0 => okIf (decide (d < 64) && decide (a < 64)) (.ldb d a (b / 64) (BitVec.ofNat 6 (b % 64)))
  | 0x1 => okIf (decide (d < 64) && decide (a < 64)) (.ldh d a (b / 64) (BitVec.ofNat 6 (b % 64)))
  | 0x2 => okIf (decide (d < 64) && decide (a < 64)) (.ldw d a (b / 64) (BitVec.ofNat 6 (b % 64)))
  | 0x3 => okIf (decide (d < 64) && decide (a < 64)) (.ldd d a (b / 64) (BitVec.ofNat 6 (b % 64)))
  | 0x4 => okIf (decide (d < 64) && decide (a < 64) && decide (b < 64)) (.stb d a (BitVec.ofNat 6 b))
  | 0x5 => okIf (decide (d < 64) && decide (a < 64) && decide (b < 64)) (.sth d a (BitVec.ofNat 6 b))
  | 0x6 => okIf (decide (d < 64) && decide (a < 64) && decide (b < 64)) (.stw d a (BitVec.ofNat 6 b))
  | 0x7 => okIf (decide (d < 64) && decide (a < 64) && decide (b < 64)) (.std d a (BitVec.ofNat 6 b))
  | 0x8 => okIf (decide (d < 128) && decide (a < 64)) (.vld d a (decide (128 ≤ b)) (b % 128))
  | 0x9 => okIf (decide (d < 128) && decide (a < 64) && decide (b < 128)) (.vst d a b)
  | 0xA => okIf (decide (d < 128) && decide (a < 64)) (.vldc d a (b / 64) (BitVec.ofNat 6 (b % 64)))
  | 0xB => okIf (decide (d < 128) && decide (a < 64) && decide (b < 64)) (.vstc d a (BitVec.ofNat 6 b))
  | 0xC => okIf (d == 0 && decide (a < 64)) (.pref a (b / 64) (BitVec.ofNat 6 (b % 64)))
  | 0xD => okIf (decide (d < 128) && decide (a < 64) && decide (b < 128)) (.spld d a b)
  | 0xE => okIf (decide (d < 128) && decide (a < 64) && decide (b < 128)) (.spst d a b)
  | 0xF => okIf (decide (d < 128) && decide (a < 64)) (.spldc d a (BitVec.ofNat 8 b))
  | _ => none

/-- Opcodes 0x80–0x8F of R54, R55; fields d, a, b of R50. -/
def decode8 (lo d a b : Nat) : Option Instr :=
  match lo with
  | 0x0 => okIf (decide (d < 128) && decide (a < 64)) (.spstc d a (BitVec.ofNat 8 b))
  | 0x1 => okIf (decide (d < 128) && decide (a < 64) && decide (b < 127)) (.spaadd d a b)
  | 0x2 => okIf (decide (d < 128) && decide (a < 64) && decide (b < 127)) (.spacas d a b)
  | 0x3 => okIf (decide (d < 128) && decide (a < 64) && decide (b < 127)) (.aadd d a b)
  | 0x4 => okIf (decide (d < 128) && decide (a < 64) && decide (b < 127)) (.amin d a b)
  | 0x5 => okIf (decide (d < 128) && decide (a < 64) && decide (b < 127)) (.amax d a b)
  | 0x6 => okIf (decide (d < 128) && decide (a < 64) && decide (b < 127)) (.aand d a b)
  | 0x7 => okIf (decide (d < 128) && decide (a < 64) && decide (b < 127)) (.aor d a b)
  | 0x8 => okIf (decide (d < 128) && decide (a < 64) && decide (b < 127)) (.axor d a b)
  | 0x9 => okIf (decide (d < 128) && decide (a < 64) && decide (b < 127)) (.axch d a b)
  | 0xA => okIf (decide (d < 128) && decide (a < 64) && decide (b < 127)) (.acas d a b)
  | 0xB => okIf (decide (d < 128) && decide (a < 64) && decide (b < 127)) (.afadd d a b)
  | 0xC => okIf (d == 0 && decide (a < 64) && decide (b < 127)) (.redadd a b)
  | 0xD => okIf (d == 0 && decide (a < 64) && decide (b < 127)) (.redfadd a b)
  | _ => none

/-- Opcodes 0x90–0x9F of R54, R55; fields d, a, b of R50. -/
def decode9 (lo d a b : Nat) : Option Instr :=
  match lo with
  | 0x0 => (match Machine.kindOfCode (b / 8) with
      | some k => okIf (d == 0 && a == 0) (.fence (Machine.scopeOfCode (b % 8)) k)
      | none => none)
  | 0x1 => okIf (decide (d < 64) && decide (a < 64) && decide (b < 64) && b / 8 % 2 == 0) (.ldacq d a (b / 16) (Machine.scopeOfCode (b % 8)))
  | 0x2 => okIf (decide (d < 64) && decide (a < 64) && decide (b < 64) && b / 8 % 2 == 0) (.strel d a (b / 16) (Machine.scopeOfCode (b % 8)))
  | 0x3 => okIf (d == 0 && a == 0 && b / 16 % 4 == 0) (.arrive (Machine.levelOfCode (b / 64)) (b % 16))
  | 0x4 => okIf (decide (d < 64) && a == 0 && b / 16 % 4 == 0) (.await d (Machine.levelOfCode (b / 64)) (b % 16))
  | 0x5 => okIf (decide (d < 64) && a == 0 && b / 16 % 4 == 0) (.meet d (Machine.levelOfCode (b / 64)) (b % 16))
  | 0x6 => okIf (d == 0 && a == 0 && b == 0) (.crit)
  | 0x7 => okIf (d == 0 && a == 0 && b == 0) (.uncrit)
  | 0x8 => okIf (decide (d < 64) && decide (a < 64) && b == 0) (.kjoin d a)
  | 0x9 => okIf (d == 0 && a == 0 && b == 0) (.kleave)
  | 0xA => okIf (decide (d < 64) && a == 0 && decide (b < 4)) (.kinfo d b)
  | _ => none

/-- Opcodes 0xA0–0xAF of R54, R55; fields d, a, b of R50. -/
def decodeA (lo d a b : Nat) : Option Instr :=
  match lo with
  | 0x0 => okIf (decide (d < 64) && a == 0 && decide (b < 16)) (.cbwait d b)
  | 0x1 => okIf (d == 0 && a == 0 && decide (b < 16)) (.cbpop b)
  | 0x2 => okIf (d == 0 && a == 0 && decide (b < 16)) (.cbpush b)
  | 0x3 => okIf (decide (d < 64) && a == 0 && decide (b < 16)) (.cbinfo d b)
  | 0x4 => okIf (decide (d < 128) && a == 0 && decide (b < 8)) (.qpush d b)
  | 0x5 => okIf (decide (d < 128) && a == 0 && decide (b < 8)) (.qpop d b)
  | 0x6 => okIf (decide (d < 64) && decide (a < 64) && b == 0) (.launch d a)
  | 0x7 => okIf (d == 0 && decide (a < 64) && decide (b < 64)) (.signal a b)
  | _ => none

/-- Opcodes 0xB0–0xBF of R54, R55; fields d, a, b of R50. -/
def decodeB (lo d a b : Nat) : Option Instr :=
  match lo with
  | 0x0 => (if d == 0 then match Machine.flipOfCode b with
      | some .segment => okIf (decide (a < 64)) (.flip .segment a)
      | some sc => okIf (a == 0) (.flip sc a)
      | none => none
      else none)
  | 0x1 => (if d == 0 then match Machine.flipOfCode b with
      | some .segment => okIf (decide (a < 64)) (.flipx .segment a)
      | some sc => okIf (a == 0) (.flipx sc a)
      | none => none
      else none)
  | 0x2 => (if d == 0 then match Machine.flipOfCode b with
      | some .segment => okIf (decide (a < 64)) (.flipc .segment a)
      | some sc => okIf (a == 0) (.flipc sc a)
      | none => none
      else none)
  | 0x3 => okIf (decide (d < 64) && decide (a < 64) && b == 0) (.xfer d a)
  | 0x4 => okIf (decide (d < 64) && decide (a < 64) && b == 0) (.xwait d a)
  | 0x5 => okIf (decide (d < 64) && decide (a < 64) && b == 0) (.xstat d a)
  | _ => none

/-- Opcodes 0xC0–0xCF of R54, R55; fields d, a, b of R50. -/
def decodeC (lo d a b : Nat) : Option Instr :=
  match lo with
  | 0x0 => okIf (decide (d < 8) && decide (a < 64) && b == 0) (.tld d a)
  | 0x1 => okIf (decide (d < 8) && decide (a < 64) && b == 0) (.tst d a)
  | 0x2 => okIf (decide (d < 8) && a == 0 && b == 0) (.tzero d)
  | 0x3 => -- tsel (R52)
      if a < 8 then okIf (decide (d < 8) && decide (b < 64)) (.tmmaTile d a b)
      else okIf (decide (128 ≤ a) && decide (a < 192) && decide (d < 8) && decide (b < 64)) (.tmmaDesc d (a - 128) b)
  | 0x4 => okIf (decide (d < 8) && decide (a < 8) && decide (b < 64)) (.tsoft d a b)
  | 0x5 => okIf (decide (d < 8) && decide (a < 8) && decide (b < 8)) (.tadd d a b)
  | 0x6 => okIf (decide (d < 8) && decide (a < 8) && decide (b < 8)) (.tmul d a b)
  | 0x7 => okIf (decide (d < 8) && a == 0 && b == 0) (.tscl d)
  | 0x8 => okIf (decide (d < 8) && decide (a < 8) && b == 0) (.texp2 d a)
  | 0x9 => okIf (decide (d < 8) && decide (a < 8) && b == 0) (.tcvt d a)
  | 0xA => okIf (decide (d < 8) && decide (a < 8) && decide (b < 8)) (.tmax d a b)
  | 0xB => okIf (decide (d < 8) && decide (a < 8) && decide (b < 2)) (.trowred d a b)
  | 0xC => okIf (decide (d < 64) && a == 0 && b == 0) (.tfence d)
  | 0xD => okIf (d == 0 && decide (a < 64) && b == 0) (.twait a)
  | 0xE => okIf (decide (d < 8) && a == 0 && decide (b < 16)) (.force d (BitVec.ofNat 4 b))
  | 0xF => okIf (decide (d < 8) && decide (a < 8) && decide (b < 64)) (.tmap d a b)
  | _ => none

/-- Opcodes 0xD0–0xDF of R54, R55; fields d, a, b of R50. -/
def decodeD (lo d a b : Nat) : Option Instr :=
  match lo with
  | 0x0 => okIf (decide (d < 128) && decide (a < 8) && decide (b < 128)) (.trv d a (b / 32) (b % 32))
  | 0x1 => okIf (decide (d < 8) && decide (a < 128) && decide (b < 128)) (.tvr d a (b / 32) (b % 32))
  | _ => none

/-- Opcodes 0xE0–0xEF of R54, R55; fields d, a, b of R50. -/
def decodeE (lo d a b : Nat) : Option Instr :=
  match lo with
  | 0x0 => okIf (d == 0 && a == 0 && b == 0) (.ckpt)
  | 0x1 => okIf (decide (d < 64) && a == 0 && b == 0) (.sigchk d)
  | 0x2 => okIf (d == 0 && a == 0 && decide (b < 4)) (.perf b)
  | 0x3 => okIf (decide (d < 64) && a == 0 && b == 0) (.time d)
  | 0x4 => okIf (decide (d < 64) && a == 0 && b == 0) (.cyc d)
  | 0x5 => okIf (d == 0 && decide (a < 64) && b == 0) (.settimer a)
  | 0x6 => okIf (d == 0 && a == 0 && b == 0) (.idemp)
  | _ => none

/-- Opcodes 0xF0–0xFF of R54, R55; fields d, a, b of R50. -/
def decodeF (lo d a b : Nat) : Option Instr :=
  match lo with
  | 0x0 => okIf (decide (d < 64) && decide (a < 64) && b == 0) (.sysrd d a)
  | 0x1 => okIf (decide (d < 64) && decide (a < 64) && b == 0) (.syswr d a)
  | 0x2 => okIf (d == 0 && a == 0 && b == 0) (.pflip)
  | 0x3 => okIf (d == 0 && decide (a < 64) && b == 0) (.haltc a)
  | 0x4 => okIf (d == 0 && decide (a < 64) && decide (b < 64)) (.tlbinv a b)
  | _ => none

/-- R54: the opcodes the map assigns. -/
def assigned (op : Nat) : Bool :=
  (decide (0x01 ≤ op) && decide (op ≤ 0x0E)) ||
  (decide (0x10 ≤ op) && decide (op ≤ 0x3C)) ||
  (decide (0x40 ≤ op) && decide (op ≤ 0x6E)) ||
  (decide (0x70 ≤ op) && decide (op ≤ 0x8D)) ||
  (decide (0x90 ≤ op) && decide (op ≤ 0x9A)) ||
  (decide (0xA0 ≤ op) && decide (op ≤ 0xA7)) ||
  (decide (0xB0 ≤ op) && decide (op ≤ 0xB5)) ||
  (decide (0xC0 ≤ op) && decide (op ≤ 0xD1)) ||
  (decide (0xE0 ≤ op) && decide (op ≤ 0xE6)) ||
  (decide (0xF0 ≤ op) && decide (op ≤ 0xF4))

/-- R50, R55: the instruction of an opcode and its three fields. -/
def decodeFields (op d a b : Nat) : Option Instr :=
  match op / 16 with
  | 0x0 => decode0 (op % 16) d a b
  | 0x1 => decode1 (op % 16) d a b
  | 0x2 => decode2 (op % 16) d a b
  | 0x3 => decode3 (op % 16) d a b
  | 0x4 => decode4 (op % 16) d a b
  | 0x5 => decode5 (op % 16) d a b
  | 0x6 => decode6 (op % 16) d a b
  | 0x7 => decode7 (op % 16) d a b
  | 0x8 => decode8 (op % 16) d a b
  | 0x9 => decode9 (op % 16) d a b
  | 0xA => decodeA (op % 16) d a b
  | 0xB => decodeB (op % 16) d a b
  | 0xC => decodeC (op % 16) d a b
  | 0xD => decodeD (op % 16) d a b
  | 0xE => decodeE (op % 16) d a b
  | 0xF => decodeF (op % 16) d a b
  | _ => none

/-- R49, R54, R57 steps 1 and 2: the instruction of a word. -/
def decodeWord (w : Word) : Except DecodeError Instr :=
  let n := w.toNat
  let op := n / 2 ^ 24
  match decodeFields op (n / 2 ^ 16 % 256) (n / 2 ^ 8 % 256) (n % 256) with
  | some i => .ok i
  | none => .error (if assigned op then .badField else .unassigned)

/-- R49: four bytes, little-endian, are one word. -/
def wordOfBytes (b0 b1 b2 b3 : Byte) : Word := b3 ++ b2 ++ b1 ++ b0

/-- R49: the instruction at the front of a byte string, and the rest of the string. -/
def decode : List Byte → Except DecodeError (Instr × List Byte)
  | b0 :: b1 :: b2 :: b3 :: rest =>
    match decodeWord (wordOfBytes b0 b1 b2 b3) with
    | .ok i => .ok (i, rest)
    | .error e => .error e
  | _ => .error .truncated

/-- R49: the four bytes of a word as they are stored. -/
def bytesOfWord (w : Word) : List Byte :=
  [w.extractLsb' 0 8, w.extractLsb' 8 8, w.extractLsb' 16 8, w.extractLsb' 24 8]

/-- R50: a word from its opcode and its three fields. -/
def packWord (op d a b : Nat) : Word :=
  BitVec.ofNat 32 (op * 2 ^ 24 + d * 2 ^ 16 + a * 2 ^ 8 + b)

/-- R55: the word of a well-formed instruction; an event has none. -/
def encode : Instr → Option Word
  | .nop => some (packWord 0x01 0 0 0)
  | .br off => some (packWord 0x02 (off.toNat / 65536) (off.toNat / 256 % 256) (off.toNat % 256))
  | .call off => some (packWord 0x03 (off.toNat / 65536) (off.toNat / 256 % 256) (off.toNat % 256))
  | .brz d off => some (packWord 0x04 d (off.toNat / 256) (off.toNat % 256))
  | .brnz d off => some (packWord 0x05 d (off.toNat / 256) (off.toNat % 256))
  | .bre d off => some (packWord 0x06 d (off.toNat / 256) (off.toNat % 256))
  | .brne d off => some (packWord 0x07 d (off.toNat / 256) (off.toNat % 256))
  | .jr a => some (packWord 0x08 0 a 0)
  | .ret => some (packWord 0x09 0 0 0)
  | .trap imm => some (packWord 0x0A 0 (imm.toNat / 256) (imm.toNat % 256))
  | .eret => some (packWord 0x0B 0 0 0)
  | .exit => some (packWord 0x0C 0 0 0)
  | .bkpt imm => some (packWord 0x0D 0 (imm.toNat / 256) (imm.toNat % 256))
  | .callr a => some (packWord 0x0E 0 a 0)
  | .add d a b => some (packWord 0x10 d a b)
  | .sub d a b => some (packWord 0x11 d a b)
  | .mul d a b => some (packWord 0x12 d a b)
  | .mulh d a b => some (packWord 0x13 d a b)
  | .mulhn d a b => some (packWord 0x14 d a b)
  | .div d a b => some (packWord 0x15 d a b)
  | .divn d a b => some (packWord 0x16 d a b)
  | .rem d a b => some (packWord 0x17 d a b)
  | .remn d a b => some (packWord 0x18 d a b)
  | .and d a b => some (packWord 0x19 d a b)
  | .or d a b => some (packWord 0x1A d a b)
  | .xor d a b => some (packWord 0x1B d a b)
  | .shl d a b => some (packWord 0x1C d a b)
  | .shr d a b => some (packWord 0x1D d a b)
  | .sra d a b => some (packWord 0x1E d a b)
  | .slt d a b => some (packWord 0x1F d a b)
  | .sltn d a b => some (packWord 0x20 d a b)
  | .min d a b => some (packWord 0x21 d a b)
  | .max d a b => some (packWord 0x22 d a b)
  | .minn d a b => some (packWord 0x23 d a b)
  | .maxn d a b => some (packWord 0x24 d a b)
  | .clz d a => some (packWord 0x25 d a 0)
  | .popc d a => some (packWord 0x26 d a 0)
  | .addi d a imm => some (packWord 0x27 d a (imm.toNat))
  | .shli d a sh => some (packWord 0x28 d a sh)
  | .shri d a sh => some (packWord 0x29 d a sh)
  | .srai d a sh => some (packWord 0x2A d a sh)
  | .andi d a imm => some (packWord 0x2B d a (imm.toNat))
  | .li d imm => some (packWord 0x2C d (imm.toNat / 256) (imm.toNat % 256))
  | .lih d imm => some (packWord 0x2D d (imm.toNat / 256) (imm.toNat % 256))
  | .mfsr d a => some (packWord 0x2E d a 0)
  | .mtsr d a => some (packWord 0x2F d a 0)
  | .mode m => some (packWord 0x30 0 (m.toNat / 256) (m.toNat % 256))
  | .modes a => some (packWord 0x31 0 a 0)
  | .emset a => some (packWord 0x32 0 a 0)
  | .emget d => some (packWord 0x33 d 0 0)
  | .pand d a b => some (packWord 0x34 d a b)
  | .por d a b => some (packWord 0x35 d a b)
  | .pxor d a b => some (packWord 0x36 d a b)
  | .pandn d a b => some (packWord 0x37 d a b)
  | .pnot d a => some (packWord 0x38 d a 0)
  | .ppopc d a => some (packWord 0x39 d a 0)
  | .pffs d a => some (packWord 0x3A d a 0)
  | .pfroms d a => some (packWord 0x3B d a 0)
  | .ptos d a => some (packWord 0x3C d a 0)
  | .vadd d a b => some (packWord 0x40 d a b)
  | .vsub d a b => some (packWord 0x41 d a b)
  | .vmul d a b => some (packWord 0x42 d a b)
  | .vmad d a b => some (packWord 0x43 d a b)
  | .vmin d a b => some (packWord 0x44 d a b)
  | .vmax d a b => some (packWord 0x45 d a b)
  | .vabs d a => some (packWord 0x46 d a 0)
  | .vneg d a => some (packWord 0x47 d a 0)
  | .vdiv d a b => some (packWord 0x48 d a b)
  | .vrcp d a => some (packWord 0x49 d a 0)
  | .vrsq d a => some (packWord 0x4A d a 0)
  | .vsqrt d a => some (packWord 0x4B d a 0)
  | .vexp2 d a => some (packWord 0x4C d a 0)
  | .vlog2 d a => some (packWord 0x4D d a 0)
  | .vrnd d a => some (packWord 0x4E d a 0)
  | .vmulh d a b => some (packWord 0x4F d a b)
  | .vand d a b => some (packWord 0x50 d a b)
  | .vor d a b => some (packWord 0x51 d a b)
  | .vxor d a b => some (packWord 0x52 d a b)
  | .vnot d a => some (packWord 0x53 d a 0)
  | .vshl d a b => some (packWord 0x54 d a b)
  | .vshr d a b => some (packWord 0x55 d a b)
  | .vclz d a => some (packWord 0x56 d a 0)
  | .vpopc d a => some (packWord 0x57 d a 0)
  | .vceq d a b => some (packWord 0x58 d a b)
  | .vcne d a b => some (packWord 0x59 d a b)
  | .vclt d a b => some (packWord 0x5A d a b)
  | .vcle d a b => some (packWord 0x5B d a b)
  | .vsel d a b => some (packWord 0x5C d a b)
  | .vbcst d a => some (packWord 0x5D d a 0)
  | .vtos d a lane => some (packWord 0x5E d a lane)
  | .vsetl d a lane => some (packWord 0x5F d a lane)
  | .vshuf d a b => some (packWord 0x60 d a b)
  | .vlane d a b => some (packWord 0x61 d a b)
  | .vprefix d a => some (packWord 0x62 d a 0)
  | .vmatch d a => some (packWord 0x63 d a 0)
  | .vballot d a => some (packWord 0x64 d a 0)
  | .vredadd d a => some (packWord 0x65 d a 0)
  | .vredmin d a => some (packWord 0x66 d a 0)
  | .vredmax d a => some (packWord 0x67 d a 0)
  | .vscan d a => some (packWord 0x68 d a 0)
  | .vcvt d a => some (packWord 0x69 d a 0)
  | .vcvth d a b => some (packWord 0x6A d a b)
  | .vpack d a b => some (packWord 0x6B d a b)
  | .vunpk d a sel => some (packWord 0x6C d a sel)
  | .vretag d a tag => some (packWord 0x6D d a (Machine.tagCode tag))
  | .vgettag d a => some (packWord 0x6E d a 0)
  | .ldb d a reuse off => some (packWord 0x70 d a (reuse * 64 + off.toNat))
  | .ldh d a reuse off => some (packWord 0x71 d a (reuse * 64 + off.toNat))
  | .ldw d a reuse off => some (packWord 0x72 d a (reuse * 64 + off.toNat))
  | .ldd d a reuse off => some (packWord 0x73 d a (reuse * 64 + off.toNat))
  | .stb d a off => some (packWord 0x74 d a (off.toNat))
  | .sth d a off => some (packWord 0x75 d a (off.toNat))
  | .stw d a off => some (packWord 0x76 d a (off.toNat))
  | .std d a off => some (packWord 0x77 d a (off.toNat))
  | .vld d a reuse3 b => some (packWord 0x78 d a ((if reuse3 then 128 else 0) + b))
  | .vst d a b => some (packWord 0x79 d a b)
  | .vldc d a reuse off => some (packWord 0x7A d a (reuse * 64 + off.toNat))
  | .vstc d a off => some (packWord 0x7B d a (off.toNat))
  | .pref a reuse off => some (packWord 0x7C 0 a (reuse * 64 + off.toNat))
  | .spld d a b => some (packWord 0x7D d a b)
  | .spst d a b => some (packWord 0x7E d a b)
  | .spldc d a imm => some (packWord 0x7F d a (imm.toNat))
  | .spstc d a imm => some (packWord 0x80 d a (imm.toNat))
  | .spaadd d a b => some (packWord 0x81 d a b)
  | .spacas d a b => some (packWord 0x82 d a b)
  | .aadd d a b => some (packWord 0x83 d a b)
  | .amin d a b => some (packWord 0x84 d a b)
  | .amax d a b => some (packWord 0x85 d a b)
  | .aand d a b => some (packWord 0x86 d a b)
  | .aor d a b => some (packWord 0x87 d a b)
  | .axor d a b => some (packWord 0x88 d a b)
  | .axch d a b => some (packWord 0x89 d a b)
  | .acas d a b => some (packWord 0x8A d a b)
  | .afadd d a b => some (packWord 0x8B d a b)
  | .redadd a b => some (packWord 0x8C 0 a b)
  | .redfadd a b => some (packWord 0x8D 0 a b)
  | .fence scope kind => some (packWord 0x90 0 0 (Machine.kindCode kind * 8 + Machine.scopeCode scope))
  | .ldacq d a size scope => some (packWord 0x91 d a (size * 16 + Machine.scopeCode scope))
  | .strel d a size scope => some (packWord 0x92 d a (size * 16 + Machine.scopeCode scope))
  | .arrive level n => some (packWord 0x93 0 0 (Machine.levelCode level * 64 + n))
  | .await d level n => some (packWord 0x94 d 0 (Machine.levelCode level * 64 + n))
  | .meet d level n => some (packWord 0x95 d 0 (Machine.levelCode level * 64 + n))
  | .crit => some (packWord 0x96 0 0 0)
  | .uncrit => some (packWord 0x97 0 0 0)
  | .kjoin d a => some (packWord 0x98 d a 0)
  | .kleave => some (packWord 0x99 0 0 0)
  | .kinfo d sel => some (packWord 0x9A d 0 sel)
  | .cbwait d n => some (packWord 0xA0 d 0 n)
  | .cbpop n => some (packWord 0xA1 0 0 n)
  | .cbpush n => some (packWord 0xA2 0 0 n)
  | .cbinfo d n => some (packWord 0xA3 d 0 n)
  | .qpush d n => some (packWord 0xA4 d 0 n)
  | .qpop d n => some (packWord 0xA5 d 0 n)
  | .launch d a => some (packWord 0xA6 d a 0)
  | .signal a b => some (packWord 0xA7 0 a b)
  | .flip scope a => some (packWord 0xB0 0 a (Machine.flipCode scope))
  | .flipx scope a => some (packWord 0xB1 0 a (Machine.flipCode scope))
  | .flipc scope a => some (packWord 0xB2 0 a (Machine.flipCode scope))
  | .xfer d a => some (packWord 0xB3 d a 0)
  | .xwait d a => some (packWord 0xB4 d a 0)
  | .xstat d a => some (packWord 0xB5 d a 0)
  | .tld d a => some (packWord 0xC0 d a 0)
  | .tst d a => some (packWord 0xC1 d a 0)
  | .tzero d => some (packWord 0xC2 d 0 0)
  | .tmmaTile d a b => some (packWord 0xC3 d a b)
  | .tmmaDesc d a b => some (packWord 0xC3 d (128 + a) b)
  | .tsoft d a b => some (packWord 0xC4 d a b)
  | .tadd d a b => some (packWord 0xC5 d a b)
  | .tmul d a b => some (packWord 0xC6 d a b)
  | .tscl d => some (packWord 0xC7 d 0 0)
  | .texp2 d a => some (packWord 0xC8 d a 0)
  | .tcvt d a => some (packWord 0xC9 d a 0)
  | .tmax d a b => some (packWord 0xCA d a b)
  | .trowred d a kind => some (packWord 0xCB d a kind)
  | .tfence d => some (packWord 0xCC d 0 0)
  | .twait a => some (packWord 0xCD 0 a 0)
  | .force d mask => some (packWord 0xCE d 0 (mask.toNat))
  | .tmap d a b => some (packWord 0xCF d a b)
  | .trv d a quarter row => some (packWord 0xD0 d a (quarter * 32 + row))
  | .tvr d a quarter row => some (packWord 0xD1 d a (quarter * 32 + row))
  | .ckpt => some (packWord 0xE0 0 0 0)
  | .sigchk d => some (packWord 0xE1 d 0 0)
  | .perf cls => some (packWord 0xE2 0 0 cls)
  | .time d => some (packWord 0xE3 d 0 0)
  | .cyc d => some (packWord 0xE4 d 0 0)
  | .settimer a => some (packWord 0xE5 0 a 0)
  | .idemp => some (packWord 0xE6 0 0 0)
  | .sysrd d a => some (packWord 0xF0 d a 0)
  | .syswr d a => some (packWord 0xF1 d a 0)
  | .pflip => some (packWord 0xF2 0 0 0)
  | .haltc a => some (packWord 0xF3 0 a 0)
  | .tlbinv a b => some (packWord 0xF4 0 a b)
  | .flipTakesEffect _ => none
  | .operandLogReplay _ => none
  | .timerExpiry _ => none
  | .strandPromotion _ => none
  | .critDeferralExpiry _ => none
  | .transferStart _ _ => none
  | .walkerBeat _ _ => none
  | .gangPlacement => none
  | .launchPassover _ => none
  | .terminationSample _ _ => none
  | .notifyWrite _ _ _ _ => none
  | .packetRead _ => none
  | .taskReady _ => none
  | .launchPacket _ => none
  | .pinPacket _ => none
  | .unpinPacket _ => none
  | .signalPacket _ => none
  | .nopPacket _ => none
  | .taskRetirement _ => none
  | .commandTimeout _ => none
  | .coreError _ _ => none
  | .graphPoison _ => none
  | .preemption _ => none
  | .hotSpotLimit _ => none
  | .migration _ => none
  | .migrationTransferRebind _ => none
  | .thermalClockLimit _ => none
  | .thermalTrip => none
  | .phaseLoss _ => none
  | .ballast _ _ => none
  | .powerControlTick _ _ _ => none
  | .patrolScrub _ => none
  | .ropeCompare _ _ => none
  | .logFullCheckpoint _ => none
  | .hostMemoryWrite _ _ _ _ => none
  | .hostMemoryRead _ _ _ _ => none
  | .queueRecordWrite _ => none
  | .queueRecordRead _ => none
  | .spanRecordWrite => none
  | .contextTearDown _ _ => none
  | .meventClear _ => none
  | .registerWrite _ _ => none
  | .moduleReset => none
  | .startTimeout => none
  | .bootRetry => none
  | .spdmRequest _ => none
  | .tdispLock _ => none
  | .tdispError _ => none
  | .hallCapMessage _ => none
  | .hallCapExpiry => none
  | .ieee1588Message _ => none
  | .flitReceive _ _ => none
  | .linkRetrainTimeout _ => none
  | .requestTimeout _ => none
  | .peerRequest _ => none
  | .peerResponse _ => none
  | .timeFlitSend => none
  | .timeFlitReceive _ _ _ => none
  | .spanHashCompare _ _ => none
  | .spanMatchTimeout _ => none
  | .invalidInstructionWord _ => none
  | .queueDescriptorError _ => none
  | .partitionReconfiguration _ => none
  | .firmwareReady => none
  | .startStageFailure _ => none
  | .newImageWrite _ => none
  | .tdispRun _ => none
  | .tdispConfigUnlocked _ => none
  | .linkRetrained _ => none
  | .ptmMessage _ => none
  | .managementPortFrame _ => none
  | .thermalLimitRelease _ => none
  | .peerBarrierArrival _ _ _ => none

/-- The host's question about one row of the opcode table: the instruction the decoder reads from the bytes of an
instruction whose bits are `w`. Every instruction of this hardware is one 32-bit word. -/
def decodeTableWord (nbits w : Nat) : Option Instr :=
  if nbits ≤ 32 then
    match decode (bytesOfWord (BitVec.ofNat 32 (w % 2 ^ nbits))) with
    | .ok (i, _) => some i
    | .error _ => none
  else none

end Sys2Proof
end

