-- ==== Sys2Proof/Machine/Fetch.lean ====
section
/-!
DEFINITION. Fetching a word from the working imem half (R49, R135), which registers it names (R55, R67), the checkpoint of a
rope's full log (R278), and the charge a word adds (R300).
-/
namespace Sys2Proof.Machine

/-! ### Fetch (R49, R57) -/

/-- The working imem half of a strand's core. -/
def State.imemOf (s : State) (st : Strand) : Bank :=
  match cfind (s.launchOf st).imems (s.coreOf st) with
  | some im => im.planes.work
  | none => Bank.empty
/-- R49: the word at a strand's pc; there is none at 0x0001_0000, which reads as the all-zero word that no instruction is. -/
def State.fetchWord (s : State) (st : Strand) : Word := if 65536 ≤ st.pc then 0 else readWord (s.imemOf st).bytes st.pc
/-- R136: whether the fetch meets a poisoned sector. -/
def State.fetchPoisoned (s : State) (st : Strand) : Bool := decide (st.pc < 65536) && (s.imemOf st).poisoned st.pc 4
/-- R57: what a word issues as: its instruction, or the trap of steps 1 and 2. -/
def instrOf (w : Word) : Instr := match decodeWord w with
  | .ok i => i
  | .error _ => .invalidInstructionWord w

/-! ### Registers a word names (R55, R67) -/

/-- Whether an opcode lies in one of the ranges. -/
def within (l : List (Nat × Nat)) (op : Nat) : Bool := l.any (fun r => decide (r.1 ≤ op) && decide (op ≤ r.2))
/-- A word's fields: opcode, d, a, b. -/
def fieldsOf (w : Word) : Nat × Nat × Nat × Nat := (w.toNat / 2 ^ 24, w.toNat / 2 ^ 16 % 256, w.toNat / 2 ^ 8 % 256, w.toNat % 256)
/-- R55: the scalar registers a word reads or writes. -/
def scalarsOf (w : Word) : List Nat :=
  let (op, d, a, b) := fieldsOf w
  (if within [(0x04, 0x05), (0x10, 0x2E), (0x39, 0x3A), (0x3C, 0x3C), (0x5E, 0x5E), (0x65, 0x67), (0x6E, 0x6E), (0x70, 0x77), (0x91, 0x92),
      (0x94, 0x95), (0x98, 0x98), (0x9A, 0x9A), (0xA0, 0xA0), (0xA3, 0xA3), (0xA6, 0xA6), (0xB3, 0xB5), (0xCC, 0xCC), (0xE1, 0xE1), (0xE3, 0xE4),
      (0xF0, 0xF1)] op then [d] else [])
  ++ (if within [(0x08, 0x08), (0x0E, 0x0E), (0x10, 0x2B), (0x2F, 0x2F), (0x31, 0x31), (0x3B, 0x3B), (0x5D, 0x5D), (0x5F, 0x5F), (0x70, 0x8D),
      (0x91, 0x92), (0x98, 0x98), (0xA6, 0xA7), (0xB0, 0xB5), (0xC0, 0xC1), (0xCD, 0xCD), (0xE5, 0xE5), (0xF0, 0xF1), (0xF3, 0xF4)] op then [a] else [])
  ++ (if op = 0xC3 && 128 ≤ a then [a - 128] else [])
  ++ (if within [(0x10, 0x24), (0x61, 0x61), (0x6A, 0x6A), (0xA7, 0xA7), (0xC3, 0xC4), (0xCF, 0xCF), (0xF4, 0xF4)] op then [b] else [])
  ++ (if within [(0x03, 0x03), (0x09, 0x09), (0x0E, 0x0E)] op then [63] else [])
/-- R55: the vector registers a word reads or writes. -/
def vectorsOf (w : Word) : List Nat :=
  let (op, d, a, b) := fieldsOf w
  (if within [(0x40, 0x57), (0x5C, 0x5D), (0x5F, 0x63), (0x68, 0x6D), (0x78, 0x7B), (0x7D, 0x8B), (0xA4, 0xA5), (0xD0, 0xD0)] op then [d] else [])
  ++ (if within [(0x40, 0x5C), (0x5E, 0x5E), (0x60, 0x61), (0x63, 0x6E), (0xD1, 0xD1)] op then [a] else [])
  ++ (if within [(0x40, 0x45), (0x48, 0x48), (0x4F, 0x52), (0x54, 0x55), (0x58, 0x5C), (0x60, 0x60), (0x6B, 0x6B), (0x78, 0x79), (0x7D, 0x7E)] op then [b % 128] else [])
  ++ (if within [(0x81, 0x8D)] op then [b, b + 1] else [])
/-- R67: whether a word names `%flags`. -/
def namesFlags (w : Word) : Bool :=
  let (op, d, a, _) := fieldsOf w
  (op = 0x2E && a = 0x19) || (op = 0x2F && d = 0x19)
/-- R55: an instruction of the skein. -/
def isTileWord (w : Word) : Bool := within [(0xC0, 0xD1)] (w.toNat / 2 ^ 24)
/-- R68: a memory instruction, which takes its place in the operand log itself; EXIT drains the log. -/
def isMemWord (w : Word) : Bool :=
  within [(0x0C, 0x0C), (0x70, 0x8D), (0x90, 0x95), (0x98, 0x99), (0xA0, 0xA7), (0xB3, 0xB5), (0xC0, 0xC1), (0xC3, 0xC3), (0xCD, 0xCD), (0xE0, 0xE0)]
    (w.toNat / 2 ^ 24)

/-- The scalar register a request will write. -/
def MemReq.scalarDest : MemReq → List Nat
  | .load d _ _ _ | .ldacq d _ _ _ | .await d _ _ | .meet d _ _ | .kjoin d _ | .cbwait d _ | .cbinfo d _ | .launch d _ | .submit d _ _
  | .xfer d _ | .xwait d _ | .xstat d _ => [d]
  | _ => []
/-- The vector register a request will write. -/
def MemReq.vectorDest : MemReq → List Nat
  | .vload d _ _ _ _ _ | .spload d _ _ _ _ | .spatomic _ d _ _ _ _ _ | .atomic _ (some d) _ _ _ _ _ | .qpop d _ _ => [d]
  | _ => []
/-- Whether a request appends to or demands of the skein. -/
def MemReq.isTile : MemReq → Bool
  | .tld _ _ | .tst _ _ | .tmmaTile _ _ _ | .tmmaDesc _ _ _ | .twait _ => true
  | _ => false
/-- R161: the tile a logged append will write, held by the scoreboard until then. -/
def MemReq.tileDest : MemReq → List Nat
  | .tld t _ | .tmmaTile t _ _ | .tmmaDesc t _ _ => [t]
  | _ => []
/-- R55: the tiles a word names. -/
def tilesOf (w : Word) : List Nat :=
  let (op, d, a, b) := fieldsOf w
  (if within [(0xC0, 0xCB), (0xCE, 0xCF), (0xD1, 0xD1)] op then [d] else [])
  ++ (if (op = 0xC3 && a < 128) || within [(0xC4, 0xC6), (0xC8, 0xCB), (0xCF, 0xD0)] op then [a] else [])
  ++ (if within [(0xC5, 0xC6), (0xCA, 0xCA)] op then [b] else [])
/-- Whether a request will raise flags of its own, beside those of the node work that it does or forces (R159). -/
def MemReq.raises : MemReq → Bool
  | .atomic .fadd (some _) _ _ _ _ _ => true
  | _ => false
/-- R67, R68, R161: the scoreboard stops a word that names the destination of a logged instruction, its tile too, or whose skein work, flags or
checkpoint must follow it (log 19). KINFO waits for no logged KJOIN or KLEAVE (log 102). -/
def Strand.blocked (st : Strand) (w : Word) : Bool :=
  st.log.any (fun e =>
    (scalarsOf w).any (fun d => d != 0 && e.req.scalarDest.contains d) || (vectorsOf w).any e.req.vectorDest.contains
      || (tilesOf w).any e.req.tileDest.contains
      || (namesFlags w && (e.req.raises || e.req.isTile || !(st.readersOf e.req.parts).isEmpty)) || (isTileWord w && !(isMemWord w) && e.req.isTile))

/-! ### A full log of a rope (R278) -/

/-- R272: the leader stalls 4,096 instructions ahead of its slowest counterpart. -/
def State.aheadOfSeconds (s : State) (st : Strand) : Bool :=
  s.level st != 0 && st.replica = 0 && (s.counterparts st).any (fun e =>
    decide (4096 + (e.2.issued - e.2.handled) ≤ st.issued - st.handled))
/-- R278: whether the operand log of strand `i` holds nothing that can go on by itself: replaying its oldest entry gets nowhere, and no answer is on
its way. -/
def State.logStuck (s : State) (i : Nat) (st : Strand) : Bool :=
  st.log.isEmpty || (!(s.fabric.outstanding.any (fun e => e.2.strand == i)) && (
    let t := s.replayLog i
    t.fabric.nextTag == s.fabric.nextTag && match t.strandAt i with
      | some x => x.log == st.log && x.presented == st.presented && x.nodes == st.nodes
      | none => false))
/-- R278: whether a strand has stopped for the checkpoint of a full log: it presents a rope release that has not begun, or it waits, for its leader or
its seconds too (R272) or behind what waits in its operand log, or it has ended. -/
def State.stoppedForLog (s : State) (i : Nat) (st : Strand) : Bool :=
  st.run != .running || (!(s.midRelease i st) && (st.presented.isSome || (s.logStuck i st && (match st.wait with
    | .none => s.aheadOfLeader st || s.aheadOfSeconds st || (!st.log.isEmpty && st.blocked (s.fetchWord st))
    | .peer | .pass | .line => false
    | .value => (takeValue st.values).isNone
    | _ => true))))
/-- R278: the checkpoint of a full log, once every strand of the rope has stopped and every transfer has ended. -/
def State.logFullCheckpoint (s : State) (tid : Nat) : State :=
  match s.strands.find? (fun e => e.2.team == tid) with
  | none => s
  | some (_, st) =>
    let r := s.ropeOf st
    if !r.logFull || r.rolling.isSome || !(s.ropeHere st) || !((s.ropeStrands st).all (fun e => s.stoppedForLog e.1 e.2))
      || !(r.teams.all (fun i => (s.team i).xfers.all Xfer.ended)) then s
    else s.checkpoint (s.team tid).rope false

/-! ### Charge (R300) -/

/-- R59: whether an opcode reads the guard. -/
def readsGuard (op : Nat) : Bool := within [(0x40, 0x6E), (0x78, 0x7B), (0x7D, 0x8D), (0xA4, 0xA5), (0xD0, 0xD0)] op
/-- R127: the passes of a scratchpad access. -/
def passesOf (addrs : List DWord) (act : Word) : Nat :=
  let ws := ((lanesOf act).map (fun i => addrOf addrs i / 4)).eraseDups
  (List.range 32).foldl (fun m k => max m (ws.filter (fun w => w % 32 == k)).length) 0
/-- R300: the weight of an opcode under a mode type. -/
def weightOf (op : Nat) (t : Tag) : Nat :=
  if within [(0x01, 0x3C), (0xA0, 0xA3), (0xB0, 0xB5), (0xE0, 0xE6), (0xF0, 0xF4)] op then 6
  else if within [(0x48, 0x48), (0x49, 0x4D)] op then 12
  else if within [(0x40, 0x4F)] op then
    if isInt t then (if within [(0x42, 0x43), (0x4F, 0x4F)] op then 4 else 2) else (if within [(0x42, 0x43)] op then 5 else 3)
  else if within [(0x65, 0x6A)] op && isInt t then 2
  else if within [(0x69, 0x6C)] op && (isFlt t || isFp8 t) then 3
  else if within [(0x50, 0x6E)] op then 1
  else if within [(0x70, 0x7C), (0x91, 0x92)] op then 8
  else if within [(0x7D, 0x80)] op then 3
  else if within [(0x81, 0x8D), (0xA4, 0xA5)] op then 12
  else Config.weight op
/-- R300: the charge of a word that issues from a strand. -/
def chargeOf (st : Strand) (w : Word) : Nat :=
  let (op, _, a, b) := fieldsOf w
  let n := if readsGuard op then (lanesOf st.active).length else 1
  if op = 0x7D || op = 0x7E then 4 + 3 * passesOf (spAddrs (st.getS a) (st.getV b)) st.active * n
  else if op = 0x7F || op = 0x80 then 4 + 3 * (if st.active = 0 then 0 else 1) * n
  else 4 + weightOf op st.ty * n

end Sys2Proof.Machine
end

