-- ==== Sys2Proof/Machine/Strands.lean ====
section
/-!
DEFINITION. The events of strands, transfers and ropes: replay of the operand log (R68), the strand timer (R89), promotion
(R198), transfers (R140, R243), the comparison of a rope (R272) and the checkpoint of a full log (R278). An event that is not
due changes nothing (log 4).
-/
namespace Sys2Proof.Machine

/-- R68, R200: a stopped strand's log stays; a working one's oldest entry replays, and so does one in the midst of a step that it finishes (R190). -/
def execOperandLogReplay (strand : Nat) (s : State) : Out :=
  .next (match s.strandAt strand with
    | some st => if s.working st || s.finishing strand st then s.replayLog strand else s
    | none => s)
/-- R89: a timer that has reached 0 disarms itself and raises TIMER. -/
def execTimerExpiry (strand : Nat) (s : State) : Out :=
  .next (match s.strandAt strand with
    | some st => if st.timer = some 0 then s.putStrandAt strand { st with timer := none, timerDue := true } else s
    | none => s)
/-- R198: a non-critical strand ready for 64 cycles without issuing is promoted. -/
def execStrandPromotion (strand : Nat) (s : State) : Out :=
  .next (match s.strandAt strand with
    | some st => if 64 ≤ st.readyFor && !st.crit then s.putStrandAt strand { st with promoted := true } else s
    | none => s)
/-- R243: a queued transfer takes a walker context. -/
def execTransferStart (team id : Nat) (s : State) : Out := .next (s.transferStart team id)
/-- R140: one beat. -/
def execWalkerBeat (team id : Nat) (s : State) : Out := .next (s.walkerBeat team id)
/-- R272: the comparison at a strand of a rope. -/
def execRopeCompare (team strand : Nat) (s : State) : Out := .next (s.ropeCompare team strand)
/-- R278: the checkpoint of a full log. -/
def execLogFullCheckpoint (team : Nat) (s : State) : Out := .next (s.logFullCheckpoint team)

end Sys2Proof.Machine
end

