-- ==== Sys2Proof/Machine/Sync.lean ====
section
/-!
DEFINITION. Ordering, barriers, knits, circular buffers, gang queues, LAUNCH, SIGNAL and transfers (R137, R145, R150,
R217–R222, R230, R254–R256): the checks at issue and the captured request. What a request does stands in Perform.lean.
-/
namespace Sys2Proof.Machine

/-! ### Fences and ordered accesses (R217, R218) -/

/-- R217: FENCE. -/
def execFence (scope : Scope) (kind : FenceKind) (s : State) : Out := onCur s (fun st => issueMem s st (.fence scope kind))
/-- R218: the bytes of a size code. -/
def ordBytes (size : Nat) : Nat := 2 ^ size
/-- R218: LDACQ. -/
def execLdacq (d a size : Nat) (scope : Scope) (s : State) : Out :=
  onCur s (fun st =>
    let x := st.getS a
    if x.toNat % ordBytes size != 0 then alignTrap s st x else issueMem s st (.ldacq d (ordBytes size) scope x))
/-- R218: STREL. -/
def execStrel (d a size : Nat) (scope : Scope) (s : State) : Out :=
  onCur s (fun st =>
    let x := st.getS a
    if x.toNat % ordBytes size != 0 then alignTrap s st x else issueMem s st (.strel (ordBytes size) scope x (st.getS d)))

/-! ### Barriers (R230) -/

/-- R52: a barrier number at or above the declared count traps ILLEGAL. -/
def withBar (s : State) (st : Strand) (level : BarLevel) (n : Nat) (k : Out) : Out :=
  if n < barCount (s.headerOf st) level then k else illegal s st 0
/-- R230: ARRIVE. -/
def execArrive (level : BarLevel) (n : Nat) (s : State) : Out := onCur s (fun st => withBar s st level n (issueMem s st (.arrive level n)))
/-- R230: AWAIT. -/
def execAwait (d : Nat) (level : BarLevel) (n : Nat) (s : State) : Out := onCur s (fun st => withBar s st level n (issueMem s st (.await d level n)))
/-- R230: MEET. -/
def execMeet (d : Nat) (level : BarLevel) (n : Nat) (s : State) : Out := onCur s (fun st => withBar s st level n (issueMem s st (.meet d level n)))

/-! ### Knits (R220–R222) -/

/-- R221: KJOIN. -/
def execKjoin (d a : Nat) (s : State) : Out := onCur s (fun st => issueMem s st (.kjoin d (st.getS a)))
/-- R222: KLEAVE. -/
def execKleave (s : State) : Out := onCur s (fun st => issueMem s st .kleave)
/-- R220: KINFO. -/
def execKinfo (d sel : Nat) (s : State) : Out := onCur s (fun st => sharedScalar s st d (s.kinfo st.team sel))

/-! ### Circular buffers (R150) -/

/-- R52: a buffer number at or above CBUFS traps ILLEGAL. -/
def withCb (s : State) (st : Strand) (n : Nat) (k : Out) : Out := if n < (s.headerOf st).cbufs then k else illegal s st 0
/-- R150: CBWAIT. -/
def execCbwait (d n : Nat) (s : State) : Out := onCur s (fun st => withCb s st n (issueMem s st (.cbwait d n)))
/-- R150: CBPOP. -/
def execCbpop (n : Nat) (s : State) : Out := onCur s (fun st => withCb s st n (issueMem s st (.cbpop n)))
/-- R150: CBPUSH. -/
def execCbpush (n : Nat) (s : State) : Out := onCur s (fun st => withCb s st n (issueMem s st (.cbpush n)))
/-- R150, R151: CBINFO. -/
def execCbinfo (d n : Nat) (s : State) : Out := onCur s (fun st => withCb s st n (issueMem s st (.cbinfo d n)))

/-! ### Gang queues, LAUNCH, SIGNAL (R254–R256) -/

/-- R256: QPUSH. -/
def execQpush (d n : Nat) (s : State) : Out :=
  onCur s (fun st => withRegs s st [d] (issueMem s st (.qpush n (st.getV d).lanes st.active)))
/-- R256: QPOP. -/
def execQpop (d n : Nat) (s : State) : Out := onCur s (fun st => withRegs s st [d] (issueMem s st (.qpop d n st.active)))
/-- R254: LAUNCH. -/
def execLaunch (d a : Nat) (s : State) : Out :=
  onCur s (fun st =>
    let x := st.getS a
    if x.toNat % 64 != 0 then alignTrap s st x else issueMem s st (.launch d x))
/-- R255: SIGNAL. -/
def execSignal (a b : Nat) (s : State) : Out :=
  onCur s (fun st =>
    let x := st.getS a
    if x.toNat % 8 != 0 then alignTrap s st x else issueMem s st (.signal x (st.getS b)))

/-! ### Transfers (R137, R145) -/

/-- R137: XFER. -/
def execXfer (d a : Nat) (s : State) : Out :=
  onCur s (fun st =>
    let x := st.getS a
    if x.toNat % 64 != 0 then alignTrap s st x else issueMem s st (.xfer d x))
/-- R145: XWAIT. -/
def execXwait (d a : Nat) (s : State) : Out := onCur s (fun st => issueMem s st (.xwait d (st.getS a)))
/-- R145: XSTAT. -/
def execXstat (d a : Nat) (s : State) : Out := onCur s (fun st => issueMem s st (.xstat d (st.getS a)))

end Sys2Proof.Machine
end

