-- ==== Sys2Proof/Machine/Tiles.lean ====
section
/-!
DEFINITION. Tile instructions (R156–R181, R188): the checks at issue, the nodes they append and the demands they make. What
a node computes stands in Skein.lean; what TLD, TST, TMMA and TWAIT do when they are performed, in Perform.lean.
-/
namespace Sys2Proof.Machine

/-- R51, R57: tile registers at or beyond TILES trap ILLEGAL. -/
def withTiles (s : State) (st : Strand) (tiles : List Nat) (k : Out) : Out :=
  if tiles.all (fun t => decide (t < (s.headerOf st).tiles)) then k else illegal s st 0
/-- R156: a strand whose quota is 0 cannot append. -/
def withQuota (s : State) (st : Strand) (k : Out) : Out := if s.quota st = 0 then illegal s st 0 else k
/-- R97: a tile source in field `f` with the tag required. -/
def tileTag (st : Strand) (ok : Tag → Bool) (f t : Nat) : Bool × Nat × Tag := (ok (st.getT t).tag, f, (st.getT t).tag)

/-- R166: node work done, then the rest; a fault in it is raised at this instruction, a peer's line is waited for. -/
def withNodes (i : Nat) (w : Work) (k : State → Strand → Out) : Out :=
  match w with
  | .ok t => match t.strandAt i with
    | some st => k t { st with peerLines := [], peerDone := [] }
    | none => .next t
  | .busy t => .next (t.onStrandAt i (fun st => { st with wait := .pass }))
  | .fault t f => match f.fail with
    | some (.peer h va n) => .next ((t.askForNode i f h va n).onStrandAt i (fun st => { st with wait := .line }))
    | _ => .next (t.nodeFault i f)
/-- R161: a node appended by the current strand. -/
def appendNode (s : State) (n : Node) (tags : List (Nat × Tag)) : Out := withNodes s.cur (s.append s.cur n tags) (fun t st => finish t st 0)

/-! ### Filling and emptying (R168–R172) -/

/-- R113, R167: an address that must be a multiple of 32. -/
def withAlign32 (s : State) (st : Strand) (x : DWord) (k : Out) : Out := if x.toNat % 32 != 0 then alignTrap s st x else k
/-- R121, R167: the state in which an instruction about to issue reads a descriptor: the strand's logged scratchpad stores and atomics,
which come before it, performed (log 87). -/
def State.afterLog (s : State) (i : Nat) (st : Strand) : State :=
  st.log.foldl (fun (t : State) e => match e.req with
    | .spstore size addrs data act => t.spStore st.team ((lanesOf act).map (fun j => (addrs.getD j 0, leBytes size (data.getD j 0).toNat)))
    | .spatomic op _ tag addrs xs es act => match t.performSpAtomic i op tag addrs xs es act with
      | .done u _ _ => u
      | _ => t
    | _ => t) s
/-- R167: TLD and TST check their descriptor when they issue, with no effect on failure. -/
def withDesc (s : State) (st : Strand) (r : Except DescBad (TileDesc × List Range)) (k : Out) : Out :=
  match r with
  | .ok _ => k
  | .error (.trap c a) => trapCur s (Trap.atIssue st c 0 a)
  | .error (.fatal a) => .next (s.fatal s.cur 0x11 st.pc a)
/-- R168: TLD. -/
def execTld (d a : Nat) (s : State) : Out :=
  onCur s (fun st => withTiles s st [d] (withQuota s st (withAlign32 s st (st.getS a)
    (withDesc s st ((s.afterLog s.cur st).tldDesc st (st.getS a)) (issueMem s st (.tld d (st.getS a)))))))
/-- R169: TST. -/
def execTst (d a : Nat) (s : State) : Out :=
  onCur s (fun st => withTiles s st [d] (withTags s st [tileTag st (isTy st) 3 d]
    (withAlign32 s st (st.getS a) (withDesc s st ((s.afterLog s.cur st).tstDesc st d (st.getS a)) (issueMem s st (.tst d (st.getS a)))))))
/-- R170: TZERO. -/
def execTzero (d : Nat) (s : State) : Out :=
  onCur s (fun st => withTiles s st [d] (withQuota s st (appendNode s (st.newNode 0xC2 .tzero d 0xF []) [(d, st.ty)])))
/-- R171: TVR. -/
def execTvr (d a quarter row : Nat) (s : State) : Out :=
  onCur s (fun st => withTiles s st [d] (withRegs s st [a] (withQuota s st (withTags s st
    [stage2 st (tyOrRaw st) 1 a, tileTag st (tyOrRaw st) 3 d]
    (appendNode s (st.newNode 0xD1 (.tvr row quarter (st.getV a).lanes) d (BitVec.ofNat 4 (2 ^ (row / 8))) []) [(d, st.ty)])))))
/-- R136: whether a quarter of a row holds a poisoned sector. -/
def Tile.poisonedQuarter (t : Tile) (row quarter : Nat) : Bool :=
  (List.range 4).any (fun k => member t.poison (16 * row + 4 * quarter + k))
/-- R172: TRV. -/
def execTrv (d a quarter row : Nat) (s : State) : Out :=
  onCur s (fun st => withTiles s st [a] (withRegs s st [d] (withTags s st [tileTag st (isTy st) 1 a]
    (withNodes s.cur (s.demand s.cur a [row / 8]) (fun t x =>
      let tile := x.getT a
      if tile.poisonedQuarter row quarter then .next (t.fatal t.cur 0x12 x.pc 0)
      else finish t (x.setV d (VReg.merge (x.getV d) tile.tag x.active (fun i => tile.word row (32 * quarter + i)))) 0)))))

/-! ### Element-wise nodes (R173–R176) -/

/-- R173: the types of TADD, TMUL and TMAX. -/
def tileArith (t : Tag) : Bool := isFlt t || int32Tag t
where
  /-- I32 and N32. -/
  int32Tag : Tag → Bool
    | .i32 | .n32 => true
    | _ => false
/-- R173: a node of two sources. -/
def tileBin (opcode : Nat) (op : TileOp) (d a b : Nat) (s : State) : Out :=
  onCur s (fun st => withTiles s st [d, a, b] (withQuota s st (withTags s st
    [stage1 st tileArith, tileTag st (isTy st) 1 a, tileTag st (isTy st) 2 b]
    (appendNode s (st.newNode opcode (.bin op st.ty a b) d 0xF []) [(d, st.ty)]))))
/-- R173: TADD. -/
def execTadd (d a b : Nat) (s : State) : Out := tileBin 0xC5 .add d a b s
/-- R173: TMUL. -/
def execTmul (d a b : Nat) (s : State) : Out := tileBin 0xC6 .mul d a b s
/-- R173: TMAX. -/
def execTmax (d a b : Nat) (s : State) : Out := tileBin 0xCA .max d a b s
/-- R173: TEXP2. -/
def execTexp2 (d a : Nat) (s : State) : Out :=
  onCur s (fun st => withTiles s st [d, a] (withQuota s st (withTags s st [stage1 st isFlt, tileTag st (isTy st) 1 a]
    (appendNode s (st.newNode 0xC8 (.texp2 st.ty a) d 0xF []) [(d, st.ty)]))))
/-- R173: TSCL. -/
def execTscl (d : Nat) (s : State) : Out :=
  onCur s (fun st => withTiles s st [d] (withQuota s st (withTags s st [stage1 st (fun t => t == .f32), tileTag st (isTy st) 3 d]
    (appendNode s (st.newNode 0xC7 .tscl d 0xF []) [(d, st.ty)]))))
/-- R174: the pairs of TCVT. -/
def tcvtPair (src dst : Tag) : Bool :=
  match src, dst with
  | .raw, _ | _, .raw => false
  | .pl h p, .pl k q => h == k && decide (q ≤ p)
  | .pl _ _, t => t == .f32
  | t, .pl _ q => isFlt t && q == 8
  | _, _ => true
/-- R174: TCVT. -/
def execTcvt (d a : Nat) (s : State) : Out :=
  onCur s (fun st => withTiles s st [d, a] (withQuota s st (withTags s st
    [stage1 st (fun t => t != .raw), tileTag st (fun t => tcvtPair t st.ty) 1 a]
    (appendNode s (st.newNode 0xC9 (.tcvt (st.getT a).tag st.ty a) d 0xF []) [(d, st.ty)]))))
/-- R175: TROWRED; d's tag stays. -/
def execTrowred (d a kind : Nat) (s : State) : Out :=
  onCur s (fun st => withTiles s st [d, a] (withQuota s st (withTags s st [stage1 st isFlt, tileTag st (isTy st) 1 a]
    (appendNode s (st.newNode 0xCB (.trowred st.ty a kind) d 0xF []) []))))
/-- R176: the map that a scalar encodes; BCAST takes K 0 to 31 (log 21). -/
def rowMapOf (v : DWord) : Option RowMap :=
  let k := bits v.toNat 13 8
  if v.toNat / 2 ^ 14 != 0 || bits v.toNat 7 3 != 0 then none else
  match bits v.toNat 2 0 with
  | 0 => if k = 0 then some .ident else none
  | 1 => if k = 32 then none else some (.shift (signed 6 k))
  | 2 => if k < 32 then some (.bcast k) else none
  | 3 => if k = 0 then some .trans else none
  | 4 => if k = 0 then some .side else none
  | _ => none
/-- R176: TMAP. -/
def execTmap (d a b : Nat) (s : State) : Out :=
  onCur s (fun st => withTiles s st [d, a] (withQuota s st (match rowMapOf (st.getS b) with
    | none => illegal s st (st.getS b)
    | some m => appendNode s (st.newNode 0xCF (.tmap m a) d 0xF []) [(d, if m == .side then .f32 else (st.getT a).tag)])))

/-! ### The matrix unit and softmax (R181, R188) -/

/-- R68, R167, R181: the alignments of TMMA's descriptors, their addresses and what they hold, checked at issue. -/
def withAligned32 (s : State) (st : Strand) (xs : List DWord) (k : Out) : Out :=
  let t := s.afterLog s.cur st
  match xs.find? (fun x => x.toNat % 32 != 0), xs.findSome? (fun x => match t.descCheckTag st false x with
    | .error (.trap 0x04 a) => some a
    | _ => none) with
  | some a, _ | none, some a => alignTrap s st a
  | none, none => k
/-- R181: TMMA with A from a tile. -/
def execTmmaTile (d a b : Nat) (s : State) : Out :=
  onCur s (fun st => withTiles s st [d, a] (withQuota s st (withAligned32 s st [st.getS b] (issueMem s st (.tmmaTile d a (st.getS b))))))
/-- R181: TMMA with A from a descriptor. -/
def execTmmaDesc (d a b : Nat) (s : State) : Out :=
  onCur s (fun st => withTiles s st [d] (withQuota s st (withAligned32 s st [st.getS a, st.getS b]
    (issueMem s st (.tmmaDesc d (st.getS a) (st.getS b))))))
/-- R188: TSOFT: O in d, S in a, c in the low word of s(b). DEDUCED (log 56): O's tag is checked before S's, and both tags before the tile
named twice. -/
def execTsoft (d a b : Nat) (s : State) : Out :=
  onCur s (fun st => withTiles s st [d, a] (withQuota s st (withTags s st
    [tileTag st (fun t => t == .f32) 3 d, tileTag st (fun t => t == .f32) 1 a]
    (if d = a then illegal s st 0
     else appendNode s (st.newNode 0xC4 (.tsoft a ((st.getS b).setWidth 32)) d 0xF []) [(d, .f32), (a, .bf16)]))))

/-! ### Demands, batches and waits (R177–R179) -/

/-- R178: the batch after one. -/
def nextBatch (b : Word) : Word := if b + 1 = 0 then 1 else b + 1
/-- R178: TFENCE. -/
def execTfence (d : Nat) (s : State) : Out :=
  onCur s (fun st => finish s ({ st with batch := nextBatch st.batch }.setS d (st.batch.zeroExtend 64)) 0)
/-- R179: TWAIT. -/
def execTwait (a : Nat) (s : State) : Out := onCur s (fun st => issueMem s st (.twait (st.getS a)))
/-- R177: FORCE. -/
def execForce (d : Nat) (mask : BitVec 4) (s : State) : Out :=
  onCur s (fun st => withTiles s st [d]
    (withNodes s.cur (s.demand s.cur d ((List.range 4).filter (fun g => mask.getLsbD g))) (fun t x => finish t x 0)))

end Sys2Proof.Machine
end

