-- ==== Sys2Proof/Machine/Dispatch.lean ====
section
/-!
DEFINITION. The dispatch of an instruction to its meaning.
-/
namespace Sys2Proof.Machine

/-- R57, 95_what_each_step_holds.md: what one instruction or event does. -/
def exec (i : Instr) (s : State) : Host.Outcome State Fault Refusal :=
  match i with
  | .nop => Sys2Proof.Machine.execNop s
  | .br off => Sys2Proof.Machine.execBr off s
  | .call off => Sys2Proof.Machine.execCall off s
  | .brz d off => Sys2Proof.Machine.execBrz d off s
  | .brnz d off => Sys2Proof.Machine.execBrnz d off s
  | .bre d off => Sys2Proof.Machine.execBre d off s
  | .brne d off => Sys2Proof.Machine.execBrne d off s
  | .jr a => Sys2Proof.Machine.execJr a s
  | .ret => Sys2Proof.Machine.execRet s
  | .trap imm => Sys2Proof.Machine.execTrap imm s
  | .eret => Sys2Proof.Machine.execEret s
  | .exit => Sys2Proof.Machine.execExit s
  | .bkpt imm => Sys2Proof.Machine.execBkpt imm s
  | .callr a => Sys2Proof.Machine.execCallr a s
  | .add d a b => Sys2Proof.Machine.execAdd d a b s
  | .sub d a b => Sys2Proof.Machine.execSub d a b s
  | .mul d a b => Sys2Proof.Machine.execMul d a b s
  | .mulh d a b => Sys2Proof.Machine.execMulh d a b s
  | .mulhn d a b => Sys2Proof.Machine.execMulhn d a b s
  | .div d a b => Sys2Proof.Machine.execDiv d a b s
  | .divn d a b => Sys2Proof.Machine.execDivn d a b s
  | .rem d a b => Sys2Proof.Machine.execRem d a b s
  | .remn d a b => Sys2Proof.Machine.execRemn d a b s
  | .and d a b => Sys2Proof.Machine.execAnd d a b s
  | .or d a b => Sys2Proof.Machine.execOr d a b s
  | .xor d a b => Sys2Proof.Machine.execXor d a b s
  | .shl d a b => Sys2Proof.Machine.execShl d a b s
  | .shr d a b => Sys2Proof.Machine.execShr d a b s
  | .sra d a b => Sys2Proof.Machine.execSra d a b s
  | .slt d a b => Sys2Proof.Machine.execSlt d a b s
  | .sltn d a b => Sys2Proof.Machine.execSltn d a b s
  | .min d a b => Sys2Proof.Machine.execMin d a b s
  | .max d a b => Sys2Proof.Machine.execMax d a b s
  | .minn d a b => Sys2Proof.Machine.execMinn d a b s
  | .maxn d a b => Sys2Proof.Machine.execMaxn d a b s
  | .clz d a => Sys2Proof.Machine.execClz d a s
  | .popc d a => Sys2Proof.Machine.execPopc d a s
  | .addi d a imm => Sys2Proof.Machine.execAddi d a imm s
  | .shli d a sh => Sys2Proof.Machine.execShli d a sh s
  | .shri d a sh => Sys2Proof.Machine.execShri d a sh s
  | .srai d a sh => Sys2Proof.Machine.execSrai d a sh s
  | .andi d a imm => Sys2Proof.Machine.execAndi d a imm s
  | .li d imm => Sys2Proof.Machine.execLi d imm s
  | .lih d imm => Sys2Proof.Machine.execLih d imm s
  | .mfsr d a => Sys2Proof.Machine.execMfsr d a s
  | .mtsr d a => Sys2Proof.Machine.execMtsr d a s
  | .mode m => Sys2Proof.Machine.execMode m s
  | .modes a => Sys2Proof.Machine.execModes a s
  | .emset a => Sys2Proof.Machine.execEmset a s
  | .emget d => Sys2Proof.Machine.execEmget d s
  | .pand d a b => Sys2Proof.Machine.execPand d a b s
  | .por d a b => Sys2Proof.Machine.execPor d a b s
  | .pxor d a b => Sys2Proof.Machine.execPxor d a b s
  | .pandn d a b => Sys2Proof.Machine.execPandn d a b s
  | .pnot d a => Sys2Proof.Machine.execPnot d a s
  | .ppopc d a => Sys2Proof.Machine.execPpopc d a s
  | .pffs d a => Sys2Proof.Machine.execPffs d a s
  | .pfroms d a => Sys2Proof.Machine.execPfroms d a s
  | .ptos d a => Sys2Proof.Machine.execPtos d a s
  | .vadd d a b => Sys2Proof.Machine.execVadd d a b s
  | .vsub d a b => Sys2Proof.Machine.execVsub d a b s
  | .vmul d a b => Sys2Proof.Machine.execVmul d a b s
  | .vmad d a b => Sys2Proof.Machine.execVmad d a b s
  | .vmin d a b => Sys2Proof.Machine.execVmin d a b s
  | .vmax d a b => Sys2Proof.Machine.execVmax d a b s
  | .vabs d a => Sys2Proof.Machine.execVabs d a s
  | .vneg d a => Sys2Proof.Machine.execVneg d a s
  | .vdiv d a b => Sys2Proof.Machine.execVdiv d a b s
  | .vrcp d a => Sys2Proof.Machine.execVrcp d a s
  | .vrsq d a => Sys2Proof.Machine.execVrsq d a s
  | .vsqrt d a => Sys2Proof.Machine.execVsqrt d a s
  | .vexp2 d a => Sys2Proof.Machine.execVexp2 d a s
  | .vlog2 d a => Sys2Proof.Machine.execVlog2 d a s
  | .vrnd d a => Sys2Proof.Machine.execVrnd d a s
  | .vmulh d a b => Sys2Proof.Machine.execVmulh d a b s
  | .vand d a b => Sys2Proof.Machine.execVand d a b s
  | .vor d a b => Sys2Proof.Machine.execVor d a b s
  | .vxor d a b => Sys2Proof.Machine.execVxor d a b s
  | .vnot d a => Sys2Proof.Machine.execVnot d a s
  | .vshl d a b => Sys2Proof.Machine.execVshl d a b s
  | .vshr d a b => Sys2Proof.Machine.execVshr d a b s
  | .vclz d a => Sys2Proof.Machine.execVclz d a s
  | .vpopc d a => Sys2Proof.Machine.execVpopc d a s
  | .vceq d a b => Sys2Proof.Machine.execVceq d a b s
  | .vcne d a b => Sys2Proof.Machine.execVcne d a b s
  | .vclt d a b => Sys2Proof.Machine.execVclt d a b s
  | .vcle d a b => Sys2Proof.Machine.execVcle d a b s
  | .vsel d a b => Sys2Proof.Machine.execVsel d a b s
  | .vbcst d a => Sys2Proof.Machine.execVbcst d a s
  | .vtos d a lane => Sys2Proof.Machine.execVtos d a lane s
  | .vsetl d a lane => Sys2Proof.Machine.execVsetl d a lane s
  | .vshuf d a b => Sys2Proof.Machine.execVshuf d a b s
  | .vlane d a b => Sys2Proof.Machine.execVlane d a b s
  | .vprefix d a => Sys2Proof.Machine.execVprefix d a s
  | .vmatch d a => Sys2Proof.Machine.execVmatch d a s
  | .vballot d a => Sys2Proof.Machine.execVballot d a s
  | .vredadd d a => Sys2Proof.Machine.execVredadd d a s
  | .vredmin d a => Sys2Proof.Machine.execVredmin d a s
  | .vredmax d a => Sys2Proof.Machine.execVredmax d a s
  | .vscan d a => Sys2Proof.Machine.execVscan d a s
  | .vcvt d a => Sys2Proof.Machine.execVcvt d a s
  | .vcvth d a b => Sys2Proof.Machine.execVcvth d a b s
  | .vpack d a b => Sys2Proof.Machine.execVpack d a b s
  | .vunpk d a sel => Sys2Proof.Machine.execVunpk d a sel s
  | .vretag d a tag => Sys2Proof.Machine.execVretag d a tag s
  | .vgettag d a => Sys2Proof.Machine.execVgettag d a s
  | .ldb d a reuse off => Sys2Proof.Machine.execLdb d a reuse off s
  | .ldh d a reuse off => Sys2Proof.Machine.execLdh d a reuse off s
  | .ldw d a reuse off => Sys2Proof.Machine.execLdw d a reuse off s
  | .ldd d a reuse off => Sys2Proof.Machine.execLdd d a reuse off s
  | .stb d a off => Sys2Proof.Machine.execStb d a off s
  | .sth d a off => Sys2Proof.Machine.execSth d a off s
  | .stw d a off => Sys2Proof.Machine.execStw d a off s
  | .std d a off => Sys2Proof.Machine.execStd d a off s
  | .vld d a reuse3 b => Sys2Proof.Machine.execVld d a reuse3 b s
  | .vst d a b => Sys2Proof.Machine.execVst d a b s
  | .vldc d a reuse off => Sys2Proof.Machine.execVldc d a reuse off s
  | .vstc d a off => Sys2Proof.Machine.execVstc d a off s
  | .pref a reuse off => Sys2Proof.Machine.execPref a reuse off s
  | .spld d a b => Sys2Proof.Machine.execSpld d a b s
  | .spst d a b => Sys2Proof.Machine.execSpst d a b s
  | .spldc d a imm => Sys2Proof.Machine.execSpldc d a imm s
  | .spstc d a imm => Sys2Proof.Machine.execSpstc d a imm s
  | .spaadd d a b => Sys2Proof.Machine.execSpaadd d a b s
  | .spacas d a b => Sys2Proof.Machine.execSpacas d a b s
  | .aadd d a b => Sys2Proof.Machine.execAadd d a b s
  | .amin d a b => Sys2Proof.Machine.execAmin d a b s
  | .amax d a b => Sys2Proof.Machine.execAmax d a b s
  | .aand d a b => Sys2Proof.Machine.execAand d a b s
  | .aor d a b => Sys2Proof.Machine.execAor d a b s
  | .axor d a b => Sys2Proof.Machine.execAxor d a b s
  | .axch d a b => Sys2Proof.Machine.execAxch d a b s
  | .acas d a b => Sys2Proof.Machine.execAcas d a b s
  | .afadd d a b => Sys2Proof.Machine.execAfadd d a b s
  | .redadd a b => Sys2Proof.Machine.execRedadd a b s
  | .redfadd a b => Sys2Proof.Machine.execRedfadd a b s
  | .fence scope kind => Sys2Proof.Machine.execFence scope kind s
  | .ldacq d a size scope => Sys2Proof.Machine.execLdacq d a size scope s
  | .strel d a size scope => Sys2Proof.Machine.execStrel d a size scope s
  | .arrive level n => Sys2Proof.Machine.execArrive level n s
  | .await d level n => Sys2Proof.Machine.execAwait d level n s
  | .meet d level n => Sys2Proof.Machine.execMeet d level n s
  | .crit => Sys2Proof.Machine.execCrit s
  | .uncrit => Sys2Proof.Machine.execUncrit s
  | .kjoin d a => Sys2Proof.Machine.execKjoin d a s
  | .kleave => Sys2Proof.Machine.execKleave s
  | .kinfo d sel => Sys2Proof.Machine.execKinfo d sel s
  | .cbwait d n => Sys2Proof.Machine.execCbwait d n s
  | .cbpop n => Sys2Proof.Machine.execCbpop n s
  | .cbpush n => Sys2Proof.Machine.execCbpush n s
  | .cbinfo d n => Sys2Proof.Machine.execCbinfo d n s
  | .qpush d n => Sys2Proof.Machine.execQpush d n s
  | .qpop d n => Sys2Proof.Machine.execQpop d n s
  | .launch d a => Sys2Proof.Machine.execLaunch d a s
  | .signal a b => Sys2Proof.Machine.execSignal a b s
  | .flip scope a => Sys2Proof.Machine.execFlip scope a s
  | .flipx scope a => Sys2Proof.Machine.execFlipx scope a s
  | .flipc scope a => Sys2Proof.Machine.execFlipc scope a s
  | .xfer d a => Sys2Proof.Machine.execXfer d a s
  | .xwait d a => Sys2Proof.Machine.execXwait d a s
  | .xstat d a => Sys2Proof.Machine.execXstat d a s
  | .tld d a => Sys2Proof.Machine.execTld d a s
  | .tst d a => Sys2Proof.Machine.execTst d a s
  | .tzero d => Sys2Proof.Machine.execTzero d s
  | .tmmaTile d a b => Sys2Proof.Machine.execTmmaTile d a b s
  | .tmmaDesc d a b => Sys2Proof.Machine.execTmmaDesc d a b s
  | .tsoft d a b => Sys2Proof.Machine.execTsoft d a b s
  | .tadd d a b => Sys2Proof.Machine.execTadd d a b s
  | .tmul d a b => Sys2Proof.Machine.execTmul d a b s
  | .tscl d => Sys2Proof.Machine.execTscl d s
  | .texp2 d a => Sys2Proof.Machine.execTexp2 d a s
  | .tcvt d a => Sys2Proof.Machine.execTcvt d a s
  | .tmax d a b => Sys2Proof.Machine.execTmax d a b s
  | .trowred d a kind => Sys2Proof.Machine.execTrowred d a kind s
  | .tfence d => Sys2Proof.Machine.execTfence d s
  | .twait a => Sys2Proof.Machine.execTwait a s
  | .force d mask => Sys2Proof.Machine.execForce d mask s
  | .tmap d a b => Sys2Proof.Machine.execTmap d a b s
  | .trv d a quarter row => Sys2Proof.Machine.execTrv d a quarter row s
  | .tvr d a quarter row => Sys2Proof.Machine.execTvr d a quarter row s
  | .ckpt => Sys2Proof.Machine.execCkpt s
  | .sigchk d => Sys2Proof.Machine.execSigchk d s
  | .perf cls => Sys2Proof.Machine.execPerf cls s
  | .time d => Sys2Proof.Machine.execTime d s
  | .cyc d => Sys2Proof.Machine.execCyc d s
  | .settimer a => Sys2Proof.Machine.execSettimer a s
  | .idemp => Sys2Proof.Machine.execIdemp s
  | .sysrd d a => Sys2Proof.Machine.execSysrd d a s
  | .syswr d a => Sys2Proof.Machine.execSyswr d a s
  | .pflip => Sys2Proof.Machine.execPflip s
  | .haltc a => Sys2Proof.Machine.execHaltc a s
  | .tlbinv a b => Sys2Proof.Machine.execTlbinv a b s
  | .flipTakesEffect strand => Sys2Proof.Machine.execFlipTakesEffect strand s
  | .operandLogReplay strand => Sys2Proof.Machine.execOperandLogReplay strand s
  | .timerExpiry strand => Sys2Proof.Machine.execTimerExpiry strand s
  | .strandPromotion strand => Sys2Proof.Machine.execStrandPromotion strand s
  | .critDeferralExpiry core => Sys2Proof.Machine.execCritDeferralExpiry core s
  | .transferStart team id => Sys2Proof.Machine.execTransferStart team id s
  | .walkerBeat team id => Sys2Proof.Machine.execWalkerBeat team id s
  | .gangPlacement => Sys2Proof.Machine.execGangPlacement s
  | .launchPassover launch => Sys2Proof.Machine.execLaunchPassover launch s
  | .terminationSample launch die => Sys2Proof.Machine.execTerminationSample launch die s
  | .invalidInstructionWord word => Sys2Proof.Machine.execInvalidInstructionWord word s
  | .spanMatchTimeout task => Sys2Proof.Machine.execSpanMatchTimeout task s
  | .requestTimeout tag => Sys2Proof.Machine.execRequestTimeout tag s
  | .linkRetrainTimeout port => Sys2Proof.Machine.execLinkRetrainTimeout port s
  | .hallCapExpiry => Sys2Proof.Machine.execHallCapExpiry s
  | .timeFlitSend => Sys2Proof.Machine.execTimeFlitSend s
  | .notifyWrite fn ide queue value => Sys2Proof.Machine.execNotifyWrite fn ide queue value s
  | .packetRead queue => Sys2Proof.Machine.execPacketRead queue s
  | .taskReady task => Sys2Proof.Machine.execTaskReady task s
  | .launchPacket task => Sys2Proof.Machine.execLaunchPacket task s
  | .pinPacket task => Sys2Proof.Machine.execPinPacket task s
  | .unpinPacket task => Sys2Proof.Machine.execUnpinPacket task s
  | .signalPacket task => Sys2Proof.Machine.execSignalPacket task s
  | .nopPacket task => Sys2Proof.Machine.execNopPacket task s
  | .taskRetirement task => Sys2Proof.Machine.execTaskRetirement task s
  | .commandTimeout launch => Sys2Proof.Machine.execCommandTimeout launch s
  | .coreError team retired => Sys2Proof.Machine.execCoreError team retired s
  | .graphPoison task => Sys2Proof.Machine.execGraphPoison task s
  | .preemption part => Sys2Proof.Machine.execPreemption part s
  | .hotSpotLimit core => Sys2Proof.Machine.execHotSpotLimit core s
  | .migration gang => Sys2Proof.Machine.execMigration gang s
  | .migrationTransferRebind gang => Sys2Proof.Machine.execMigrationTransferRebind gang s
  | .thermalClockLimit cluster => Sys2Proof.Machine.execThermalClockLimit cluster s
  | .thermalTrip => Sys2Proof.Machine.execThermalTrip s
  | .phaseLoss die => Sys2Proof.Machine.execPhaseLoss die s
  | .ballast granule cycles => Sys2Proof.Machine.execBallast granule cycles s
  | .powerControlTick uncore duties clocks => Sys2Proof.Machine.execPowerControlTick uncore duties clocks s
  | .patrolScrub sector => Sys2Proof.Machine.execPatrolScrub sector s
  | .ropeCompare team strand => Sys2Proof.Machine.execRopeCompare team strand s
  | .logFullCheckpoint team => Sys2Proof.Machine.execLogFullCheckpoint team s
  | .hostMemoryWrite fn ide addr bytes => Sys2Proof.Machine.execHostMemoryWrite fn ide addr bytes s
  | .hostMemoryRead fn ide addr n => Sys2Proof.Machine.execHostMemoryRead fn ide addr n s
  | .queueRecordWrite queue => Sys2Proof.Machine.execQueueRecordWrite queue s
  | .queueRecordRead queue => Sys2Proof.Machine.execQueueRecordRead queue s
  | .spanRecordWrite => Sys2Proof.Machine.execSpanRecordWrite s
  | .contextTearDown part asid => Sys2Proof.Machine.execContextTearDown part asid s
  | .meventClear mask => Sys2Proof.Machine.execMeventClear mask s
  | .registerWrite offset value => Sys2Proof.Machine.execRegisterWrite offset value s
  | .moduleReset => Sys2Proof.Machine.execModuleReset s
  | .startTimeout => Sys2Proof.Machine.execStartTimeout s
  | .bootRetry => Sys2Proof.Machine.execBootRetry s
  | .spdmRequest ask => Sys2Proof.Machine.execSpdmRequest ask s
  | .tdispLock vf => Sys2Proof.Machine.execTdispLock vf s
  | .tdispError vf => Sys2Proof.Machine.execTdispError vf s
  | .hallCapMessage bytes => Sys2Proof.Machine.execHallCapMessage bytes s
  | .ieee1588Message offset => Sys2Proof.Machine.execIeee1588Message offset s
  | .flitReceive port flit => Sys2Proof.Machine.execFlitReceive port flit s
  | .peerRequest req => Sys2Proof.Machine.execPeerRequest req s
  | .peerResponse resp => Sys2Proof.Machine.execPeerResponse resp s
  | .timeFlitReceive port time delay => Sys2Proof.Machine.execTimeFlitReceive port time delay s
  | .spanHashCompare task hashes => Sys2Proof.Machine.execSpanHashCompare task hashes s
  | .queueDescriptorError queue => Sys2Proof.Machine.execQueueDescriptorError queue s
  | .partitionReconfiguration cfgs => Sys2Proof.Machine.execPartitionReconfiguration cfgs s
  | .firmwareReady => Sys2Proof.Machine.execFirmwareReady s
  | .startStageFailure reason => Sys2Proof.Machine.execStartStageFailure reason s
  | .newImageWrite image => Sys2Proof.Machine.execNewImageWrite image s
  | .tdispRun vf => Sys2Proof.Machine.execTdispRun vf s
  | .tdispConfigUnlocked vf => Sys2Proof.Machine.execTdispConfigUnlocked vf s
  | .linkRetrained port => Sys2Proof.Machine.execLinkRetrained port s
  | .ptmMessage kind => Sys2Proof.Machine.execPtmMessage kind s
  | .managementPortFrame kind => Sys2Proof.Machine.execManagementPortFrame kind s
  | .thermalLimitRelease cluster => Sys2Proof.Machine.execThermalLimitRelease cluster s
  | .peerBarrierArrival launch number kind => Sys2Proof.Machine.execPeerBarrierArrival launch number kind s

end Sys2Proof.Machine
end

