-- ==== Sys2Proof/Machine/Schedule.lean ====
section
/-!
DEFINITION. Which agent moves next: strands that are ready and the choice of a scheduler (R197–R199, R305), the boundary at
which TIMER is taken (R89, R332, R274), cycles of the clock (R88, R201), and the device's own events that may occur (log 4).
-/
namespace Sys2Proof.Machine

/-! ### Resident and ready strands -/

/-- R257, R332: whether a strand waits in QPOP, under a rope with its release presented. -/
def Strand.atPop (st : Strand) : Bool := st.wait == .qpop || (match st.presented with
  | some (.release _ _ req) => req.isPop
  | _ => false)
/-- R332, R230: whether a matched ARRIVE or MEET of a leader waits for an earlier phase, with nothing done. -/
def State.phaseHeld (s : State) (st : Strand) : Bool := !st.committed && (s.counterparts st).all (·.2.presented.isSome) && (match st.presented with
  | some (.release _ _ (.meet _ lv n)) | some (.release _ _ (.arrive lv n)) => cfind st.arrivals (barKey lv n) == some ((s.barrier st lv n).phase + 1)
  | _ => false)
/-- R73, R89, R274, R332: whether TIMER is taken where the strand stands: its own, or the leader's, whose boundary a counterpart reaches
later or, inside a handler, has passed. It interrupts no gathering, no flip, no group or TMMA pass at which the strand waits, and no wait for a
comparison, for the answer to an access or for a halt (log 88). What runs in the operand log does not hold it off. -/
def State.timerReady (s : State) (st : Strand) : Bool :=
  st.timerWaits && !st.active? && (match st.wait with
    | .flip | .ckpt | .peer | .line | .halt => false
    | .pass => !(st.nodes.any (fun n => n.pass.isSome))
    | .release => st.replica != 0 || st.atPop || s.phaseHeld st
    | _ => true)
/-- R274: a counterpart that has issued the instruction at which its leader waited when the boundary `c` was passed on, into its operand log, comes back to
that boundary. -/
def Strand.rewind (st : Strand) (c : Nat) : Strand := match st.log.getLast? with
  | some e => if st.completed ≤ c then st else { st.setLog st.log.dropLast with
      pc := e.pc, issued := c, wait := .none, presented := if st.log.length = 1 then none else st.presented }
  | none => st
/-- R332, R274: TIMER taken: a wait is abandoned, and the leader of a rope passes the boundary on. A QPOP of the operand log is not the instruction
that the strand stands at: it waits on. -/
def State.takeTimer (s : State) (i : Nat) (st : Strand) : State :=
  let st := match takeBoundary st.values with
    | some (c, _) => if st.replica = 0 then st else st.rewind c
    | none => st
  let s1 := if st.replica = 0 then s.pushValue st (.timer st.completed) else s
  let s2 := s1.leaveCritWait i st
  let s3 := (if st.log.isEmpty && (st.atPop || st.wait == .qpush) then s2.unqueue i (s.team st.team).gang else s2).abandonReads i
  let vals := if st.replica = 0 then st.values else ((takeBoundary st.values).map (·.2)).getD st.values
  let t := (s3.putStrandAt i { st.unissue with timerDue := false, values := vals, wait := .none, presented := .none }).takeTrap i
    { cause := 0x08, detail := 0, pc := st.pc, epc := st.pc, addr := 0, info := 0 }
  if st.log.isEmpty then t else t.onStrandAt i (fun x => if x.presented.isNone then { x with presented := st.presented, committed := st.committed } else x)

/-- The instruction at a strand's pc is executed, or a trap or error stands before it. -/
def State.attempt (s : State) (i : Nat) (st : Strand) : Out :=
  if s.fetchPoisoned st then .next (s.fatal i 0x12 st.pc 0) else exec (instrOf (s.fetchWord st)) s

/-- Whether executing a waiting strand's instruction again, in state `s`, would change how it stands or ask a peer for something. -/
def progress (s : State) (st : Strand) (i : Nat) : Out → Bool
  | .next t => t.fabric.nextTag != s.fabric.nextTag || match t.strandAt i with
    | some x => x.wait != st.wait || x.pc != st.pc || x.run != st.run || x.nodes != st.nodes
    | none => true
  | _ => true

/-- R197, R67: whether a strand is ready: its next instruction may issue and it waits for nothing. -/
def State.ready (s : State) (_ : Nat) (st : Strand) : Bool :=
  s.working st && st.wait == .none && !(s.timerReady st) && !(st.blocked (s.fetchWord st)) && !(s.aheadOfSeconds st) && !(s.aheadOfLeader st)
/-- R197, R332: whether TIMER is taken where a strand stands, or the instruction it waits at can go on; neither takes an issue slot. Waits
for a flip or a comparison end by what others do. An access that has been issued completes though a stop has been asked (R200). -/
def State.wakeable (s : State) (i : Nat) (st : Strand) : Bool :=
  (s.working st || (s.resident st && (st.wait == .peer || st.wait == .line))) && (s.timerReady st || match st.wait with
    | .none | .flip | .release => false
    | _ => progress s st i (State.attempt { s with cur := i } i st))

/-! ### The choice (R198) -/

/-- Entries whose measure is largest. -/
def mostOf (f : Nat × Strand → Nat) (l : List (Nat × Strand)) : List (Nat × Strand) :=
  let m := (l.map f).foldl max 0
  l.filter (fun e => f e == m)
/-- Entries whose measure is smallest. -/
def leastOf (f : Nat × Strand → Nat) (l : List (Nat × Strand)) : List (Nat × Strand) :=
  match l with
  | [] => []
  | x :: t => let m := (t.map f).foldl min (f x); l.filter (fun e => f e == m)
/-- R198: the ready strands of a scheduler. -/
def State.readyOn (s : State) (core : Nat) (sched : Bool) : List (Nat × Strand) :=
  s.strands.filter (fun e => s.coreOf e.2 == core && e.2.sched == sched && s.ready e.1 e.2 && s.ungated e.2)
/-- R198 steps 1 and 2: the class that issues. -/
def classOf (critRun : Nat) (l : List (Nat × Strand)) : List (Nat × Strand) :=
  let crit := l.filter (·.2.crit)
  let prom := l.filter (fun e => e.2.promoted && !e.2.crit)
  if !crit.isEmpty && (prom.isEmpty || critRun < 4) then crit else if !prom.isEmpty then prom else l
/-- R198 step 4: how far a strand's charge puts the issue pair from the cluster's target. -/
def State.pairing (s : State) (core : Nat) (sched : Bool) (st : Strand) : Nat :=
  let other := ((s.core core).sched (!sched)).last
  let z : Int := (chargeOf st (s.fetchWord st) + other : Nat) - ((s.cluster (clusterOf core)).target : Int)
  z.natAbs
/-- R198 steps 3 to 5: the strand that issues among those of a class. -/
def State.pick (s : State) (core : Nat) (sched : Bool) (l : List (Nat × Strand)) : Option (Nat × Strand) :=
  match mostOf (fun e => e.2.age) l with
  | [x] => some x
  | l => (leastOf (fun e => e.2.slotNo) (leastOf (fun e => s.pairing core sched e.2) l)).head?
/-- R198: the strand a scheduler chooses in this cycle. -/
def State.choose (s : State) (core : Nat) (sched : Bool) : Option (Nat × Strand) :=
  if ((s.core core).sched sched).issued then none
  else match s.readyOn core sched with
    | [] => none
    | [x] => some x
    | l => s.pick core sched (classOf ((s.core core).sched sched).critRun l)

/-- R57: whether the word at a strand's pc fails a check: it traps ILLEGAL, PRIV, FORMAT or ALIGN there, whether a handler takes the trap
or, for want of one, the strand is killed (under a rope the cause is presented). -/
def State.failsCheck (s : State) (i : Nat) (st : Strand) : Bool :=
  let lid := (s.team st.team).launch
  let hit (cause pc : Nat) : Bool := decide (1 ≤ cause) && decide (cause ≤ 4) && pc == st.pc
  match State.attempt { s.onLaunch lid (fun l => { l with event := none }) with cur := i } i st with
  | .next t =>
    (match t.strandAt i with
      | some x => (!st.active? && x.active? && hit (x.trapcause.toNat % 256) x.trappc.toNat && x.epc == x.trappc)
          || (match x.presented with | some (.cause c pc _ _) => hit c pc | _ => false)
      | none => false)
    || (match (t.launch lid).event with | some e => e.cls == .strandKilled && hit e.cause e.pc && e.strand == st.idx && e.team == (s.team st.team).index | none => false)
  | _ => false
/-- The bookkeeping of an issue: R198's ages and shares, R300's charge, R272's counts, all before the instruction's own
effect. A word that fails a check changes no counter (R57), and one of a MINORITY handler none that replicas compare (log 105). -/
def State.markIssue (s : State) (i : Nat) (st : Strand) : State :=
  let core := s.coreOf st
  let counts := !(s.failsCheck i st)
  let q := if counts then chargeOf st (s.fetchWord st) else 0
  let one := if counts && s.level st != 0 && !st.inMinority then 1 else 0
  let waitingProm := s.strands.any (fun e => s.coreOf e.2 == core && e.2.sched == st.sched && e.2.promoted && !e.2.crit && s.ready e.1 e.2)
  let s1 := s.putStrandAt i { st with
    age := 0, readyFor := 0, promoted := false, issued := st.issued + one
    handled := st.handled + if st.active? then one else 0 }
  let s2 := s1.onCore core (fun c => c.onSched st.sched (fun x => { x with
    issued := true, charge := q, critRun := if st.crit && waitingProm then x.critRun + 1 else 0 }))
  { (s2.addCharge (clusterOf core) q) with cur := i }

/-- R222, R256: what strands may meet at in one cycle: their team's knit, or a queue of their gang. -/
def State.meeting (s : State) (st : Strand) : Option (Bool × Nat × Nat) := match instrOf (s.fetchWord st) with
  | .kjoin _ _ | .kleave => some (false, st.team, 0)
  | .qpush _ n | .qpop _ n => some (true, (s.team st.team).gang, n)
  | _ => none
/-- R222, R256: the order of those that meet: by `%strand` at a knit, by `%core` and then by strand slot at a queue. -/
def State.meetRank (s : State) (st : Strand) : Nat := match s.meeting st with
  | some (true, _, _) => 32 * s.coreOf st + (if st.sched then 16 else 0) + st.slotNo
  | _ => st.idx
/-- R222, R256: of the strands that schedulers would issue in this cycle to meet with one, the first in order. -/
def State.firstToMeet (s : State) (i : Nat) (st : Strand) : Nat × Strand :=
  if (s.meeting st).isNone then (i, st) else
  let cores := ((s.teams.map (fun e => e.2.core)).eraseDups).filter (fun c => clusterOf c == clusterOf (s.coreOf st))
  (cores.flatMap (fun c => [(c, false), (c, true)])).foldl (fun (best : Nat × Strand) x => match s.choose x.1 x.2 with
    | some e => if s.meeting e.2 == s.meeting st && decide (s.meetRank e.2 < s.meetRank best.2) then e else best
    | none => best) (i, st)

/-- A chosen strand takes its turn: TIMER at the boundary, or its instruction, those that it meets in this cycle in their order. -/
def State.issueStrand (s : State) (i : Nat) (st : Strand) : Out :=
  if s.timerReady st then .next (s.takeTimer i st)
  else
    let e := s.firstToMeet i st
    State.attempt (s.markIssue e.1 e.2) e.1 e.2
/-- R197: a strand that waits goes on without an issue slot. -/
def State.wakeStrand (s : State) (i : Nat) (st : Strand) : Out :=
  if s.timerReady st then .next (s.takeTimer i st) else State.attempt { s with cur := i } i st

/-- The cores that hold teams. -/
def State.busyCores (s : State) : List Nat := (s.teams.map (fun e => e.2.core)).eraseDups
/-- The first scheduler, by core, of the cores given that has a strand to issue. -/
def State.issueOn (s : State) (cores : List Nat) : Option (Nat × Strand) :=
  (cores.flatMap (fun c => [(c, false), (c, true)])).findSome? (fun x => s.choose x.1 x.2)
/-- The first scheduler, by core, that has a strand to issue. -/
def State.nextIssue (s : State) : Option (Nat × Strand) := s.issueOn s.busyCores
/-- The first strand that can go on without a slot. -/
def State.nextWake (s : State) : Option (Nat × Strand) := s.strands.find? (fun e => s.wakeable e.1 e.2)

/-! ### Cycles -/

/-- R89, R201: a timer after `n` resident cycles. -/
def timerAfter (n : Nat) : Option Nat → Option Nat
  | some c => some (c - n)
  | none => none

/-- The device's own events that may occur: each does nothing where it is not due. -/
def State.dueEvents (s : State) : List Instr :=
  s.strands.flatMap (fun e =>
    (if e.2.timer == some 0 then [.timerExpiry e.1] else [])
    ++ (if 64 ≤ e.2.readyFor && !e.2.promoted && !e.2.crit then [.strandPromotion e.1] else [])
    ++ (if !e.2.log.isEmpty then [.operandLogReplay e.1] else [])
    ++ (if e.2.wait == .flip then [.flipTakesEffect e.1] else [])
    ++ (if e.2.presented.isSome && e.2.replica = 0 then [.ropeCompare e.2.team e.2.idx] else []))
  ++ s.cores.flatMap (fun e => if e.2.haltAsked.isSome then [.critDeferralExpiry e.1] else [])
  ++ s.teams.flatMap (fun e => e.2.xfers.flatMap (fun x =>
    if x.state == .queued then [Instr.transferStart e.1 x.id] else if x.state == .running then [Instr.walkerBeat e.1 x.id] else []))
  ++ s.ropes.flatMap (fun e => if e.2.rolling.isSome || e.2.teams.any (fun i => (s.team i).xfers.any (fun x => x.fault != 0)) then
      [Instr.ropeCompare (e.2.teams.headD 0) 0] else [])
  ++ s.ropes.flatMap (fun e => if e.2.logFull then [.logFullCheckpoint (e.2.teams.headD 0)] else [])
  ++ s.gangs.flatMap (fun e => if e.2.moving.isSome then [Instr.migrationTransferRebind e.1, Instr.migration e.1] else [])
  ++ (if s.launches.any (fun e => e.2.torn.isNone) then [.gangPlacement] else [])
  ++ s.launches.flatMap (fun e => Instr.launchPassover e.1 :: Instr.commandTimeout e.1 :: (List.range 4).map (fun d => Instr.terminationSample e.1 d))
  ++ s.queues.flatMap (fun e => if e.2.enable && !e.2.error && e.2.ridx != e.2.doorbell then [.packetRead e.1] else [])
  ++ s.tasks.flatMap (fun e => match e.2.state with
    | .waiting => [Instr.taskReady e.1, Instr.spanMatchTimeout e.1]
    | .ready => Instr.taskReady e.1 :: (match pktType e.2.packet with
      | 1 => [Instr.launchPacket e.1] | 2 => [Instr.pinPacket e.1] | 3 => [Instr.unpinPacket e.1]
      | 4 => [Instr.signalPacket e.1] | _ => [Instr.nopPacket e.1])
    | .running | .retiring => [Instr.taskRetirement e.1]
    | .expected => [])
  ++ s.fabric.outstanding.map (fun e => Instr.requestTimeout e.1)
  ++ s.fabric.ports.flatMap (fun e => if e.2.retraining.isSome then [.linkRetrainTimeout e.1] else [])
  ++ (if s.power.hall.isSome then [.hallCapExpiry] else [])
  ++ (if !s.fabric.ports.isEmpty && decide (s.fabric.timeSent < s.time / 1000) then [.timeFlitSend] else [])
  ++ (if s.boot.starting then [.startTimeout] else [])

/-- R326: device time after `ns` nanoseconds, with a pending correction slewed at no more than 200 ppm: a nanosecond every 5,000. -/
def State.slewTime (s : State) (ns : Nat) : State :=
  let f := s.fabric
  let most := (f.slewed + ns) / 5000
  let k := min most f.slew.natAbs
  let fab := { f with slewed := (f.slewed + ns) % 5000, slew := if 0 ≤ f.slew then f.slew - k else f.slew + k }
  { s with time := if 0 ≤ f.slew then s.time + ns + k else s.time + (ns - k), fabric := fab }
/-- R88, R198, R201, R313: device time and each cluster's cycles go by; exchanges under way go on (R298), then the device's own events follow one by
one. DESIGN CHOICE (log 114): a strand that is stopped or switched out neither ages nor counts towards its 64 ready cycles, and one that was ready
before goes on from its count. -/
def State.passCycle (s0 : State) (ns : Nat) (cycles : Nat → Nat) : State :=
  let s := s0.slewTime ns
  let moves (core : Nat) : Bool := cycles (clusterOf core) != 0
  let s1 := { s with
    strands := cmap (fun i st =>
      let n := cycles (clusterOf (s.coreOf st))
      if !(s.resident st) || (s.halting st && st.wait != Wait.peer && st.wait != Wait.line) then st
      else
        let x : Strand := { st with cyc := st.cyc + n, timer := timerAfter n st.timer }
        if s.stopping st then x else { x with age := st.age + n, readyFor := if s.ready i st then st.readyFor + n else 0 }) s.strands
    teams := cmap (fun _ t => if moves t.core then { t with perfBy := none } else t) s.teams
    cores := cmap (fun k c =>
      let next (q : Sched) : Sched := { q with issued := false, last := if q.issued then q.charge else 0 }
      if moves k then { c with s0 := next c.s0, s1 := next c.s1 } else c) s.cores
    clusters := cmap (fun k c => { c with cycles := c.cycles + cycles k }) s.clusters
    boot := if ns = 0 then s.boot else s.boot.passStage s.time }
  let s2 := (s1.parts.filter (fun e => !e.2.requests.isEmpty)).foldl (fun (t : State) e => t.carryExchange e.1) s1
  { s2 with turns := (s2.dueEvents).map Turn.event ++ s2.turns }

/-- R302: whether device time owes a cluster a whole cycle. -/
def State.owed (s : State) (k : Nat) : Bool := decide (100 ≤ (s.cluster k).phase)
/-- R2, R302: a moment: a cycle of every cluster that is owed one; where none is, a nanosecond of device time, which owes each cluster its
clock (log 4). -/
def State.passTime (s : State) : State :=
  let ks := List.range 8
  if ks.any s.owed then
    (ks.filter s.owed).foldl (fun (t : State) k => t.onCluster k (fun c => { c with phase := c.phase - 100 }))
      (s.passCycle 0 (fun k => if s.owed k then 1 else 0))
  else
    ks.foldl (fun (t : State) k => t.onCluster k (fun c => { c with phase := c.phase + s.clockOf k })) (s.passCycle 1 (fun _ => 0))

/-- R197, R199: a moment passes only when no strand that waits can go on, and no cycle of a cluster ends while a scheduler of it that has not
issued has a ready strand: those come first, and the turn stays. -/
def State.passTurn (s : State) : Out :=
  let again : State := { s with turns := .pass :: s.turns }
  match s.nextWake with
  | some (i, st) => again.wakeStrand i st
  | none => match s.issueOn (s.busyCores.filter (fun c => s.owed (clusterOf c))) with
    | some (i, st) => again.issueStrand i st
    | none => .next s.passTime

/-- One turn of the schedule. -/
def State.takeTurn (s : State) : Turn → Out
  | .issue core sched => match s.choose core sched with
    | some (i, st) => s.issueStrand i st
    | none => .next s
  | .wake i => match s.strandAt i with
    | some st => if s.wakeable i st then s.wakeStrand i st else .next s
    | none => .next s
  | .event e => exec e { s with cur := 0 }
  | .pass => s.passTurn
  | .dropOwner core asid vline word => .next (s.dropOwner core asid vline word)

/-- The turn taken where the schedule names none: a strand that can go on does, else the first scheduler that can issue does; when none
can, a moment passes (log 4). -/
def State.autoTurn (s : State) : Out :=
  match s.nextWake with
  | some (i, st) => s.wakeStrand i st
  | none => match s.nextIssue with
    | some (i, st) => s.issueStrand i st
    | none => .next s.passTime

/-! ### A word placed where the next step fetches (log 4) -/

/-- A kernel header with every resource declared. -/
def Header.open : Header :=
  { Header.none with
    strands := 1, vregs := 16, tiles := 8, skein := 32, spbytes := 131072, cbufs := 16, tbar := 16, gbar := 16, gbarRange := 16, lbar := 16 }
/-- A launch of one strand on core 0 in partition 0, privileged, stands in for what the host and the dispatcher load. -/
def State.placeOpen (s : State) : State :=
  let k := s.nextId
  let l : Launch := { Launch.none with nextGang := 1, header := Header.open, imems := [(0, { planes := Planes.empty })] }
  let t : Team := { Team.none with launch := k, gang := k, strands := [k], perfcls := 2 }
  let g : Gang := { Gang.none with launch := k, teams := [k] }
  let p : Partition := { Partition.none with pcfg := 0xFFFF000000000010 }
  { s with
    nextId := k + 1, launches := cput s.launches k l, teams := cput s.teams k t, gangs := cput s.gangs k g, parts := cput s.parts 0 p
    strands := cput s.strands k (Strand.start k 0 0 false 0 Header.open), cores := cput s.cores 0 Core.idle }
/-- The word of the instruction that a strand is about to fetch replaced. -/
def State.pokeWord (s : State) (st : Strand) (w : Word) : State :=
  s.onLaunch (s.team st.team).launch (fun l => match cfind l.imems (s.coreOf st) with
    | some im =>
      let b := im.planes.work
      { l with imems := cput l.imems (s.coreOf st) { im with planes := im.planes.withWork { b with bytes := writeWord b.bytes st.pc w } } }
    | none => l)
/-- The state in which the next step fetches and runs the word `w`. -/
def State.withWord (s : State) (w : Word) : State :=
  let s0 := { s with turns := [] }
  let s1 := match s0.nextIssue with
    | some _ => s0
    | none => s0.placeOpen
  match s1.nextIssue with
  | some (_, st) => { s1.pokeWord st w with turns := [.issue (s1.coreOf st) st.sched] }
  | none => s1

end Sys2Proof.Machine
end

