-- ==== Sys2Proof/Machine/Step.lean ====
section
/-!
DEFINITION. One step of the module: the turn its schedule names, or the one it takes where it names none (log 4).
-/
namespace Sys2Proof.Machine

/-- One step. -/
def step (s : State) : Host.Outcome State Fault Refusal :=
  match s.turns with
  | [] => s.autoTurn
  | t :: ts => State.takeTurn { s with turns := ts } t

/-- The state with an instruction stored where `step` fetches its next one (log 4): words are 32 bits. -/
def State.withFetchWord (s : State) (nbits w : Nat) : State := s.withWord (BitVec.ofNat 32 (w % 2 ^ nbits))

end Sys2Proof.Machine
end

