-- ==== Sys2Proof/Safety.lean ====
section
/-!
DEFINITION. What counts as a safe run, the invariant that steps keep, and the words in which claims speak of the executing
strand, of a completed instruction and of what an instruction leaves alone.
-/
namespace Sys2Proof.Machine

/-! ### Safe runs -/

/-- An outcome that goes on. -/
def Out.goesOn (o : Out) : Prop := ∃ t, o = .next t
/-- A run of `k` steps is safe when each of them answers a next state: no step stops with a fault or a refusal. -/
def SafeRun (k : Nat) (s : State) : Prop := ∃ t, Sys2Proof.core.run k s = .next t

/-- The invariant: memory is in its canonical form (log 1). -/
def State.Inv (s : State) : Prop := Memory.wf s.mem = true

/-! ### The executing strand -/

/-- `st` is the executing strand of a command that runs under SOLO. -/
structure State.Solo (s : State) (st : Strand) : Prop where
  current : s.strand? = some st
  solo : s.level st = 0

/-- A SOLO strand whose operand log, compare buffer and skein are empty and which waits for no peer: a memory instruction is
performed as it issues, unless it misses at the TLB. -/
structure State.Plain (s : State) (st : Strand) : Prop where
  current : s.strand? = some st
  solo : s.level st = 0
  logEmpty : st.log = []
  noBuffer : st.buffer = []
  noNodes : st.nodes = []

/-- R213 step 4, R325: nothing that the executing strand's core has written at peers waits for an answer or has still to be sent, so a release
need not wait. -/
def State.Acked (s : State) (st : Strand) : Prop := s.peersAcked (s.team st.team).core = true

/-- None of the flags `fl` is enabled to trap by the kernel of a strand (R66). -/
def State.Unmasked (s : State) (st : Strand) (fl : IFlags) : Prop := fl &&& (s.headerOf st).trapen = 0

/-- R66: the executing strand, as `st`, has completed its instruction: the flags are set, it waits for nothing, and its pc
stands at the next word. -/
def State.done (s : State) (st : Strand) (fl : IFlags) : State :=
  s.putStrand { st with flags := st.flags ||| fl, wait := .none, pc := st.pc + 4 }

/-- The executing strand's instruction `i` completes with `v` in scalar `d` and nothing else done. -/
def State.Writes (s : State) (st : Strand) (i : Instr) (d : Nat) (v : DWord) : Prop := exec i s = .next (s.done (st.setS d v) 0)
/-- The executing strand's instruction `i` completes with `v` in predicate `d` and nothing else done. -/
def State.WritesPred (s : State) (st : Strand) (i : Instr) (d : Nat) (v : Word) : Prop := exec i s = .next (s.done (st.setP d v) 0)
/-- The executing strand's instruction `i` completes with vector `v` in register `d` and the flags `fl` raised. -/
def State.WritesVec (s : State) (st : Strand) (i : Instr) (d : Nat) (v : VReg) (fl : IFlags) : Prop := exec i s = .next (s.done (st.setV d v) fl)

/-- R64: the executing strand's instruction `i` completes with `f` in the active lanes of vector register `d`, the other lanes kept, the
mode type as its tag, and no flag raised. -/
def State.WritesLanes (s : State) (st : Strand) (i : Instr) (d : Nat) (f : Nat → Word) : Prop :=
  ∃ v, s.WritesVec st i d v 0 ∧ v.tag = st.ty ∧ ∀ j, j < 32 → v.lane j = if laneOn st.active j then f j else (st.getV d).lane j

/-- The trap of R57 and R70 at issue, with no other effect: entered where the strand is not in a handler and has one. -/
def State.TrapsAtIssue (s : State) (st : Strand) (i : Instr) (cause detail : Nat) (addr : DWord) : Prop :=
  exec i s = .next ((s.leaveCritWait s.cur st).putStrand (st.enterTrap
    { cause := cause, detail := detail, pc := st.pc, epc := st.pc, addr := addr, info := 0 }))

/-- A strand that is not in a handler and has one: a trap enters it (R73). -/
def Strand.CanTrap (st : Strand) : Prop := st.active? = false ∧ st.trapvec ≠ 0xFFFFFFFF

/-- The executing strand has completed an instruction at `st` and stands at the next word in `t`, as `st'`. -/
structure State.Completes (s : State) (st : Strand) (i : Instr) (t : State) (st' : Strand) : Prop where
  answers : exec i s = .next t
  strand : t.strand? = some st'
  pc : st'.pc = st.pc + 4
  wait : st'.wait = .none

/-- No register of the strand has changed but scalar `d` and vector `v` (none: none). -/
structure Strand.SameRegs (x y : Strand) (d v : Option Nat) : Prop where
  scalars : ∀ n, some n ≠ d → y.getS n = x.getS n
  vectors : ∀ n, some n ≠ v → y.getV n = x.getV n
  preds : ∀ n, y.getP n = x.getP n
  mode : y.mode = x.mode
  em : y.em = x.em
  traps : y.trapcause = x.trapcause ∧ y.trappc = x.trappc ∧ y.trapaddr = x.trapaddr ∧ y.trapinfo = x.trapinfo ∧ y.epc = x.epc
    ∧ y.trapvec = x.trapvec
  staging : y.staging = x.staging

/-! ### Memory as agents see it -/

/-- A byte as the strands of an agent's core see it, at a virtual address that translates to `pa`. -/
def State.byteSeen (s : State) (a : Agent) (va pa : Nat) : Byte :=
  BitVec.ofNat 8 ((s.view a (va / 4 * 4) (pa / 4 * 4)).toNat / 256 ^ (va % 4))

/-- No cache of the module holds anything of a physical line. -/
def State.Uncached (s : State) (line : Nat) : Prop :=
  (∀ c ∈ s.cores, ∀ l ∈ c.2.l1, isLine l line = false) ∧ ∀ k ∈ s.clusters, ∀ e ∈ k.2.l2, e.1 ≠ line

/-- No cache of the module holds anything. -/
def State.Cold (s : State) : Prop := (∀ c ∈ s.cores, c.2.l1 = []) ∧ ∀ k ∈ s.clusters, k.2.l2 = []

/-- A line of which no L1 holds UPDATE words, which the cluster of `a` holds under no other alias than `va`'s, and whose words in the L1
of `a` are DIRTY or equal to what lies below them. -/
structure State.Calm (s : State) (a : Agent) (va pa : Nat) : Prop where
  sameOffset : pa % 128 = va % 128
  noUpdate : ∀ c ∈ s.cores, ∀ l ∈ c.2.l1, isLine l (pa / 128) = true → hasUpdate l = false
  oneAlias : ∀ c ∈ s.cores, clusterOf c.1 = clusterOf a.core → ∀ l ∈ c.2.l1, isLine l (pa / 128) = true → l.asid = a.asid ∧ l.vline = va / 128
  mine : ∀ l, s.l1Line a.core a.asid (va / 128) = some l → l.peer = none ∧ l.pline = pa / 128 ∧ ∀ w x, cfind l.words w = some x →
    (∃ m, x.st = .dirty m) ∨ x.data = s.belowWord (clusterOf a.core) (32 * (pa / 128) + w)

/-- R206: a line of virtual number `vline` finds a place in the L1 of `a` without a victim: it is present, or a way of its set is free. -/
def State.Roomy (s : State) (a : Agent) (vline : Nat) : Prop :=
  (s.l1Line a.core a.asid vline).isSome = true
  ∨ (freeWay 8 (fun (l : L1Line) => l.way) ((s.core a.core).l1.filter (fun l => l1SetOf l.vline == l1SetOf vline))).isSome = true

/-- R206: a line of a physical address finds a place in the L2 slice of its home without a victim: it is present, a way of its set is free, or the
slice has no cache. -/
def State.RoomyL2 (s : State) (pa : Nat) : Prop :=
  let k := homeCluster pa
  let line := pa / 128
  (s.l2Line k line).isSome = true ∨ s.l2Ways k (sliceOf line) = 0
  ∨ (freeWay (s.l2Ways k (sliceOf line)) (fun (e : Nat × L2Line) => e.2.way)
      ((s.cluster k).l2.filter (fun e => sliceOf e.1 == sliceOf line && l2SetOf e.1 == l2SetOf line))).isSome = true

/-! ### Frames -/

/-- R94, R190, R200, R256: a halt leaves every strand beside the executing one as it is, but that what peers have delivered is fetched again, and that
one which waits for a critical slot or at a gang queue waits afresh, its instruction to be counted when it is presented again. -/
def State.KeepsOthers (s t : State) : Prop :=
  ∀ k x, k ≠ s.cur → s.strandAt k = some x →
    ∃ y, t.strandAt k = some y ∧ y = { x with wait := y.wait, peerLines := y.peerLines, issued := y.issued, handled := y.handled }
      ∧ (x.wait ∉ [Wait.crit, .qpush, .qpop] → y = { x with peerLines := y.peerLines })

/-- Nothing but the table of strands has changed, and in it the executing strand alone. -/
structure State.StrandOnly (s t : State) : Prop where
  rest : t = { s with strands := t.strands }
  others : ∀ k, k ≠ s.cur → t.strandAt k = s.strandAt k

/-- What an instruction that writes scalar `d`, and nothing else beside the pc, leaves of a strand. -/
structure Strand.OnlyScalar (d : Nat) (x y : Strand) : Prop where
  scalars : ∀ n, n ≠ d → y.getS n = x.getS n
  vectors : ∀ n, y.getV n = x.getV n
  preds : ∀ n, y.getP n = x.getP n
  tiles : ∀ n, y.getT n = x.getT n
  mode : y.mode = x.mode
  em : y.em = x.em
  log : y.log = x.log
  staging : y.staging = x.staging
  rest : y = { x with bankA := y.bankA, bankB := y.bankB, pc := y.pc, wait := y.wait }

/-- What an instruction that writes predicate `d`, and nothing else beside the pc, leaves of a strand. -/
structure Strand.OnlyPred (d : Nat) (x y : Strand) : Prop where
  scalars : ∀ n, y.getS n = x.getS n
  vectors : ∀ n, y.getV n = x.getV n
  preds : ∀ n, n ≠ d → y.getP n = x.getP n
  tiles : ∀ n, y.getT n = x.getT n
  mode : y.mode = x.mode
  em : y.em = x.em
  log : y.log = x.log
  staging : y.staging = x.staging
  rest : y = { x with bankA := y.bankA, bankB := y.bankB, pc := y.pc, flags := y.flags, wait := y.wait }

/-- What an instruction that writes vector register `d`, `%flags` and nothing else beside the pc leaves of a strand. -/
structure Strand.OnlyVector (d : Nat) (x y : Strand) : Prop where
  scalars : ∀ n, y.getS n = x.getS n
  vectors : ∀ n, n ≠ d → y.getV n = x.getV n
  preds : ∀ n, y.getP n = x.getP n
  tiles : ∀ n, y.getT n = x.getT n
  mode : y.mode = x.mode
  em : y.em = x.em
  log : y.log = x.log
  staging : y.staging = x.staging
  rest : y = { x with bankA := y.bankA, bankB := y.bankB, pc := y.pc, flags := y.flags, wait := y.wait }

/-- Every byte of home memory reads as before. -/
def State.SameMemory (s t : State) : Prop := ∀ a, readByte t.mem a = readByte s.mem a

/-! ### Tile nodes -/

/-- The executing strand's instruction `i` appends `node` to an empty skein and gives tiles the tags `tags`; nothing else happens. -/
def State.Appends (s : State) (st : Strand) (i : Instr) (node : Node) (tags : List (Nat × Tag)) : Prop :=
  ∃ t st', s.Completes st i t st' ∧ st'.nodes = [node] ∧ (∀ x ∈ tags, (st'.getT x.1).tag = x.2 ∧ (st'.getT x.1).words = (st.getT x.1).words)
    ∧ (∀ n, (∀ x ∈ tags, x.1 ≠ n) → st'.getT n = st.getT n) ∧ st.SameRegs st' none none ∧ s.StrandOnly t

end Sys2Proof.Machine
end

