-- ==== Sys2Proof/Certificates/Slice0/Obligations.lean ====
section
/-!
DEFINITION. The statements: what the rules of spec/ say of instructions, traps, memory, tasks, partitions and the module, as
propositions over the model.
-/
open Sys2Proof Sys2Proof.Machine

/-! ### Scalar instructions (R74, R81–R83, R86, R87) -/

/-- R81: the register–register instructions but division. R81: the register–immediate instructions, for every shift count that sh6
encodes. R83: LI and LIH. R83: one LI followed by three LIH, with the chunks of `v` from the highest down, leave `v` in a register other
than s0. -/
def Obligations.ScalarResults : Prop :=
  (∀ (s : State) (st : Strand) (d a b : Nat), s.strand? = some st →
    let x := st.getS a
    let y := st.getS b
    s.Writes st (.add d a b) d (x + y)
    ∧ s.Writes st (.sub d a b) d (x - y)
    ∧ s.Writes st (.mul d a b) d (x * y)
    ∧ s.Writes st (.mulh d a b) d ((x.signExtend 128 * y.signExtend 128).extractLsb' 64 64)
    ∧ s.Writes st (.mulhn d a b) d ((x.zeroExtend 128 * y.zeroExtend 128).extractLsb' 64 64)
    ∧ s.Writes st (.and d a b) d (x &&& y)
    ∧ s.Writes st (.or d a b) d (x ||| y)
    ∧ s.Writes st (.xor d a b) d (x ^^^ y)
    ∧ s.Writes st (.shl d a b) d (x <<< (y &&& 63))
    ∧ s.Writes st (.shr d a b) d (x >>> (y &&& 63))
    ∧ s.Writes st (.sra d a b) d (x.sshiftRight (y &&& 63).toNat)
    ∧ s.Writes st (.slt d a b) d (if x.slt y then 1 else 0)
    ∧ s.Writes st (.sltn d a b) d (if x.ult y then 1 else 0)
    ∧ s.Writes st (.min d a b) d (if x.slt y then x else y)
    ∧ s.Writes st (.max d a b) d (if x.slt y then y else x)
    ∧ s.Writes st (.minn d a b) d (if x.ult y then x else y)
    ∧ s.Writes st (.maxn d a b) d (if x.ult y then y else x)
    ∧ (∃ n, s.Writes st (.clz d a) d (BitVec.ofNat 64 n) ∧ n ≤ 64 ∧ (∀ i, i < n → x.getLsbD (63 - i) = false)
        ∧ (n < 64 → x.getLsbD (63 - n) = true))
    ∧ s.Writes st (.popc d a) d (BitVec.ofNat 64 ((List.range 64).countP (fun i => x.getLsbD i))))
  ∧ (∀ (s : State) (st : Strand) (d a sh : Nat) (imm : BitVec 8), s.strand? = some st → sh < 64 →
    let x := st.getS a
    s.Writes st (.addi d a imm) d (x + imm.signExtend 64)
    ∧ s.Writes st (.shli d a sh) d (x <<< sh)
    ∧ s.Writes st (.shri d a sh) d (x >>> sh)
    ∧ s.Writes st (.srai d a sh) d (x.sshiftRight sh)
    ∧ s.Writes st (.andi d a imm) d (x &&& imm.signExtend 64))
  ∧ (∀ (s : State) (st : Strand) (d : Nat) (imm : BitVec 16), s.strand? = some st →
    s.Writes st (.li d imm) d (imm.signExtend 64)
    ∧ s.Writes st (.lih d imm) d ((st.getS d <<< 16) ||| imm.zeroExtend 64))
  ∧ (∀ (s s1 s2 s3 s4 : State) (st : Strand) (d : Nat) (v : DWord), s.strand? = some st → d ≠ 0 →
    exec (.li d (v.extractLsb' 48 16)) s = .next s1 → exec (.lih d (v.extractLsb' 32 16)) s1 = .next s2 →
    exec (.lih d (v.extractLsb' 16 16)) s2 = .next s3 → exec (.lih d (v.extractLsb' 0 16)) s3 = .next s4 →
    ∃ st', s4.strand? = some st' ∧ st'.getS d = v ∧ st'.pc = st.pc + 16)

/-- R82: division. -/
def Obligations.DivisionResults : Prop :=
  ∀ (s : State) (st : Strand) (d a b : Nat), s.strand? = some st →
    let x := st.getS a
    let y := st.getS b
    let low : DWord := BitVec.intMin 64
    s.Writes st (.div d a b) d
      (if y = 0 then 0xFFFFFFFFFFFFFFFF else if x = low ∧ y = -1 then low else BitVec.ofInt 64 (x.toInt.tdiv y.toInt))
    ∧ s.Writes st (.divn d a b) d (if y = 0 then 0xFFFFFFFFFFFFFFFF else BitVec.ofNat 64 (x.toNat / y.toNat))
    ∧ s.Writes st (.rem d a b) d
      (if y = 0 then x else if x = low ∧ y = -1 then 0 else BitVec.ofInt 64 (x.toInt - y.toInt * x.toInt.tdiv y.toInt))
    ∧ s.Writes st (.remn d a b) d (if y = 0 then x else BitVec.ofNat 64 (x.toNat % y.toNat))

/-- R86 and R87: EMSET, EMGET and the predicate instructions. -/
def Obligations.PredicateResults : Prop :=
  ∀ (s : State) (st : Strand) (d a b : Nat), s.strand? = some st →
    let x := st.getP a
    let y := st.getP b
    exec (.emset a) s = .next (s.done (st.setEm x) 0)
    ∧ s.WritesPred st (.emget d) d st.em
    ∧ s.WritesPred st (.pand d a b) d (x &&& y)
    ∧ s.WritesPred st (.por d a b) d (x ||| y)
    ∧ s.WritesPred st (.pxor d a b) d (x ^^^ y)
    ∧ s.WritesPred st (.pandn d a b) d (x &&& ~~~ y)
    ∧ s.WritesPred st (.pnot d a) d (~~~ x)
    ∧ s.Writes st (.ppopc d a) d (BitVec.ofNat 64 ((List.range 32).countP (fun i => x.getLsbD i)))
    ∧ (∃ n, s.Writes st (.pffs d a) d (BitVec.ofNat 64 n) ∧ n ≤ 32 ∧ (∀ i, i < n → x.getLsbD i = false) ∧ (n < 32 → x.getLsbD n = true))
    ∧ s.WritesPred st (.pfroms d a) d ((st.getS a).extractLsb' 0 32)
    ∧ s.Writes st (.ptos d a) d (x.zeroExtend 64)

/-- R51, R74: the frame of the scalar and predicate instructions that write scalar `d`. A write to s0 is discarded. R87: the frame of the
instructions that write predicate `d`. -/
def Obligations.RegisterFrames : Prop :=
  (∀ (s t : State) (st st' : Strand) (d a b sh : Nat) (i8 : BitVec 8) (i16 : BitVec 16) (i : Instr),
    i ∈ [.add d a b, .sub d a b, .mul d a b, .mulh d a b, .mulhn d a b, .div d a b, .divn d a b, .rem d a b, .remn d a b,
         .and d a b, .or d a b, .xor d a b, .shl d a b, .shr d a b, .sra d a b, .slt d a b, .sltn d a b, .min d a b, .max d a b,
         .minn d a b, .maxn d a b, .clz d a, .popc d a, .addi d a i8, .shli d a sh, .shri d a sh, .srai d a sh, .andi d a i8,
         .li d i16, .lih d i16, .ppopc d a, .pffs d a, .ptos d a] →
    s.strand? = some st → exec i s = .next t → t.strand? = some st' →
    s.StrandOnly t ∧ s.SameMemory t ∧ st.OnlyScalar d st' ∧ st'.getS 0 = 0)
  ∧ (∀ (s t : State) (st st' : Strand) (d a b : Nat) (i : Instr),
    i ∈ [.emget d, .pand d a b, .por d a b, .pxor d a b, .pandn d a b, .pnot d a, .pfroms d a] →
    s.strand? = some st → exec i s = .next t → t.strand? = some st' →
    s.StrandOnly t ∧ s.SameMemory t ∧ st.OnlyPred d st' ∧ st'.flags = st.flags)

/-! ### Control transfer (R58, R70–R79) -/

/-- R58, R75: the direct branches. A taken one goes to the branch's own pc plus four times the offset, CALL with the link in s63; an
untaken one goes on; a taken one whose target lies outside 0 to 65,532 enters the handler with ILLEGAL and the target. R58, R76: JR, RET
and CALLR: a target that is a multiple of 4 below 65,536 is taken, CALLR's read before the link is written; one that is no multiple of 4
traps ALIGN, another beyond the imem half traps ILLEGAL, and s63 is not written. -/
def Obligations.ControlTransfers : Prop :=
  (∀ (s : State) (st : Strand) (d : Nat) (off : BitVec 24) (o16 : BitVec 16), s.strand? = some st → st.pc % 4 = 0 →
    let goes (i : Instr) (o : Int) (x : Strand) : Prop :=
      let t : Int := st.pc + 4 * o
      (0 ≤ t ∧ t ≤ 65532 → exec i s = .next (s.putStrand { x with pc := t.toNat }))
      ∧ (t < 0 ∨ 65532 < t → st.CanTrap →
          s.TrapsAtIssue st i 0x01 0 (BitVec.ofInt 64 t))
    let cond (i : Instr) (taken : Prop) : Prop := (taken → goes i o16.toInt st) ∧ (¬ taken → exec i s = .next (s.done st 0))
    st.pc < 65536 →
    goes (.br off) off.toInt st
    ∧ goes (.call off) off.toInt (st.setS 63 (BitVec.ofNat 64 (st.pc + 4)))
    ∧ cond (.brz d o16) (st.getS d = 0)
    ∧ cond (.brnz d o16) (st.getS d ≠ 0)
    ∧ cond (.bre d o16) (st.getP d &&& st.em = 0)
    ∧ cond (.brne d o16) (st.getP d &&& st.em ≠ 0))
  ∧ (∀ (s : State) (st : Strand) (a : Nat), s.strand? = some st →
    let goes (i : Instr) (t : DWord) (x : Strand) : Prop :=
      (t.toNat % 4 = 0 ∧ t.toNat < 65536 → exec i s = .next (s.putStrand { x with pc := t.toNat }))
      ∧ (t.toNat % 4 ≠ 0 → st.CanTrap →
          s.TrapsAtIssue st i 0x04 0 t)
      ∧ (t.toNat % 4 = 0 → 65536 ≤ t.toNat → st.CanTrap →
          s.TrapsAtIssue st i 0x01 0 t)
    goes (.jr a) (st.getS a) st
    ∧ goes .ret (st.getS 63) st
    ∧ goes (.callr a) (st.getS a) (st.setS 63 (BitVec.ofNat 64 (st.pc + 4))))

/-- R70, R71, R73, R77: TRAP n and BKPT n enter the handler: every trap register, the pc, and nothing else of the strand; and NOP does
nothing but advance the pc. R54, R57: a word that is no instruction takes ILLEGAL at issue, with no other effect. R23, R73: a trap in a
handler, or with no handler, kills the strand: the command's completion class is STRAND_KILLED with the trap's code and pc. -/
def Obligations.TrapEntry : Prop :=
  (∀ (s : State) (st : Strand) (n : BitVec 16), s.strand? = some st →
    let enters (i : Instr) (code : DWord) : Prop := ∃ t st', exec i s = .next t ∧ t.strand? = some st'
      ∧ st'.trapcause = (1 <<< 63) ||| (n.zeroExtend 64 <<< 16) ||| code
      ∧ st'.trappc = BitVec.ofNat 64 st.pc ∧ st'.epc = BitVec.ofNat 64 (st.pc + 4) ∧ st'.trapaddr = 0 ∧ st'.trapinfo = 0
      ∧ st'.pc = st.trapvec.toNat
      ∧ st' = { st with trapcause := st'.trapcause, trappc := st'.trappc, epc := st'.epc, trapaddr := 0, trapinfo := 0, pc := st'.pc
                        wait := .none, flip := none, presented := none, committed := false, copied := none }
      ∧ s.SameMemory t
    (st.CanTrap → enters (.trap n) 0x06 ∧ enters (.bkpt n) 0x07) ∧ exec .nop s = .next (s.done st 0))
  ∧ (∀ (s : State) (st : Strand) (w : Word), s.strand? = some st → st.CanTrap →
    s.TrapsAtIssue st (.invalidInstructionWord w) 0x01 0 0)
  ∧ (∀ (s : State) (st : Strand) (l : Launch) (n : BitVec 16), s.Solo st → ¬ st.CanTrap →
    cfind s.launches (s.team st.team).launch = some l → l.event = none →
    ∃ t l' e, exec (.trap n) s = .next t ∧ cfind t.launches (s.team st.team).launch = some l' ∧ l'.event = some e
      ∧ e.cls = .strandKilled ∧ e.cause = 0x06 ∧ e.pc = st.pc ∧ e.strand = st.idx ∧ e.addr = 0
      ∧ ∀ st', t.strandAt s.cur = some st' → st'.run = .killed)

/-- R78: ERET clears ACTIVE and goes to %epc, changing no other register; outside a handler it traps ILLEGAL. R73, R78: a trap's entry
and the return that its handler makes at once bring the strand behind the instruction, with every register as it was but the trap
registers. -/
def Obligations.ErrorReturn : Prop :=
  (∀ (s : State) (st : Strand), s.strand? = some st →
    (st.trapcause.getLsbD 63 = true → st.epc.toNat % 4 = 0 → st.epc.toNat < 65536 →
      exec .eret s = .next (s.putStrand { st with trapcause := st.trapcause &&& 0x7FFFFFFFFFFFFFFF, pc := st.epc.toNat }))
    ∧ (st.CanTrap →
      s.TrapsAtIssue st .eret 0x01 0 0))
  ∧ (∀ (s t : State) (st : Strand) (n : BitVec 16), s.strand? = some st → st.CanTrap → st.pc % 4 = 0 → st.pc < 65532 →
    exec (.trap n) s = .next t →
    ∃ u st', exec .eret t = .next u ∧ u.strand? = some st' ∧ st'.pc = st.pc + 4 ∧ st'.CanTrap
      ∧ st'.bankA = st.bankA ∧ st'.bankB = st.bankB ∧ st'.sel = st.sel ∧ st'.flags = st.flags ∧ st'.trapvec = st.trapvec)

/-- R79, R213, R231: EXIT ends the strand once its operand log is empty and what its core has written at peers is acknowledged; pending nodes are
discarded; until the log is empty it waits. -/
def Obligations.ExitResults : Prop :=
  ∀ (s : State) (st : Strand), s.strand? = some st →
    (st.log ≠ [] → exec .exit s = .next (s.putStrand { st with wait := .logDrain }))
    ∧ (s.level st = 0 → st.log = [] → s.Acked st →
        ∃ t, exec .exit s = .next t ∧ ∀ st', t.strandAt s.cur = some st' → st'.run = .exited ∧ st'.nodes = [] ∧ st'.timer = none)

/-! ### Special registers, the mode, system instructions (R62, R66, R69, R84, R85, R88–R92, R198, R232) -/

/-- R69, R84: what MFSR reads under SOLO, every register of the map; another number traps ILLEGAL. Model's choice: log 42, on the timer's first cycle. -/
def Obligations.SpecialRegisterReads : Prop :=
  ∀ (s : State) (st : Strand) (d : Nat), s.Solo st →
    let t := s.team st.team
    let l := s.launchOf st
    let reads (n : Nat) (v : DWord) : Prop := s.Writes st (.mfsr d n) d v
    let num (n k : Nat) : Prop := reads n (BitVec.ofNat 64 k)
    num 0x01 st.idx ∧ num 0x02 (t.index % l.nx) ∧ num 0x03 (t.index / l.nx % l.ny) ∧ num 0x04 (t.index / (l.nx * l.ny))
    ∧ num 0x05 l.nx ∧ num 0x06 l.ny ∧ num 0x07 l.nz ∧ num 0x08 (s.gang t.gang).index ∧ num 0x09 t.member
    ∧ reads 0x0A l.args ∧ num 0x0B l.header.spbytes
    ∧ num 0x10 t.core ∧ num 0x11 (t.core / 256) ∧ num 0x12 (t.core / 512) ∧ num 0x13 t.place
    ∧ reads 0x18 (st.mode.zeroExtend 64) ∧ reads 0x19 (st.flags.zeroExtend 64) ∧ reads 0x1A st.trapcause
    ∧ reads 0x1B (st.trappc &&& 0x1FFFF) ∧ reads 0x1C st.trapaddr ∧ reads 0x1D st.trapinfo ∧ reads 0x1E st.epc
    ∧ reads 0x1F st.trapvec ∧ num 0x20 0 ∧ num 0x21 st.ropeseq ∧ num 0x22 t.perfcls
    ∧ reads 0x23 (s.throttle l.part) ∧ num 0x24 (if l.secure then 1 else 0)
    ∧ ∀ n, ¬ (1 ≤ n ∧ n ≤ 0x0B ∨ 0x10 ≤ n ∧ n ≤ 0x13 ∨ 0x18 ≤ n ∧ n ≤ 0x24) → st.CanTrap → s.TrapsAtIssue st (.mfsr d n) 0x01 0 0

/-- R66, R69, R84: what MTSR writes: %mode, %flags (bits whose source bit is 1 are cleared), %epc, and %trapvec where the value is a
multiple of 4 below 65,536 or 0xFFFF_FFFF; every other value of %trapvec, and every register whose access is R, traps ILLEGAL. R62, R84,
R85: MODE, MODES and MTSR of %mode write all 16 bits where bits 15:14 are zero, ROUND is at most 4 and TYPE is a tag, for the scalar
forms with bits 63:16 zero too; any other value traps ILLEGAL and %mode stays. -/
def Obligations.SpecialRegisterWrites : Prop :=
  (∀ (s : State) (st : Strand) (n a : Nat), s.strand? = some st →
    let v := st.getS a
    let illegal (i : Instr) : Prop := st.CanTrap →
      s.TrapsAtIssue st i 0x01 0 0
    let vecOk : Prop := v = 0xFFFFFFFF ∨ (v.toNat % 4 = 0 ∧ v.toNat < 65536)
    exec (.mtsr 0x19 a) s = .next (s.done { st with flags := st.flags &&& ~~~ v.extractLsb' 0 5 } 0)
    ∧ exec (.mtsr 0x1E a) s = .next (s.done { st with epc := v } 0)
    ∧ (vecOk → exec (.mtsr 0x1F a) s = .next (s.done { st with trapvec := v } 0))
    ∧ (¬ vecOk → illegal (.mtsr 0x1F a))
    ∧ (n ∉ [0x18, 0x19, 0x1E, 0x1F] → illegal (.mtsr n a)))
  ∧ (∀ (s : State) (st : Strand) (m : BitVec 16) (a : Nat), s.strand? = some st →
    let legal (m : BitVec 16) : Prop := m.toNat < 2 ^ 14 ∧ m.toNat / 2 ^ 9 % 8 ≤ 4 ∧ m.toNat % 32 ∉ [0x07, 0x0D, 0x0E, 0x0F, 0x10, 0x18]
    let writes (i : Instr) (m : BitVec 16) : Prop := ∃ t st', exec i s = .next t ∧ t.strand? = some st' ∧ st'.mode = m ∧ st'.pc = st.pc + 4
      ∧ (∀ n, st'.getS n = st.getS n) ∧ (∀ n, st'.getV n = st.getV n) ∧ (∀ n, st'.getP n = st.getP n) ∧ st'.em = st.em ∧ s.StrandOnly t
    let v := st.getS a
    (legal m → writes (.mode m) m)
    ∧ (v.toNat < 2 ^ 16 ∧ legal (v.extractLsb' 0 16) → writes (.modes a) (v.extractLsb' 0 16) ∧ writes (.mtsr 0x18 a) (v.extractLsb' 0 16))
    ∧ (¬ (v.toNat < 2 ^ 16 ∧ legal (v.extractLsb' 0 16)) → st.CanTrap → ∀ i ∈ [Instr.modes a, .mtsr 0x18 a],
        s.TrapsAtIssue st i 0x01 0 0))

/-- R88–R92: TIME, CYC, SETTIMER, CKPT and SIGCHK under SOLO: SETTIMER n leaves n + 1 resident cycles to go from the one in which it
issues, 0 disarms; CKPT does nothing; SIGCHK writes 0 at once. R90, R91: PERF sets %perfcls of the team, the strand of the higher number
standing within a cycle; IDEMP marks the team unless it has performed an atomic or a release since it started. Neither touches another
team. Model's choices: log 42, on the timer's first cycle, and log 19, on the operand log before CKPT and SIGCHK. -/
def Obligations.SystemResults : Prop :=
  (∀ (s : State) (st : Strand) (d a : Nat), s.Solo st → st.replica = 0 →
    s.Writes st (.time d) d (BitVec.ofNat 64 s.time)
    ∧ s.Writes st (.cyc d) d (BitVec.ofNat 64 st.cyc)
    ∧ exec (.settimer a) s
        = .next (s.done { st with timer := if (st.getS a).toNat = 0 then none else some ((st.getS a).toNat + 1) } 0)
    ∧ exec .ckpt s = .next (s.done st 0)
    ∧ s.Writes st (.sigchk d) d 0)
  ∧ (∀ (s : State) (st : Strand) (t : Team) (n : Nat), s.Solo st → cfind s.teams st.team = some t →
    (∃ u t', exec (.perf n) s = .next u ∧ cfind u.teams st.team = some t'
      ∧ t'.perfcls = (match t.perfBy with | some k => if st.idx < k then t.perfcls else n | none => n)
      ∧ (∀ k, k ≠ st.team → cfind u.teams k = cfind s.teams k) ∧ u.strands = (s.done st 0).strands ∧ s.SameMemory u)
    ∧ (∃ u t', exec .idemp s = .next u ∧ cfind u.teams st.team = some t' ∧ t'.idemp = (t.idemp || !t.synced)
      ∧ (∀ k, k ≠ st.team → cfind u.teams k = cfind s.teams k) ∧ u.strands = (s.done st 0).strands ∧ s.SameMemory u))

/-- R198, R232: CRIT makes the strand critical while its scheduler holds fewer than four critical strands and no earlier CRIT waits there; else it
waits, and is done when it is the oldest waiting one and there is room. UNCRIT ends it, and where no CRIT of the scheduler waits nothing else changes. Model's choice: log 114, on which strands count. -/
def Obligations.CriticalSections : Prop :=
  ∀ (s : State) (st : Strand), s.strand? = some st →
    let held := s.critHeld (s.coreOf st) st.sched
    let oldest := s.oldestCrit (s.coreOf st) st.sched
    (st.crit = false → st.wait ≠ .crit → held < 4 → oldest = none → exec .crit s = .next (s.done { st with crit := true } 0))
    ∧ (st.crit = false → st.wait = .crit → held < 4 → oldest = some s.cur →
      ∃ t st', exec .crit s = .next t ∧ t.strand? = some st' ∧ st' = { st with crit := true, wait := .none, pc := st.pc + 4 }
        ∧ ((t.core (s.coreOf st)).sched st.sched).critWait = ((s.core (s.coreOf st)).sched st.sched).critWait.filter (· != s.cur))
    ∧ (st.crit = false → 4 ≤ held ∨ (∃ w, oldest = some w ∧ w ≠ s.cur) →
      ∃ t st', exec .crit s = .next t ∧ t.strand? = some st' ∧ st'.crit = false ∧ st'.wait = .crit ∧ st'.pc = st.pc
        ∧ s.cur ∈ ((t.core (s.coreOf st)).sched st.sched).critWait)
    ∧ (st.crit = true → ((s.core (s.coreOf st)).sched st.sched).critWait = [] →
      ∃ t st', exec .uncrit s = .next t ∧ t.strand? = some st' ∧ st' = { st with crit := false, wait := .none, pc := st.pc + 4 })
    ∧ (st.crit = false → exec .uncrit s = .next (s.done st 0))

/-! ### Privilege (R57, R93–R96, R296–R298) -/

/-- R57, R296: each privileged instruction of a strand of a partition without PRIV traps PRIV, with no effect. -/
def Obligations.UnprivilegedTraps : Prop :=
  ∀ (s : State) (st : Strand) (d a b : Nat), s.strand? = some st → s.privileged st = false → st.CanTrap →
    ∀ i ∈ [Instr.sysrd d a, .syswr d a, .pflip, .haltc a, .tlbinv a b],
      s.TrapsAtIssue st i 0x02 0 0

/-- R93, R291, R297: SYSRD of the registers of the map, read by a privileged strand of partition `p` whose target is `q`; a second of a
rope takes what its leader read, whatever its own number is; another number, or one above 16 bits, traps ILLEGAL with the number as
address, and under a rope the leader hands that on: its seconds trap ILLEGAL in their turn. R93, R289, R291, R297: SYSWR of MODLIM takes
600 to 3,600 and of PTARGET 0 to 15, performed by the leader of a rope alone; a value out of range, and a read-only register, trap
ILLEGAL with no effect. A shadow or second does nothing at any SYSWR. Model's choices: logs 23 (the seconds of a rope take the ILLEGAL of
their leader's SYSRD too) and 24. -/
def Obligations.SystemRegisters : Prop :=
  (∀ (s : State) (st : Strand) (d a : Nat), s.strand? = some st → s.privileged st = true →
    let p := (s.launchOf st).part
    let q := (s.part p).ptarget
    let x := s.part q
    let v := st.getS a
    let reads (n : Nat) (r : DWord) : Prop := v = BitVec.ofNat 64 n →
      (s.level st = 0 → s.Writes st (.sysrd d a) d r)
      ∧ (s.level st ≠ 0 → st.log = [] → st.replica = 0 →
          ∃ t, exec (.sysrd d a) s = .next t ∧ t.strand? = (s.done (st.setS d r) 0).strand? ∧ s.SameMemory t)
    let unlisted : Prop := 2 ^ 16 ≤ v.toNat ∨ v.toNat ∉ [0x10, 0x11, 0x100, 0x101, 0x102, 0x103, 0x104, 0x105, 0x200, 0x201, 0x202, 0x310]
    let enters (l : List RopeValue) : Prop := ∃ t, exec (.sysrd d a) s = .next t ∧ s.SameMemory t ∧ t.strand? = some ({ st with values := l }.enterTrap
      { cause := 0x01, detail := 0, pc := st.pc, epc := st.pc, addr := v, info := 0 })
    (∀ w l, s.level st ≠ 0 → st.log = [] → st.replica ≠ 0 → st.values = .scalar w :: l →
        exec (.sysrd d a) s = .next (s.done ({ st with values := l }.setS d w) 0))
    ∧ (∀ l, s.level st ≠ 0 → st.log = [] → st.replica ≠ 0 → st.values = .illegal :: l → st.wait = .none → st.CanTrap → enters l)
    ∧ (unlisted → s.level st = 0 → st.wait = .none → st.CanTrap → s.TrapsAtIssue st (.sysrd d a) 0x01 0 v)
    ∧ (unlisted → s.level st ≠ 0 → st.log = [] → st.replica = 0 → st.wait = .none → st.CanTrap → (s.strands.map Prod.fst).Nodup → enters st.values)
    ∧ reads 0x0010 (s.part p).pcfg ∧ reads 0x0011 (BitVec.ofNat 64 q)
    ∧ (granules x.pcfg ≠ 0 → reads 0x0100 x.pcfg ∧ reads 0x0104 (BitVec.ofNat 64 x.lim))
    ∧ (granules x.pcfg = 0 → reads 0x0100 0 ∧ reads 0x0104 0 ∧ reads 0x0105 0)
    ∧ reads 0x0101 (BitVec.ofNat 64 x.cmdlimit) ∧ reads 0x0102 (BitVec.ofNat 64 x.rank) ∧ reads 0x0103 (BitVec.ofNat 64 x.pcap)
    ∧ reads 0x0200 (BitVec.ofNat 64 s.power.modlim) ∧ reads 0x0201 (BitVec.ofNat 64 s.power.uncore))
  ∧ (∀ (s : State) (st : Strand) (d a : Nat) (pt : Partition), s.strand? = some st → s.privileged st = true →
    cfind s.parts (s.launchOf st).part = some pt →
    let v := st.getS d
    let n := (st.getS a).toNat
    (st.replica ≠ 0 → exec (.syswr d a) s = .next (s.done st 0))
    ∧ (n = 0x200 → 600 ≤ v.toNat → v.toNat ≤ 3600 → st.replica = 0 →
      ∃ t, exec (.syswr d a) s = .next t ∧ t.power.modlim = v.toNat ∧ t.strand? = (s.done st 0).strand? ∧ s.SameMemory t)
    ∧ (n = 0x11 → v.toNat < 16 → st.replica = 0 →
      ∃ t, exec (.syswr d a) s = .next t ∧ (t.part (s.launchOf st).part).ptarget = v.toNat ∧ t.strand? = (s.done st 0).strand?)
    ∧ (n = 0x200 ∧ (v.toNat < 600 ∨ 3600 < v.toNat) ∨ n = 0x11 ∧ 16 ≤ v.toNat ∨ n ∈ [0x10, 0x100, 0x104, 0x105, 0x201, 0x202] → st.replica = 0 → st.CanTrap →
      s.TrapsAtIssue st (.syswr d a) 0x01 0 (st.getS a)))

/-- R94, R200, R232, R297: HALTC of a core of the target partition, by a privileged strand of another one, halts the core where no strand is
critical and none has still to finish what it has issued, leaves every other core as it is, and completes; one that waits completes once the core is
halted; a shadow or second of a rope leaves the halt to its leader; outside these conditions it traps ILLEGAL with no effect. Model's choices: log 23, on the replicas of a rope, and log 88, on TIMER. -/
def Obligations.HaltResults : Prop :=
  ∀ (s : State) (st : Strand) (a : Nat), s.strand? = some st → s.privileged st = true →
    let v := (st.getS a).toNat
    let p := (s.launchOf st).part
    let q := (s.part p).ptarget
    let ok : Prop := v < 2 ^ 11 ∧ q ≠ p ∧ granules (s.part q).pcfg ≠ 0 ∧ bitAt (granules (s.part q).pcfg) (v / 128) = true
    (st.wait = .halt → (s.core v).halted = true → (s.core v).haltAsked = none → exec (.haltc a) s = .next (s.done st 0))
    ∧ (st.wait ≠ .halt → ok → st.replica = 0 → (∀ e ∈ s.strands, e.2.crit = false ∧ s.finishing e.1 e.2 = false) → (s.strands.map Prod.fst).Nodup →
      ∃ t, exec (.haltc a) s = .next t ∧ (t.core v).halted = true ∧ (∀ c, c ≠ v → cfind t.cores c = cfind s.cores c)
        ∧ t.strand? = (s.done st 0).strand? ∧ s.KeepsOthers t ∧ s.SameMemory t)
    ∧ (st.wait ≠ .halt → ok → st.replica ≠ 0 → exec (.haltc a) s = .next (s.done st 0))
    ∧ (st.wait ≠ .halt → ¬ ok → st.CanTrap → s.TrapsAtIssue st (.haltc a) 0x01 0 0)

/-- R95, R298: PFLIP exchanges the planes of the target partition once every core of it is halted and no transfer bound to a staging bank
runs, then resumes its cores; one that waits completes when its exchange has been made; a shadow or second of a rope leaves that to its
leader; of the issuing strand's own partition, or of one without granules, it traps ILLEGAL. R298: firmware's pre-emption does the same
to a partition with granules; whether firmware reloads the incoming context, which moves its teams, is free (log 89): a strand keeps all
but its scheduler, its slot, its wait, its count of issues, that a pass waits for the matrix unit, and what peers had delivered for its
instruction. Model's choices: log 23 (PFLIP does nothing at a replica other than the leader) and logs 10, 11, 88, 89 and 114. -/
def Obligations.ContextExchange : Prop :=
  (∀ (s : State) (st : Strand) (x : Partition), s.strand? = some st → s.privileged st = true → st.run = .running →
    let p := (s.launchOf st).part
    let q := (s.part p).ptarget
    (st.wait = .halt → (∀ e ∈ s.parts, s.cur ∉ e.2.requests) → exec .pflip s = .next (s.done st 0))
    ∧ (st.wait ≠ .halt → q ≠ p → st.replica = 0 → cfind s.parts q = some x → granules x.pcfg ≠ 0 → x.requests = [] →
        (∀ e ∈ s.strands, e.2.crit = false ∧ s.finishing e.1 e.2 = false) → (∀ e ∈ s.teams, e.2.xfers = []) → (s.strands.map Prod.fst).Nodup →
      ∃ t, exec .pflip s = .next t ∧ (t.part q).plane = !x.plane ∧ (t.part q).requests = []
        ∧ (∀ c, bitAt (granules x.pcfg) (c / 128) = true → (t.core c).halted = false ∧ (t.core c).haltAsked = none)
        ∧ t.strand? = (s.done st 0).strand? ∧ s.KeepsOthers t ∧ s.SameMemory t)
    ∧ (st.wait ≠ .halt → q ≠ p → granules (s.part q).pcfg ≠ 0 → st.replica ≠ 0 → exec .pflip s = .next (s.done st 0))
    ∧ (st.wait ≠ .halt → q = p ∨ granules (s.part q).pcfg = 0 → st.CanTrap → s.TrapsAtIssue st .pflip 0x01 0 0))
  ∧ (∀ (s : State) (p : Nat) (x : Partition), cfind s.parts p = some x → granules x.pcfg ≠ 0 → x.requests = [] →
    let still (n : Node) : Node := { n with pass := n.pass.map (fun a => { a with waits := false }) }
    (∀ e ∈ s.strands, e.2.crit = false ∧ s.finishing e.1 e.2 = false) → (∀ e ∈ s.teams, e.2.xfers = []) →
    ∃ t, exec (.preemption p) s = .next t ∧ (t.part p).plane = !x.plane ∧ (t.part p).requests = [] ∧ (t.part p).loaded = false
      ∧ (∀ c, bitAt (granules x.pcfg) (c / 128) = true → (t.core c).halted = false ∧ (t.core c).haltAsked = none)
      ∧ (s.Cold → s.SameMemory t)
      ∧ ∀ k y, s.strandAt k = some y → ∃ z, t.strandAt k = some z ∧ z.nodes.map still = y.nodes.map still
        ∧ z = { y with sched := z.sched, slotNo := z.slotNo, wait := z.wait, peerLines := z.peerLines, nodes := z.nodes, issued := z.issued
                       handled := z.handled })

/-- R96: TLBINV of a whole address space, or of the page of it that holds an address, leaves no entry of what it names in any cluster TLB and no line
of it in any L1, and keeps every other entry; bits 63:16 of the ASID operand must be zero; a shadow or second of a rope leaves it to its leader. Model's choices: logs 23 (a shadow or a second leaves TLBINV to its leader) and 63. -/
def Obligations.TranslationInvalidation : Prop :=
  ∀ (s : State) (st : Strand) (a b : Nat), s.strand? = some st → s.privileged st = true →
    let asid := (st.getS a).toNat
    (asid < 2 ^ 16 → st.replica ≠ 0 → exec (.tlbinv a b) s = .next (s.done st 0))
    ∧ (asid < 2 ^ 16 → st.replica = 0 →
      let v := (st.getS b).toNat
      let named (p : Page) : Prop := p ∈ s.pages ∧ p.asid = asid ∧ (v = 2 ^ 64 - 1 ∨ p.base ≤ v ∧ v < p.base + p.size)
      let entry (e : Nat × Nat) : Prop := e.1 = asid ∧ (v = 2 ^ 64 - 1 ∨ ∃ p, named p ∧ p.base = e.2)
      ∃ t, exec (.tlbinv a b) s = .next t ∧ t.strand? = (s.done st 0).strand?
        ∧ (∀ k, ∀ e ∈ (t.cluster k).tlb, ¬ entry e) ∧ (∀ k, ∀ e ∈ (s.cluster k).tlb, ¬ entry e → e ∈ (t.cluster k).tlb)
        ∧ ∀ c, ∀ x ∈ (t.core c).l1, x.asid = asid → ∀ p, named p → ¬ (p.base ≤ 128 * x.vline ∧ 128 * x.vline < p.base + p.size))
    ∧ (2 ^ 16 ≤ asid → st.CanTrap → s.TrapsAtIssue st (.tlbinv a b) 0x01 0 0)

/-! ### Vector instructions (R25, R26, R28, R57, R64, R97–R112) -/

/-- R26, R57, R64, R97–R101: the element-wise instructions: where the registers are declared, the mode type is one of the instruction's
and the sources carry it, the instruction completes with what its operation makes of the registers, unless it raises an enabled flag.
R26, R57, R70, R97: a first source whose tag is not the mode type traps FORMAT at issue, DETAIL naming field a and the tag found; a mode
type that the instruction does not accept names field 0 and that type; a register beyond those declared traps ILLEGAL before either.
Model's choices: log 9, on the approximations, and log 82, on the order of the checks. -/
def Obligations.VectorArithmetic : Prop :=
  (∀ (s : State) (st : Strand) (d a b : Nat), s.strand? = some st →
    let n := 8 * (s.headerOf st).vregs
    let does (i : Instr) (op : VOp) (b : Nat) : Prop :=
      d < n → a < n → b < n → op.accepts st.ty = true → (st.getV a).tag = st.ty → (st.getV b).tag = st.ty →
      (op = .mad → (st.getV d).tag = st.ty) →
      let r := op.apply st.ty (envOf st.mode) st.active (st.getV a) (st.getV b) (st.getV d)
      s.Unmasked st r.2 → s.WritesVec st i d r.1 r.2
    does (.vadd d a b) .add b ∧ does (.vsub d a b) .sub b ∧ does (.vmul d a b) .mul b ∧ does (.vmad d a b) .mad b
    ∧ does (.vmin d a b) .min b ∧ does (.vmax d a b) .max b ∧ does (.vabs d a) .abs a ∧ does (.vneg d a) .neg a
    ∧ does (.vdiv d a b) .div b ∧ does (.vrcp d a) .rcp a ∧ does (.vrsq d a) .rsq a ∧ does (.vsqrt d a) .sqrt a
    ∧ does (.vexp2 d a) .exp2 a ∧ does (.vlog2 d a) .log2 a ∧ does (.vrnd d a) .rnd a ∧ does (.vmulh d a b) .mulh b)
  ∧ (∀ (s : State) (st : Strand) (d a b : Nat), s.strand? = some st → st.CanTrap →
    let n := 8 * (s.headerOf st).vregs
    let traps (i : Instr) (op : VOp) : Prop :=
      ((n ≤ d ∨ n ≤ a ∨ n ≤ b) → s.TrapsAtIssue st i 0x01 0 0)
      ∧ (d < n → a < n → b < n → op.accepts st.ty = false → s.TrapsAtIssue st i 0x03 (tagCode st.ty) 0)
      ∧ (d < n → a < n → b < n → op.accepts st.ty = true → (st.getV a).tag ≠ st.ty →
          s.TrapsAtIssue st i 0x03 (64 + tagCode (st.getV a).tag) 0)
    traps (.vadd d a b) .add ∧ traps (.vsub d a b) .sub ∧ traps (.vmul d a b) .mul ∧ traps (.vmad d a b) .mad
    ∧ traps (.vmin d a b) .min ∧ traps (.vmax d a b) .max ∧ traps (.vdiv d a b) .div ∧ traps (.vmulh d a b) .mulh)

/-- R25, R64: what an element-wise operation makes of registers: the mode type as tag, inactive lanes kept, every element of an active lane from
the matching elements of the sources alone, and as flags those that the elements of active lanes raise, together. -/
def Obligations.VectorElementwise : Prop :=
  ∀ (op : VOp) (ty : Tag) (v : FEnv) (act : Word) (a b d : VReg), isInt ty = true ∨ isFlt ty = true →
    let r := op.apply ty v act a b d
    r.1.tag = ty
    ∧ (∀ j, j < 32 → laneOn act j = false → r.1.lane j = d.lane j)
    ∧ (∀ j, j < 32 → laneOn act j = true → ∀ k, k < elems ty →
        let e := j * elems ty + k
        elemAt ty r.1 e = (op.elem ty v (elemAt ty a e) (elemAt ty b e) (elemAt ty d e)).bits % 2 ^ elemBits ty)
    ∧ r.2 = (List.range 32).foldl (fun acc j => if laneOn act j then (List.range (elems ty)).foldl (fun acc k =>
        let e := j * elems ty + k
        acc ||| (op.elem ty v (elemAt ty a e) (elemAt ty b e) (elemAt ty d e)).fl) acc else acc) 0

/-- R25, R99: integer elements: sums, differences and products wrap at the element's width without SAT and are clamped to its range with
it; I types are two's complement and N types unsigned. R28: a NaN source of an arithmetic operation gives the canonical quiet NaN of the
format, and a signalling one raises invalid. -/
def Obligations.ElementValues : Prop :=
  (∀ (ty : Tag) (sat : Bool) (a b d : Nat), isInt ty = true → a < 2 ^ elemBits ty → b < 2 ^ elemBits ty → d < 2 ^ elemBits ty →
    let w := elemBits ty
    let x := intOf ty a
    let y := intOf ty b
    let fits (op : VOp) (z : Int) : Prop :=
      let r := op.int ty sat a b d
      r < 2 ^ w
      ∧ (sat = false → (r : Int) = z % 2 ^ w)
      ∧ (sat = true → intOf ty r = max (intMin ty) (min (intMax ty) z))
    fits .add (x + y) ∧ fits .sub (x - y) ∧ fits .mul (x * y) ∧ fits .mad (x * y + intOf ty d) ∧ fits .neg (-x)
    ∧ (VOp.min.int ty sat a b d = a ∨ VOp.min.int ty sat a b d = b) ∧ intOf ty (VOp.min.int ty sat a b d) = min x y
    ∧ intOf ty (VOp.max.int ty sat a b d) = max x y
    ∧ (b = 0 → VOp.div.int ty sat a b d = 2 ^ w - 1))
  ∧ (∀ (f : Fmt) (v : FEnv) (x y : FV), x.isNan = true ∨ y.isNan = true → f ∈ [fmtF32, fmtF16, fmtBF16, fmtE4M3, fmtE5M2] →
    let sig : IFlags := if x = .nan true ∨ y = .nan true then fNV else 0
    (∀ r ∈ [f.add v x y, f.mul v x y, f.div v x y], r.bits = f.qnan ∧ r.fl = sig)
    ∧ fmtF32.qnan = 0x7FC00000 ∧ fmtF16.qnan = 0x7E00 ∧ fmtBF16.qnan = 0x7FC0 ∧ fmtE4M3.qnan = 0x7F ∧ fmtE5M2.qnan = 0x7E)

/-- R102, R104, R105: bitwise operations, moves and lane masks. R102: shifts and counts of elements: VSHL, VSHR, VCLZ and VPOPC of
integer types and RAW, which counts as N32. -/
def Obligations.VectorMoves : Prop :=
  (∀ (s : State) (st : Strand) (d a b lane : Nat), s.strand? = some st →
    let n := 8 * (s.headerOf st).vregs
    let A := st.getV a
    let B := st.getV b
    let raw (v : VReg) : Prop := v.tag = st.ty ∨ v.tag = .raw
    let index (v : VReg) : Prop := v.tag ∈ [Tag.i32, .n32, .raw]
    (d < n → a < n → b < n → raw A → raw B →
      s.WritesLanes st (.vand d a b) d (fun j => A.lane j &&& B.lane j)
      ∧ s.WritesLanes st (.vor d a b) d (fun j => A.lane j ||| B.lane j)
      ∧ s.WritesLanes st (.vxor d a b) d (fun j => A.lane j ^^^ B.lane j)
      ∧ (∃ v, s.WritesVec st (.vsel d a b) d v 0 ∧ v.tag = st.ty ∧ ∀ j, j < 32 →
          v.lane j = if laneOn st.em j then (if laneOn st.guardMask j then A.lane j else B.lane j) else (st.getV d).lane j))
    ∧ (d < n → a < n → raw A → s.WritesLanes st (.vnot d a) d (fun j => ~~~ A.lane j)
      ∧ s.WritesLanes st (.vlane d a b) d (fun j => A.lane ((j + (st.getS b).toNat) % 32)))
    ∧ (d < n → a < n → b < n → raw A → index B → s.WritesLanes st (.vshuf d a b) d (fun j => A.lane ((B.lane j).toNat % 32)))
    ∧ (d < n → s.WritesLanes st (.vbcst d a) d (fun _ => (st.getS a).extractLsb' 0 32))
    ∧ (d < n → raw (st.getV d) →
      s.WritesLanes st (.vsetl d a lane) d (fun j => if j = lane then (st.getS a).extractLsb' 0 32 else (st.getV d).lane j))
    ∧ (a < n → s.Writes st (.vtos d a lane) d (if laneOn st.active lane then (A.lane lane).zeroExtend 64 else 0))
    ∧ (d < n → st.ty ∈ [Tag.i32, .n32, .raw] →
      s.WritesLanes st (.vprefix d a) d (fun j =>
        BitVec.ofNat 32 ((List.range j).countP (fun k => laneOn (st.getP a) k && laneOn st.active k))))
    ∧ (d < n → a < n → st.ty ∈ [Tag.i32, .n32, .raw] → raw A →
      s.WritesLanes st (.vmatch d a) d (fun j => maskOf (fun k => laneOn st.active k && A.lane k == A.lane j)))
    ∧ (a < n → ∃ w, s.WritesPred st (.vballot d a) d w ∧ ∀ j, j < 32 →
        laneOn w j = if laneOn st.active j then A.lane j != 0 else laneOn (st.getP d) j))
  ∧ (∀ (s : State) (st : Strand) (d a b : Nat), s.strand? = some st →
    let n := 8 * (s.headerOf st).vregs
    let t := asBits st.ty
    let w := elemBits t
    let raw (v : VReg) : Prop := v.tag = st.ty ∨ v.tag = .raw
    let elements (i : Instr) (f : Nat → Nat) : Prop :=
      ∃ v, s.WritesVec st i d v 0 ∧ v.tag = st.ty ∧ (∀ j, j < 32 → laneOn st.active j = false → v.lane j = (st.getV d).lane j)
        ∧ ∀ j, j < 32 → laneOn st.active j = true → ∀ k, k < elems t → elemAt t v (j * elems t + k) = f (j * elems t + k)
    isInt st.ty = true ∨ st.ty = .raw → d < n → a < n → raw (st.getV a) →
      (b < n → raw (st.getV b) →
        elements (.vshl d a b) (fun e => elemAt t (st.getV a) e * 2 ^ (elemAt t (st.getV b) e % w) % 2 ^ w)
        ∧ elements (.vshr d a b) (fun e => (intOf t (elemAt t (st.getV a) e) / 2 ^ (elemAt t (st.getV b) e % w) % 2 ^ w).toNat))
      ∧ elements (.vclz d a) (fun e => leadingZeros w (elemAt t (st.getV a) e))
      ∧ elements (.vpopc d a) (fun e => (List.range w).countP (bitAt (elemAt t (st.getV a) e))))

/-- R103: compares: active bits of the predicate from the lanes, inactive bits kept; on I32 and N32 lanes the order is that of the numbers and no
flag is raised. -/
def Obligations.VectorCompares : Prop :=
  ∀ (s : State) (st : Strand) (d a b : Nat), s.strand? = some st →
    let n := 8 * (s.headerOf st).vregs
    let ty := st.ty
    let A := st.getV a
    let B := st.getV b
    let sets (i : Instr) (c : Cmp) (rel : Int → Int → Bool) : Prop :=
      let r := c.apply ty (modeFlush st.mode) st.active A B (st.getP d)
      (s.Unmasked st r.2 → exec i s = .next (s.done (st.setP d r.1) r.2))
      ∧ (∀ j, j < 32 → laneOn r.1 j
            = if laneOn st.active j then (c.elem ty (modeFlush st.mode) (A.lane j).toNat (B.lane j).toNat).1 else laneOn (st.getP d) j)
      ∧ (ty ≠ .f32 → ∃ w, s.WritesPred st i d w
        ∧ ∀ j, j < 32 → laneOn st.active j = true → laneOn w j = rel (intOf ty (A.lane j).toNat) (intOf ty (B.lane j).toNat))
    a < n → b < n → ty ∈ [Tag.i32, .n32, .f32] → A.tag = ty → B.tag = ty →
      sets (.vceq d a b) .eq (fun x y => decide (x = y)) ∧ sets (.vcne d a b) .ne (fun x y => decide (x ≠ y))
      ∧ sets (.vclt d a b) .lt (fun x y => decide (x < y)) ∧ sets (.vcle d a b) .le (fun x y => decide (x ≤ y))

/-- R106, R107: reductions to a scalar and the inclusive scan: where the source carries the mode type they complete. An integer sum is the sum of
the active elements, clamped to the element type's range with SAT, an integer minimum or maximum the least or greatest of them; with no lane
active the results are those of R106's table. The scan's integer lanes are the inclusive sums of the active lanes, modulo 2^32 or clamped once;
inactive lanes are kept. Model's choice: log 50, on VSCAN. -/
def Obligations.VectorReductions : Prop :=
  ∀ (s : State) (st : Strand) (d a : Nat), s.strand? = some st →
    let n := 8 * (s.headerOf st).vregs
    let ty := st.ty
    let A := st.getV a
    let l := activeElems ty st.active A
    let red (i : Instr) (r : Red) : Prop :=
      let x := r.apply ty (envOf st.mode) st.active A
      s.Unmasked st x.2 → exec i s = .next (s.done (st.setS d x.1) x.2)
    a < n → A.tag = ty → isInt ty = true ∨ isFlt ty = true →
      red (.vredadd d a) .add ∧ red (.vredmin d a) .min ∧ red (.vredmax d a) .max
      ∧ ((s.headerOf st).trapen = 0 → ∀ i ∈ [Instr.vredadd d a, .vredmin d a, .vredmax d a],
          ∃ t st', s.Completes st i t st' ∧ st.SameRegs st' (some d) none ∧ s.StrandOnly t)
      ∧ (isInt ty = true →
        let sum : Int := (l.map (intOf ty)).sum
        s.Writes st (.vredadd d a) d (BitVec.ofInt 64 (if modeSat st.mode then max (intMin ty) (min (intMax ty) sum) else sum))
        ∧ (∃ m : Int, s.Writes st (.vredmin d a) d (BitVec.ofInt 64 m) ∧ (∀ e ∈ l, m ≤ intOf ty e)
          ∧ (l ≠ [] → m ∈ l.map (intOf ty)) ∧ (l = [] → m = intMax ty))
        ∧ ∃ m : Int, s.Writes st (.vredmax d a) d (BitVec.ofInt 64 m) ∧ (∀ e ∈ l, intOf ty e ≤ m)
          ∧ (l ≠ [] → m ∈ l.map (intOf ty)) ∧ (l = [] → m = intMin ty))
      ∧ (isFlt ty = true → st.active = 0 →
        s.Writes st (.vredadd d a) d 0 ∧ s.Writes st (.vredmin d a) d 0x7F800000 ∧ s.Writes st (.vredmax d a) d 0xFF800000)
      ∧ (d < n → ty ∈ [Tag.i32, .n32, .f32] →
        let r := scan ty (envOf st.mode) st.active A (st.getV d)
        (s.Unmasked st r.2 → s.WritesVec st (.vscan d a) d r.1 r.2)
        ∧ ((s.headerOf st).trapen = 0 → ∃ t st', s.Completes st (.vscan d a) t st' ∧ st.SameRegs st' none (some d) ∧ s.StrandOnly t)
        ∧ r.1.tag = ty ∧ (∀ j, j < 32 → laneOn st.active j = false → r.1.lane j = (st.getV d).lane j)
        ∧ (ty ≠ .f32 → r.2 = 0 ∧ ∀ j, j < 32 → laneOn st.active j = true →
            let sum : Int := (((lanesOf st.active).filter (· ≤ j)).map (fun k => intOf ty (A.lane k).toNat)).sum
            r.1.lane j = BitVec.ofInt 32 (if modeSat st.mode then max (intMin ty) (min (intMax ty) sum) else sum)))

/-- R97, R108–R112: conversions. VCVT, VPACK and VUNPK of suiting pairs complete, unless they raise an enabled flag: each element of an active
lane is the conversion of the source element that R109 names, of a PL register its first planes repacked or the elements of the block selected;
between integers it keeps the low bits or, with SAT, clamps. VCVTH writes the planes of R44's blocks and their scales; VRETAG keeps the bits of
active lanes under the new tag, and VGETTAG reads the tag. The flags raised are those of the elements of active lanes, none between planes, and of VCVTH
at most invalid. -/
def Obligations.VectorConversions : Prop :=
  ∀ (s : State) (st : Strand) (d a b sel : Nat) (tag : Tag), s.strand? = some st →
    let n := 8 * (s.headerOf st).vregs
    let A := st.getV a
    let B := st.getV b
    let src := A.tag
    let ty := st.ty
    let env := envOf st.mode
    let goes (i : Instr) (fl : IFlags) (p : VReg → Prop) : Prop := ∃ v, (s.Unmasked st fl → s.WritesVec st i d v fl)
      ∧ ((s.headerOf st).trapen = 0 → s.WritesVec st i d v fl) ∧ v.tag = ty
      ∧ (∀ j, j < 32 → laneOn st.active j = false → v.lane j = (st.getV d).lane j) ∧ p v
    let raised (f : Nat → FR) : IFlags := (List.range 32).foldl (fun acc j => if laneOn st.active j then
      (List.range (elems ty)).foldl (fun acc k => acc ||| (f (j * elems ty + k)).fl) acc else acc) 0
    let elements (i : Instr) (f : Nat → FR) : Prop := goes i (raised f) (fun v => ∀ j, j < 32 → laneOn st.active j = true → ∀ k, k < elems ty →
      elemAt ty v (j * elems ty + k) = (f (j * elems ty + k)).bits % 2 ^ elemBits ty)
    let lanes (f : Nat → Word) (v : VReg) : Prop := ∀ j, j < 32 → laneOn st.active j = true → v.lane j = f j
    (d < n → a < n → ty ≠ .raw → src ≠ .raw →
      ((plOf src).isNone = true →
        (cvtPair src ty = true → elements (.vcvt d a) (fun e => convert env src ty (elemAt src A e)))
        ∧ (b < n → B.tag = src → packPair src ty = true → elements (.vpack d a b) (fun e =>
            let n := 32 * elems src
            if e < n then convert env src ty (elemAt src A e)
            else if e < 2 * n then convert env src ty (elemAt src B (e - n)) else { bits := 0, fl := 0 }))
        ∧ (unpkPair src ty sel = true → elements (.vunpk d a sel) (fun e =>
            convert env src ty (elemAt src A (sel * 32 * elems ty + e))))
        ∧ (isInt src = true → isInt ty = true → ∀ x, x < 2 ^ elemBits src →
            ((convert env src ty x).bits % 2 ^ elemBits ty : Int)
              = (if modeSat st.mode then max (intMin ty) (min (intMax ty) (intOf src x)) else intOf src x) % 2 ^ elemBits ty))
      ∧ ∀ h p, src = .pl h p → 2 ≤ p → p ≤ 8 →
        (∀ q, ty = .pl h q → 2 ≤ q → q ≤ p → goes (.vcvt d a) 0 (lanes (fun j =>
            if j / q < plBlocks 32 p then A.lane (j / q * p + j % q) else 0)))
        ∧ (ty = .f32 → sel < plBlocks 32 p → goes (.vunpk d a sel) 0 (lanes (fun j =>
            BitVec.ofNat 32 (unpackPl p ((List.range p).map (fun k => A.lane (sel * p + k))) j).bits))))
    ∧ (d < n → a < n → isFlt src = true → ty = .pl false 8 ∨ ty = .pl true 8 →
      let q := quantRegister (ty == .pl true 8) src (modeFlush st.mode) st.active A
      let fl := q.foldl (fun acc x => acc ||| x.2.2) 0
      (∀ x ∈ q, x.2.2 = 0 ∨ x.2.2 = fNV) ∧ ∃ v sc, (s.Unmasked st fl → exec (.vcvth d a b) s = .next (s.done ((st.setV d v).setS b sc) fl))
        ∧ ((s.headerOf st).trapen = 0 → exec (.vcvth d a b) s = .next (s.done ((st.setV d v).setS b sc) fl)) ∧ v.tag = ty ∧ q.length = elems src
        ∧ (∀ j, j < 32 → v.lane j = if laneOn st.active j then ((q.getD (j / 8) ([], 0, 0)).1).getD (j % 8) 0 else (st.getV d).lane j)
        ∧ (∀ k, k < elems src → sc.extractLsb' (16 * k) 16 = (q.getD k ([], 0, 0)).2.1) ∧ sc.toNat < 2 ^ (16 * elems src))
    ∧ (d < n → a < n → ∃ v, s.WritesVec st (.vretag d a tag) d v 0 ∧ v.tag = tag
        ∧ ∀ j, j < 32 → v.lane j = if laneOn st.active j then A.lane j else (st.getV d).lane j)
    ∧ (a < n → s.Writes st (.vgettag d a) d (BitVec.ofNat 64 (tagCode src)))

/-- R64, R66: the frame of the element-wise vector instructions: where no trap is taken, nothing changes but vector register `d`, %flags and the pc;
a flag once set stays set. -/
def Obligations.VectorFrame : Prop :=
  ∀ (s t : State) (st st' : Strand) (d a b : Nat) (i : Instr),
    i ∈ [.vadd d a b, .vsub d a b, .vmul d a b, .vmad d a b, .vmin d a b, .vmax d a b, .vabs d a, .vneg d a, .vdiv d a b, .vrcp d a, .vrsq d a,
         .vsqrt d a, .vexp2 d a, .vlog2 d a, .vrnd d a, .vmulh d a b, .vand d a b, .vor d a b, .vxor d a b, .vnot d a, .vshl d a b, .vshr d a b,
         .vclz d a, .vpopc d a, .vsel d a b, .vbcst d a, .vsetl d a b, .vshuf d a b, .vlane d a b, .vprefix d a, .vmatch d a, .vscan d a,
         .vcvt d a, .vpack d a b, .vunpk d a b, .vretag d a .raw] →
    s.strand? = some st → exec i s = .next t → t.strand? = some st' → st'.pc = st.pc + 4 → st.trapvec.toNat ≠ st.pc + 4 → st.CanTrap →
    s.StrandOnly t ∧ s.SameMemory t ∧ st.OnlyVector d st' ∧ st'.flags &&& st.flags = st.flags

/-! ### Loads and stores (R7, R64, R68, R113–R123, R206–R214) -/

/-- R113, R114: LDB, LDH, LDW and LDD: an aligned address that hits the TLB and may be read gives its value, zero-extended, in s(d); no
other register changes, nor any other strand. A misaligned address traps ALIGN at issue, with the address. R7, R114, R207, R211: a load
of a line that no cache holds reads the bytes of home memory, little-endian. R118: PREF has no visible effect: it completes at any
address, misaligned or without translation, no register changes and no trap is taken; with cold caches no byte of memory changes. Model's
choices: log 1 (memory that nothing has written) and log 106 (the moments of an access of 8 bytes). -/
def Obligations.ScalarLoads : Prop :=
  (∀ (s : State) (st : Strand) (d a reuse : Nat) (off : BitVec 6), s.Plain st →
    let A := s.agentOf st
    let loads (i : Instr) (n : Nat) : Prop :=
      let x := st.getS a + BitVec.ofInt 64 (off.toInt * n)
      (x.toNat % n ≠ 0 → st.CanTrap → s.TrapsAtIssue st i 0x04 0 x)
      ∧ (x.toNat % n = 0 → s.tlbMiss A x.toNat n = false → s.loadFailure A st [x] lane0 n reuse = none →
        ∃ t st', s.Completes st i t st' ∧ st'.getS d = (if d = 0 then 0 else BitVec.ofNat 64 (s.loadLane A st x.toNat n reuse).1)
          ∧ st.SameRegs st' (some d) none ∧ st'.flags = st.flags ∧ ∀ k, k ≠ s.cur → t.strandAt k = s.strandAt k)
    loads (.ldb d a reuse off) 1 ∧ loads (.ldh d a reuse off) 2 ∧ loads (.ldw d a reuse off) 4 ∧ loads (.ldd d a reuse off) 8)
  ∧ (∀ (s : State) (a : Agent) (st : Strand) (va pa n reuse : Nat) (r w : Bool), n ∈ [1, 2, 4, 8] → va % n = 0 → pa % 128 = va % 128 →
    st.buffer = [] → s.check a true false va n = .ok pa r w → s.l1Line a.core a.asid (va / 128) = none → s.Uncached (pa / 128) →
    (∀ k, k < n → s.poisoned (pa + k) = false) →
    (s.loadLane a st va n reuse).1 = leNat (readBytes s.mem pa n))
  ∧ (∀ (s : State) (st : Strand) (a reuse : Nat) (off : BitVec 6), s.Plain st →
    let x := (st.getS a + BitVec.ofInt 64 (off.toInt * 4)) &&& 0xFFFFFFFFFFFFFFFC
    s.tlbMiss (s.agentOf st) x.toNat = false →
    ∃ t st', s.Completes st (.pref a reuse off) t st' ∧ st.SameRegs st' none none ∧ st'.flags = st.flags
      ∧ (∀ k, k ≠ s.cur → t.strandAt k = s.strandAt k) ∧ (s.Cold → s.SameMemory t))

/-- R113, R114: STB, STH, STW and STD: an aligned address that hits the TLB and may be written completes, with no register changed and no
other strand touched; a misaligned one traps ALIGN at issue. R121, R206, R211: the bytes a scalar store names, and no others, change as
the storing core sees them, and home memory does not change until a release: on a calm line (no UPDATE copy, no other alias), and, for
the bytes beside them, where no line has to give way in the L1. Model's choice: log 106. -/
def Obligations.ScalarStores : Prop :=
  (∀ (s : State) (st : Strand) (d a : Nat) (off : BitVec 6), s.Plain st →
    let A := s.agentOf st
    let stores (i : Instr) (n : Nat) : Prop :=
      let x := st.getS a + BitVec.ofInt 64 (off.toInt * n)
      (x.toNat % n ≠ 0 → st.CanTrap → s.TrapsAtIssue st i 0x04 0 x)
      ∧ (x.toNat % n = 0 → s.tlbMiss A x.toNat = false → s.storeFailure A [x] lane0 = none →
        ∃ t st', s.Completes st i t st' ∧ st.SameRegs st' none none ∧ st'.flags = st.flags
          ∧ (∀ k, k ≠ s.cur → t.strandAt k = s.strandAt k))
    stores (.stb d a off) 1 ∧ stores (.sth d a off) 2 ∧ stores (.stw d a off) 4 ∧ stores (.std d a off) 8)
  ∧ (∀ (s : State) (st : Strand) (d a pa : Nat) (off : BitVec 6) (r w : Bool), s.Plain st →
    let A := s.agentOf st
    let stores (i : Instr) (n : Nat) : Prop :=
      let x := (st.getS a + BitVec.ofInt 64 (off.toInt * n)).toNat
      x % n = 0 → s.tlbMiss A x = false → s.check A false true x = .ok pa r w → s.Calm A x pa →
      ∃ t, exec i s = .next t
        ∧ (∀ k, k < n → t.byteSeen A (x + k) (pa + k) = BitVec.ofNat 8 ((st.getS d).toNat / 256 ^ k))
        ∧ (s.Roomy A (x / 128) → t.mem = s.mem ∧
            ∀ va' pa', (va' < x ∨ x + n ≤ va') → (va' / 128 = x / 128 → pa' = pa / 128 * 128 + va' % 128) →
              t.byteSeen A va' pa' = s.byteSeen A va' pa')
    stores (.stb d a off) 1 ∧ stores (.sth d a off) 2 ∧ stores (.stw d a off) 4 ∧ stores (.std d a off) 8)

/-- R64, R113, R115, R116: VLD, VLDC, VST and VSTC: active lanes that are aligned, hit the TLB and may be accessed are loaded or stored; inactive
lanes of a destination keep their bits, and its tag is the mode type, even with no lane active. With cold caches every active lane reads the bytes of
home memory at its address, little-endian. A store of one active lane on a calm line changes
the bytes of that lane as the storing core sees them, and no others where no line has to give way. Model's choice: log 106. -/
def Obligations.VectorAccesses : Prop :=
  ∀ (s : State) (st : Strand) (d a b reuse : Nat) (r3 : Bool) (off : BitVec 6), s.Plain st →
    let A := s.agentOf st
    let n := 8 * (s.headerOf st).vregs
    let B := st.getV b
    let base := st.getS a
    let gath : List DWord := B.lanes.map (fun x => base + (if B.tag = .i32 then x.signExtend 64 else x.zeroExtend 64))
    let line : List DWord := (List.range 32).map (fun j => base + BitVec.ofInt 64 (off.toInt * 4) + BitVec.ofNat 64 (4 * j))
    let hits (xs : List DWord) (size : Nat) : Prop :=
      ∀ j ∈ lanesOf st.active, (xs.getD j 0).toNat % size = 0 ∧ s.tlbMiss A (xs.getD j 0).toNat = false
    let loads (i : Instr) (xs : List DWord) (size reuse : Nat) : Prop :=
      hits xs size → s.loadFailure A st xs st.active size reuse = none →
      ∃ t st', s.Completes st i t st' ∧ (st'.getV d).tag = st.ty ∧ st.SameRegs st' none (some d)
        ∧ (∀ j, j < 32 → (st'.getV d).lane j
            = if laneOn st.active j then BitVec.ofNat 32 ((s.loadLanes A st xs st.active size reuse).1 j) else (st.getV d).lane j)
        ∧ (s.Cold → ∀ j pa r w, j < 32 → laneOn st.active j = true →
          let x := (xs.getD j 0).toNat
          s.check A true false x size = .ok pa r w → pa % 128 = x % 128 → (∀ k, k < size → s.poisoned (pa + k) = false) →
          (∀ i ∈ lanesOf st.active, (xs.getD i 0).toNat / 128 = x / 128 →
            ∃ pi, s.check A true false (xs.getD i 0).toNat size = .ok pi r w ∧ pi / 128 = pa / 128) →
          (st'.getV d).lane j = BitVec.ofNat 32 (leNat (readBytes s.mem pa size)))
    let stores (i : Instr) (xs : List DWord) (size : Nat) : Prop :=
      hits xs size → s.storeFailure A xs st.active = none →
      ∃ t st', s.Completes st i t st' ∧ st.SameRegs st' none none
        ∧ ∀ j pa r w, lanesOf st.active = [j] →
          let x := (xs.getD j 0).toNat
          s.check A false true x = .ok pa r w → s.Calm A x pa →
            (∀ k, k < size → t.byteSeen A (x + k) (pa + k) = BitVec.ofNat 8 (((st.getV d).lanes.getD j 0).toNat / 256 ^ k))
            ∧ (s.Roomy A (x / 128) → t.mem = s.mem ∧
                ∀ va' pa', (va' < x ∨ x + size ≤ va') → (va' / 128 = x / 128 → pa' = pa / 128 * 128 + va' % 128) →
                  t.byteSeen A va' pa' = s.byteSeen A va' pa')
    d < n →
      (b < n → B.tag ∈ [Tag.i32, .n32, .raw] →
        loads (.vld d a r3 b) gath (elemBits st.ty / 8) (if r3 then 3 else 0)
        ∧ ((st.getV d).tag = st.ty ∨ (st.getV d).tag = .raw → stores (.vst d a b) gath (elemBits st.ty / 8)))
      ∧ loads (.vldc d a reuse off) line 4 reuse
      ∧ ((st.getV d).tag = st.ty ∨ (st.getV d).tag = .raw → stores (.vstc d a off) line 4)

/-- R119, R120: scratchpad loads of the local form read the team's working plane, and scratchpad stores of one lane write it: no byte of memory and
no other team changes, and no other byte of the team's scratchpad. Scratchpad that nothing has written: log 2. Poison: log 39. -/
def Obligations.ScratchpadAccesses : Prop :=
  ∀ (s : State) (st : Strand) (d a b : Nat) (imm : BitVec 8) (tm : Team), s.Plain st → cfind s.teams st.team = some tm →
    let n := 8 * (s.headerOf st).vregs
    let B := st.getV b
    let gath : List DWord := B.lanes.map (fun x => st.getS a + x.zeroExtend 64)
    let line : List DWord := (List.range 32).map (fun j => st.getS a + BitVec.ofInt 64 (imm.toInt * 4) + BitVec.ofNat 64 (4 * j))
    let here (xs : List DWord) (size : Nat) : Prop := ∀ j ∈ lanesOf st.active,
      (xs.getD j 0).toNat % size = 0 ∧ (xs.getD j 0).toNat < 2 ^ 17 ∧ (xs.getD j 0).toNat < (s.headerOf st).spbytes
    let loads (i : Instr) (xs : List DWord) (size : Nat) : Prop :=
      here xs size → tm.sp.work.poison = [] →
      ∃ t st', s.Completes st i t st' ∧ (st'.getV d).tag = st.ty ∧ st.SameRegs st' none (some d) ∧ s.StrandOnly t
        ∧ ∀ j, j < 32 → (st'.getV d).lane j = if laneOn st.active j
            then BitVec.ofNat 32 (leNat (readBytes tm.sp.work.bytes (xs.getD j 0).toNat size)) else (st.getV d).lane j
    let stores (i : Instr) (xs : List DWord) (size : Nat) : Prop :=
      here xs size → ∀ j, lanesOf st.active = [j] →
      ∃ t st' tm', s.Completes st i t st' ∧ st.SameRegs st' none none ∧ s.SameMemory t ∧ cfind t.teams st.team = some tm'
        ∧ (∀ k, k ≠ st.team → cfind t.teams k = cfind s.teams k)
        ∧ ∀ x, readByte tm'.sp.work.bytes x = if (xs.getD j 0).toNat ≤ x ∧ x < (xs.getD j 0).toNat + size
            then BitVec.ofNat 8 (((st.getV d).lanes.getD j 0).toNat / 256 ^ (x - (xs.getD j 0).toNat)) else readByte tm.sp.work.bytes x
    d < n →
      (b < n → B.tag ∈ [Tag.i32, .n32, .raw] →
        loads (.spld d a b) gath (elemBits st.ty / 8)
        ∧ ((st.getV d).tag = st.ty ∨ (st.getV d).tag = .raw → stores (.spst d a b) gath (elemBits st.ty / 8)))
      ∧ loads (.spldc d a imm) line 4
      ∧ ((st.getV d).tag = st.ty ∨ (st.getV d).tag = .raw → stores (.spstc d a imm) line 4)

/-- R68: a memory instruction that misses at the TLB takes the next entry of the operand log with its pc, its captured request and the mode, and
counts as issued; one that finds four entries waits. Shown of the scalar loads. -/
def Obligations.OperandLogTakesMisses : Prop :=
  ∀ (s : State) (st : Strand) (d a reuse : Nat) (off : BitVec 6), s.strand? = some st →
    let logs (i : Instr) (n : Nat) : Prop :=
      let x := st.getS a + BitVec.ofInt 64 (off.toInt * n)
      x.toNat % n = 0 → (st.log ≠ [] ∨ s.tlbMiss (s.agentOf st) x.toNat n = true) →
      ∃ t st', exec i s = .next t ∧ t.strand? = some st' ∧ s.StrandOnly t ∧ s.SameMemory t
        ∧ (st.log.length < 4 → st'.pc = st.pc + 4 ∧ st'.log = st.log ++ [{ pc := st.pc, req := .load d n x reuse, mode := st.mode }])
        ∧ (4 ≤ st.log.length → st'.pc = st.pc ∧ st'.log = st.log ∧ st'.wait = .logFull)
        ∧ st.SameRegs st' none none
    logs (.ldb d a reuse off) 1 ∧ logs (.ldh d a reuse off) 2 ∧ logs (.ldw d a reuse off) 4 ∧ logs (.ldd d a reuse off) 8

/-! ### Atomics and ordering (R212–R218, R223–R227) -/

/-- R215, R223–R225: a returning atomic of one active lane on a word that no cache holds: the lane receives the old word, the home holds
the new one, no other byte of memory changes where no line has to give way in the home's L2, and the destination takes the mode type as
its tag. R223: the scratchpad atomics of one active lane of the local form. Model's choice: log 15, on atomics homed at peers. -/
def Obligations.AtomicResults : Prop :=
  (∀ (s : State) (st : Strand) (d a b j pa : Nat) (r w : Bool), s.Plain st → (s.headerOf st).trapen = 0 → st.peerDone = [] →
    let A := s.agentOf st
    let n := 8 * (s.headerOf st).vregs
    let ty := st.ty
    let B := st.getV b
    let X := st.getV (b + 1)
    let x := (st.getS a + (if B.tag = .i32 then (B.lane j).signExtend 64 else (B.lane j).zeroExtend 64)).toNat
    let old := s.homeWord (pa / 4)
    let v := X.lane j
    let gives (i : Instr) (new : Word) : Prop := ∃ t st', s.Completes st i t st' ∧ (st'.getV d).tag = ty ∧ st.SameRegs st' none (some d)
      ∧ (st'.getV d).lane j = old ∧ (∀ k, k < 32 → k ≠ j → (st'.getV d).lane k = (st.getV d).lane k)
      ∧ t.homeWord (pa / 4) = new ∧ (s.RoomyL2 pa → ∀ y, y / 4 ≠ pa / 4 → readByte t.mem y = readByte s.mem y)
    lanesOf st.active = [j] → d < n → b + 1 < n → B.lanes.length = 32 → X.lanes.length = 32 → B.tag ∈ [Tag.i32, .n32, .raw] →
    (X.tag = ty ∨ X.tag = .raw) →
    x % 4 = 0 → pa % 4 = 0 → s.tlbMiss A x = false → s.checkAtomic A x = .ok pa r w → s.poisoned pa = false → s.Uncached (pa / 128) →
      (ty = .i32 ∨ ty = .n32 →
        gives (.aadd d a b) (old + v)
        ∧ gives (.amin d a b) (if ty = .i32 then (if old.sle v then old else v) else (if old.ule v then old else v))
        ∧ gives (.amax d a b) (if ty = .i32 then (if v.sle old then old else v) else (if v.ule old then old else v)))
      ∧ (ty ∈ [Tag.i32, .n32, .raw] → gives (.aand d a b) (old &&& v) ∧ gives (.aor d a b) (old ||| v) ∧ gives (.axor d a b) (old ^^^ v))
      ∧ (ty ∈ [Tag.i32, .n32, .f32, .raw] → gives (.axch d a b) v
        ∧ ((st.getV d).tag = ty ∨ (st.getV d).tag = .raw → (st.getV d).lanes.length = 32 →
            gives (.acas d a b) (if (st.getV d).lane j = old then v else old)))
      ∧ (ty = .f32 → gives (.afadd d a b)
          (BitVec.ofNat 32 (fmtF32.add (envRne false) (fmtF32.unpack false old.toNat) (fmtF32.unpack false v.toNat)).bits)))
  ∧ (∀ (s : State) (st : Strand) (d a b j : Nat) (tm : Team), s.Plain st → cfind s.teams st.team = some tm →
    let n := 8 * (s.headerOf st).vregs
    let ty := st.ty
    let B := st.getV b
    let X := st.getV (b + 1)
    let x := (st.getS a + (B.lane j).zeroExtend 64).toNat
    let old := readWord tm.sp.work.bytes x
    let gives (i : Instr) (new : Word) : Prop := ∃ t st' tm', s.Completes st i t st' ∧ (st'.getV d).tag = ty
      ∧ (st'.getV d).lane j = old ∧ st.SameRegs st' none (some d) ∧ s.SameMemory t ∧ cfind t.teams st.team = some tm'
      ∧ readWord tm'.sp.work.bytes x = new ∧ (∀ y, (y < x ∨ x + 4 ≤ y) → readByte tm'.sp.work.bytes y = readByte tm.sp.work.bytes y)
    lanesOf st.active = [j] → d < n → b + 1 < n → B.lanes.length = 32 → X.lanes.length = 32 → B.tag ∈ [Tag.i32, .n32, .raw] →
    (X.tag = ty ∨ X.tag = .raw) → x % 4 = 0 → x < 2 ^ 17 → x < (s.headerOf st).spbytes → tm.sp.work.poison = [] →
      (ty = .i32 ∨ ty = .n32 → gives (.spaadd d a b) (old + X.lane j))
      ∧ (ty ∈ [Tag.i32, .n32, .f32, .raw] → (st.getV d).tag = ty ∨ (st.getV d).tag = .raw → (st.getV d).lanes.length = 32 →
          gives (.spacas d a b) (if (st.getV d).lane j = old then X.lane j else old)))

/-- R226: a reduction returns nothing: no register changes, and its partial stands in the core's L1 as UPDATE; home memory does not change. Model's choices: logs 20 and 110. -/
def Obligations.ReductionResults : Prop :=
  ∀ (s : State) (st : Strand) (a b j pa : Nat) (r w : Bool), s.Plain st →
    let A := s.agentOf st
    let n := 8 * (s.headerOf st).vregs
    let B := st.getV b
    let X := st.getV (b + 1)
    let x := (st.getS a + (if B.tag = .i32 then (B.lane j).signExtend 64 else (B.lane j).zeroExtend 64)).toNat
    let adds (i : Instr) (fl : Bool) : Prop := ∃ t st' l, s.Completes st i t st' ∧ st.SameRegs st' none none ∧ s.SameMemory t
      ∧ t.l1Line A.core A.asid (x / 128) = some l
      ∧ cfind l.words (x / 4 % 32) = some { st := .update fl, data := addPartial fl 0 (X.lane j), poison := false, owner := 0, report := none }
    lanesOf st.active = [j] → b + 1 < n → B.lanes.length = 32 → X.lanes.length = 32 → B.tag ∈ [Tag.i32, .n32, .raw] →
    (X.tag = st.ty ∨ X.tag = .raw) →
    x % 4 = 0 → s.tlbMiss A x = false → s.checkAtomic A x = .ok pa r w → s.Cold →
      (st.ty = .i32 ∨ st.ty = .n32 → adds (.redadd a b) false) ∧ (st.ty = .f32 → adds (.redfadd a b) true)

/-- R213, R214, R217: FENCE: after a release at cluster scope or wider, which waits for what the core has written at peers, the core's L1
holds no DIRTY word, and what it held DIRTY stands below the cluster's L1s, and at die scope or wider in home memory (of a line held
under one alias and not as UPDATE); after an acquire it holds no VALID word; acqrel does both. No register changes. R218: LDACQ of a line
that no cache holds reads home memory, and leaves no VALID word in the core's L1; STREL at die scope or wider, with cold caches, leaves
its bytes in home memory and every other byte as it was. A misaligned address traps ALIGN. Model's choices: logs 46 and 80. -/
def Obligations.OrderingResults : Prop :=
  (∀ (s : State) (st : Strand) (scope : Scope) (kind : FenceKind), s.Plain st →
    let core := (s.team st.team).core
    kind = .acq ∨ scope ∈ [Scope.strand, .team] ∨ s.Acked st →
    ∃ t st', s.Completes st (.fence scope kind) t st' ∧ st.SameRegs st' none none
      ∧ (kind ≠ .acq → scope ≠ .strand → scope ≠ .team → ∀ l ∈ (t.core core).l1, ∀ e ∈ l.words, ∀ m, e.2.st ≠ .dirty m)
      ∧ (kind ≠ .rel → ∀ l ∈ (t.core core).l1, ∀ e ∈ l.words, e.2.st ≠ .valid)
      ∧ (kind ≠ .acq → scope ≠ .strand → scope ≠ .team → ∀ l ∈ (s.core core).l1, l.peer = none → hasUpdate l = false →
          (∀ y ∈ (s.core core).l1, y.peer = none → y.pline = l.pline → y = l) → (l.words.map Prod.fst).Nodup → (∀ e ∈ l.words, e.1 < 32) →
          ∀ w x m b, (w, x) ∈ l.words → x.st = .dirty m → b < 4 → m.getLsbD b = true →
            (t.belowWord (clusterOf core) (32 * l.pline + w)).extractLsb' (8 * b) 8 = x.data.extractLsb' (8 * b) 8
            ∧ (scope ≠ .cluster → readByte t.mem (4 * (32 * l.pline + w) + b) = x.data.extractLsb' (8 * b) 8)))
  ∧ (∀ (s : State) (st : Strand) (d a size pa : Nat) (scope : Scope) (r w : Bool), s.Plain st → size < 4 →
    let A := s.agentOf st
    let x := st.getS a
    let n := 2 ^ size
    (x.toNat % n ≠ 0 → st.CanTrap → s.TrapsAtIssue st (.ldacq d a size scope) 0x04 0 x ∧ s.TrapsAtIssue st (.strel d a size scope) 0x04 0 x)
    ∧ (x.toNat % n = 0 → pa % 128 = x.toNat % 128 → s.Cold →
      (s.tlbMiss A x.toNat n = false → s.check A true false x.toNat n = .ok pa r w → (∀ k, k < n → s.poisoned (pa + k) = false) →
        ∃ t st', s.Completes st (.ldacq d a size scope) t st' ∧ st.SameRegs st' (some d) none
          ∧ st'.getS d = (if d = 0 then 0 else BitVec.ofNat 64 (leNat (readBytes s.mem pa n))) ∧ s.SameMemory t
          ∧ ∀ l ∈ (t.core A.core).l1, ∀ e ∈ l.words, e.2.st ≠ .valid)
      ∧ (s.tlbMiss A x.toNat = false → s.check A false true x.toNat = .ok pa r w → scope ∉ [Scope.strand, .team, .cluster] → s.Acked st →
        ∃ t st', s.Completes st (.strel d a size scope) t st' ∧ st.SameRegs st' none none
          ∧ ∀ y, readByte t.mem y = if pa ≤ y ∧ y < pa + n then BitVec.ofNat 8 ((st.getS d).toNat / 256 ^ (y - pa)) else readByte s.mem y)))

/-! ### Barriers, knits, circular buffers, queues, launches, signals and transfers (R145, R150, R220–R222, R228–R231, R254–R257) -/

/-- R228, R230: ARRIVE counts the strand in the phase, or completes it when every participant has arrived or is gone; AWAIT of a completed phase
gives 0, or 1 where the barrier was abandoned; MEET does both where its arrival completes the phase. A number at or above the declared count traps
ILLEGAL. (An arrival releases: what the core has written at peers is acknowledged.) Model's choice: log 51. -/
def Obligations.BarrierResults : Prop :=
  ∀ (s : State) (st : Strand) (d n : Nat) (lv : BarLevel), s.Plain st → st.run = .running → st.replica = 0 →
    (cfind s.teams st.team).isSome → (cfind s.gangs (s.team st.team).gang).isSome → (cfind s.launches (s.team st.team).launch).isSome →
    (s.strands.map Prod.fst).Nodup →
    let b := s.barrier st lv n
    let arrived : Prop := cfind st.arrivals (barKey lv n) = some (b.phase + 1)
    let last : Prop := s.barTotal st lv b ≤ b.count + 1 + s.barGone st lv n b + b.gone
    let done (st' : Strand) : Prop := st'.getS d = if d = 0 then 0 else if b.abandoned then 1 else 0
    (barCount (s.headerOf st) lv ≤ n → st.CanTrap →
      s.TrapsAtIssue st (.arrive lv n) 0x01 0 0 ∧ s.TrapsAtIssue st (.await d lv n) 0x01 0 0 ∧ s.TrapsAtIssue st (.meet d lv n) 0x01 0 0)
    ∧ (n < barCount (s.headerOf st) lv → ¬ arrived → lv = .team ∨ s.Acked st →
      ∃ t st', s.Completes st (.arrive lv n) t st' ∧ st.SameRegs st' none none
        ∧ cfind st'.arrivals (barKey lv n) = some (b.phase + 1)
        ∧ (last → (t.barrier st lv n).phase = b.phase + 1 ∧ (t.barrier st lv n).count = 0)
        ∧ (¬ last → (t.barrier st lv n).phase = b.phase ∧ (t.barrier st lv n).count = b.count + 1))
    ∧ (n < barCount (s.headerOf st) lv → s.phaseDone st lv n = true →
      ∃ t st', s.Completes st (.await d lv n) t st' ∧ st.SameRegs st' (some d) none ∧ done st')
    ∧ (n < barCount (s.headerOf st) lv → s.phaseDone st lv n = false →
      ∃ t st', exec (.await d lv n) s = .next t ∧ t.strand? = some st' ∧ st'.wait = .barrier ∧ st'.pc = st.pc ∧ st.SameRegs st' none none)
    ∧ (n < barCount (s.headerOf st) lv → ¬ arrived → cfind st.arrivals (256 + barKey lv n) = none → last → lv = .team ∨ s.Acked st →
      ∃ t st', s.Completes st (.meet d lv n) t st' ∧ st.SameRegs st' (some d) none ∧ done st' ∧ (t.barrier st lv n).phase = b.phase + 1)

/-- R220–R222: KINFO gives the handle, the member index, the member mask and the member count of the team's knit; KJOIN of an entry that is not
taken, and of a knit with 32 members, gives −1, of the team's own knit its member index, and of another knit of its cluster, generation, partition and
world with a free place the lowest free index, where the team then stands; KLEAVE of a knit with other members leaves the team alone in an entry of its
own. (KJOIN and KLEAVE release: what the core has written at peers is acknowledged; no other strand of the team has a remote access in its log.) -/
def Obligations.KnitResults : Prop :=
  ∀ (s : State) (st : Strand) (d a : Nat) (k : Knit) (tm : Team), s.Plain st → cfind s.teams st.team = some tm →
    let own := s.knitOf st.team
    let h := (st.getS a).toNat
    let cl := h / 2 ^ 12 % 8
    let n := h % 2 ^ 12
    let l := s.launchOf st
    let gives (i : Instr) (v : DWord) (p : State → Prop) : Prop :=
      ∃ t st', s.Completes st i t st' ∧ st'.getS d = (if d = 0 then 0 else v) ∧ st.SameRegs st' (some d) none ∧ p t
    gives (.kinfo d 0) (BitVec.ofNat 64 (own.gen.toNat * 2 ^ 32 + tm.knitCluster * 2 ^ 12 + tm.knit)) (s.SameMemory ·)
    ∧ gives (.kinfo d 1) (BitVec.ofNat 64 tm.knitMember) (s.SameMemory ·)
    ∧ gives (.kinfo d 2) (BitVec.ofNat 64 ((own.members.map (fun e => 2 ^ e.1)).sum)) (s.SameMemory ·)
    ∧ gives (.kinfo d 3) (BitVec.ofNat 64 own.members.length) (s.SameMemory ·)
    ∧ (h / 2 ^ 15 % 2 ^ 17 = 0 → cfind (s.cluster cl).knits n = none → s.Acked st → gives (.kjoin d a) 0xFFFFFFFFFFFFFFFF (s.SameMemory ·))
    ∧ (h / 2 ^ 15 % 2 ^ 17 ≠ 0 → st.CanTrap → s.Acked st → ∃ t st', exec (.kjoin d a) s = .next t ∧ t.strand? = some st' ∧ st'.active? = true
        ∧ st'.pc = st.trapvec.toNat)
    ∧ (h / 2 ^ 15 % 2 ^ 17 = 0 → cfind (s.cluster cl).knits n = some k → s.Acked st →
        (k.gen.toNat ≠ h / 2 ^ 32 ∨ cl ≠ clusterOf tm.core ∨ k.used = false ∨ k.part ≠ l.part ∨ k.secure ≠ l.secure ∨ 32 ≤ k.members.length →
            gives (.kjoin d a) 0xFFFFFFFFFFFFFFFF (s.SameMemory ·))
        ∧ (k.gen.toNat = h / 2 ^ 32 → cl = clusterOf tm.core → k.used = true → k.part = l.part → k.secure = l.secure → k.members.length < 32 →
          (tm.knit = n → tm.knitCluster = cl → gives (.kjoin d a) (BitVec.ofNat 64 tm.knitMember) (s.SameMemory ·))
          ∧ (¬ (tm.knit = n ∧ tm.knitCluster = cl) → s.remoteLogged s.cur st.team = false →
              ∀ j, j < 32 → cfind k.members j = none → (∀ i, i < j → (cfind k.members i).isSome) →
              gives (.kjoin d a) (BitVec.ofNat 64 j) (fun t =>
                (t.team st.team).knit = n ∧ (t.team st.team).knitMember = j ∧ cfind (t.knitOf st.team).members j = some st.team))))
    ∧ (1 < own.members.length → s.Acked st → s.remoteLogged s.cur st.team = false → ∃ t st', s.Completes st .kleave t st' ∧ st.SameRegs st' none none
        ∧ (t.knitOf st.team).members = [(0, st.team)] ∧ (t.team st.team).knitMember = 0 ∧ (t.knitOf st.team).part = l.part)
    ∧ (own.members.length ≤ 1 → s.Acked st → exec .kleave s = .next (s.retire s.cur .kleave .none 0))

/-- R150, R151: the circular-buffer instructions of a latched ring: CBWAIT gives the strand's slot where one is ready, CBPOP and CBPUSH move the
counters by one slot and step the strand's index around the ring, CBINFO reads the state word; a number at or above CBUFS traps ILLEGAL. -/
def Obligations.CircularBufferResults : Prop :=
  ∀ (s : State) (st : Strand) (d n : Nat), s.Plain st →
    ((s.headerOf st).cbufs ≤ n → st.CanTrap → ∀ i ∈ [Instr.cbwait d n, .cbpop n, .cbpush n, .cbinfo d n], s.TrapsAtIssue st i 0x01 0 0)
    ∧ ∀ (tm : Team) (b : CBuf), cfind s.teams st.team = some tm → cfind tm.cbs n = some b → n < (s.headerOf st).cbufs → b.latched = true →
    let slot : DWord := BitVec.ofNat 64 (b.base + b.sidx * (32 * 2 ^ b.slotLog))
    let moves (i : Instr) (b' : CBuf) : Prop := ∃ t st', s.Completes st i t st' ∧ st.SameRegs st' none none
      ∧ t.cbuf st.team n = b' ∧ ∀ m, m ≠ n → t.cbuf st.team m = s.cbuf st.team m
    ((b.inbound = true → b.filled ≠ 0) → (b.inbound = false → b.free ≠ 0) →
      ∃ t st', s.Completes st (.cbwait d n) t st' ∧ st'.getS d = (if d = 0 then 0 else slot) ∧ st.SameRegs st' (some d) none
        ∧ t.cbuf st.team n = b)
    ∧ (b.inbound = true → b.filled ≠ 0 →
      moves (.cbpop n) { b with filled := b.filled - 1, free := b.free + 1, sidx := (b.sidx + 1) % b.slots })
    ∧ (b.inbound = false → b.free ≠ 0 →
      moves (.cbpush n) { b with free := b.free - 1, filled := b.filled + 1, sidx := (b.sidx + 1) % b.slots })
    ∧ (∃ t st', s.Completes st (.cbinfo d n) t st' ∧ st'.getS d = (if d = 0 then 0 else b.word) ∧ st.SameRegs st' (some d) none ∧ s.SameMemory t)

/-- R256, R257: QPUSH appends the active lanes to a gang queue of at most 64 elements and QPOP takes them from its head, in ascending lane order;
the counts of the launch's range rise with them. A strand that does not find room, or elements, waits. (QPUSH releases: what the core has written
at peers is acknowledged.) Model's choice: log 27. -/
def Obligations.GangQueues : Prop :=
  ∀ (s : State) (st : Strand) (d n : Nat) (g : Gang) (l : Launch) (q : GangQueue), s.Plain st →
    cfind s.gangs (s.team st.team).gang = some g → cfind s.launches (s.team st.team).launch = some l → s.gangQueue st n = q →
    q.pushers = [] → q.poppers = [] → l.terminated = [] → d < 8 * l.header.vregs → (∀ e ∈ q.elems, e.poison = false) →
    let lanes := lanesOf st.active
    let k := lanes.length
    let die := dieOf (s.coreOf st)
    (0 < k → q.elems.length + k ≤ 64 → s.Acked st →
      ∃ t st', s.Completes st (.qpush d n) t st' ∧ st.SameRegs st' none none
        ∧ (t.gangQueue st n).elems = q.elems ++ lanes.map (fun j => { word := (st.getV d).lane j, poison := false })
        ∧ cget 0 (t.launchOf st).sent die = cget 0 l.sent die + k)
    ∧ (0 < k → k ≤ q.elems.length →
      ∃ t st', s.Completes st (.qpop d n) t st' ∧ st.SameRegs st' none (some d) ∧ (st'.getV d).tag = .raw
        ∧ (t.gangQueue st n).elems = q.elems.drop k
        ∧ (∀ i j : Nat, lanes[i]? = some j → ((q.elems[i]?).map (fun (e : QElem) => e.word)) = some ((st'.getV d).lane j))
        ∧ (∀ j, j < 32 → laneOn st.active j = false → (st'.getV d).lane j = (st.getV d).lane j)
        ∧ cget 0 (t.launchOf st).received die = cget 0 l.received die + k)
    ∧ (64 < q.elems.length + k → 0 < k → s.Acked st → ∃ t st', exec (.qpush d n) s = .next t ∧ t.strand? = some st' ∧ st'.wait = .qpush ∧ st'.pc = st.pc
        ∧ (t.gangQueue st n).elems = q.elems)
    ∧ (q.elems.length < k → ∃ t st', exec (.qpop d n) s = .next t ∧ t.strand? = some st' ∧ st'.wait = .qpop ∧ st'.pc = st.pc
        ∧ (t.gangQueue st n).elems = q.elems)

/-- R213, R254, R255: LAUNCH reads a 64-byte packet and enters it as a task: result 0, and one task more, whose parent is the launch. A malformed
packet gives 1. (Cold caches; a packet without predecessors' breach; fewer than 256 tasks outstanding; no successor record at a peer.) SIGNAL adds s(b) to the 8-byte word at s(a)
at its home; no other byte of memory changes. Both release at pkg scope: what the core has written at peers is acknowledged. A misaligned address traps
ALIGN. Model's choices: logs 46, 60 and 111. -/
def Obligations.LaunchAndSignal : Prop :=
  ∀ (s : State) (st : Strand) (d a b pa : Nat) (r w : Bool), s.Plain st →
    let A := s.agentOf st
    let x := st.getS a
    let l := s.launchOf st
    let p : BitVec 512 := BitVec.ofNat 512 (leNat (readBytes s.mem pa 64))
    (x.toNat % 64 ≠ 0 → st.CanTrap → s.TrapsAtIssue st (.launch d a) 0x04 0 x)
    ∧ (x.toNat % 8 ≠ 0 → st.CanTrap → s.TrapsAtIssue st (.signal a b) 0x04 0 x)
    ∧ (x.toNat % 64 = 0 → s.tlbMiss A x.toNat = false → s.check A true false x.toNat = .ok pa r w → pa % 128 = x.toNat % 128 →
      (∀ k, k < 16 → s.check A true false (x.toNat + 4 * k) = .ok (pa + 4 * k) r w) → (∀ k, k < 64 → s.poisoned (pa + k) = false) → s.Cold →
      s.hub.tearing.contains (l.part, l.asid) = false → st.copied = none → s.Acked st →
      let good : Bool := p.getLsbD 0 && !(p.getLsbD 1) && [1, 4, 5].contains (pktType p) && pktOk p
      (good = false → ∃ t st', s.Completes st (.launch d a) t st' ∧ st'.getS d = (if d = 0 then 0 else 1) ∧ t.tasks = s.tasks
        ∧ st.SameRegs st' (some d) none)
      ∧ (good = true → s.taskBreaks l.queue p = false → s.children (s.team st.team).launch < 256 →
        (s.hubDone (3 * s.cur + 2)).packetAsks (3 * s.cur + 2) l.queue p = none →
        ∃ t st', s.Completes st (.launch d a) t st' ∧ st'.getS d = 0 ∧ st.SameRegs st' (some d) none
          ∧ ∃ id tk, cfind t.tasks id = some tk ∧ tk.packet = p ∧ tk.queue = l.queue ∧ tk.parent = some (s.team st.team).launch))
    ∧ (x.toNat % 8 = 0 → s.tlbMiss A x.toNat = false → s.check A false true x.toNat = .ok pa r w → pa % 8 = 0 → s.Cold →
      (∀ k, k < 8 → s.poisoned (pa + k) = false) → s.Acked st →
      ∃ t st', s.Completes st (.signal a b) t st' ∧ st.SameRegs st' none none
        ∧ leNat (readBytes t.mem pa 8) = (leNat (readBytes s.mem pa 8) + (st.getS b).toNat) % 2 ^ 64
        ∧ ∀ y, (y < pa ∨ pa + 8 ≤ y) → readByte t.mem y = readByte s.mem y)

/-- R137, R144, R145: XFER of a valid descriptor gives the team's next id and queues the transfer; XSTAT gives the status of an id, 7 for one that is
not in the table; XWAIT gives it once the transfer has ended, and releases its entry. Model's choice: log 22. -/
def Obligations.TransferInstructions : Prop :=
  ∀ (s : State) (st : Strand) (d a : Nat) (tm : Team) (x : Xfer), s.Plain st → cfind s.teams st.team = some tm →
    let addr := st.getS a
    (addr.toNat % 64 ≠ 0 → st.CanTrap → s.TrapsAtIssue st (.xfer d a) 0x04 0 addr)
    ∧ (addr.toNat % 64 = 0 → addr.toNat < 2 ^ 17 → addr.toNat < (s.headerOf st).spbytes → tm.sp.work.poison = [] →
        s.xferCheck st.team false false (s.readXdesc st addr) = .ok → st.copied = none → s.Acked st → s.xferOf st.team tm.nextXfer = none →
      ∃ t st' y, s.Completes st (.xfer d a) t st' ∧ st'.getS d = (if d = 0 then 0 else BitVec.ofNat 64 tm.nextXfer)
        ∧ st.SameRegs st' (some d) none ∧ t.xferOf st.team tm.nextXfer = some y ∧ y.state = .queued ∧ y.desc = s.readXdesc st addr)
    ∧ (s.xferOf st.team addr.toNat = none →
        (∃ t st', s.Completes st (.xstat d a) t st' ∧ st'.getS d = (if d = 0 then 0 else 7) ∧ st.SameRegs st' (some d) none)
        ∧ ∃ t st', s.Completes st (.xwait d a) t st' ∧ st'.getS d = (if d = 0 then 0 else 7) ∧ st.SameRegs st' (some d) none)
    ∧ (s.xferOf st.team addr.toNat = some x →
        (∃ t st', s.Completes st (.xstat d a) t st' ∧ st'.getS d = (if d = 0 then 0 else x.status) ∧ s.SameMemory t)
        ∧ (x.ended = true → ∃ t st', s.Completes st (.xwait d a) t st' ∧ st'.getS d = (if d = 0 then 0 else x.status)
            ∧ st.SameRegs st' (some d) none ∧ t.xferOf st.team addr.toNat = none)
        ∧ (x.ended = false → ∃ t st', exec (.xwait d a) s = .next t ∧ t.strand? = some st' ∧ st'.wait = .xwait ∧ st'.pc = st.pc))

/-! ### Where forms complete -/

/-- R57, R64, R66, R97, R106–R116, R120, R145, R150, R198, R213–R218, R220–R223, R226, R230, R256: where the reductions, the scan, the
conversions, the accesses of lanes, the scratchpad atomics, the memory reductions, the ordered accesses, and the instructions of barriers, knits, circular
buffers and queues complete: outside a rope, no flag being enabled to trap, with declared registers, accepted tags, aligned lanes that hit the TLB and
may be accessed, and what a release waits for acknowledged. -/
def Obligations.FormsComplete : Prop :=
  ∀ (s : State) (st : Strand) (d a b k reuse : Nat) (tag : Tag) (r3 : Bool) (off : BitVec 6) (imm : BitVec 8) (scope : Scope) (kind : FenceKind)
    (lv : BarLevel), s.Plain st → (s.headerOf st).trapen = 0 →
    let A := s.agentOf st
    let n := 8 * (s.headerOf st).vregs
    let ty := st.ty
    let src := (st.getV a).tag
    let B := st.getV b
    let done (i : Instr) : Prop := ∃ t st', s.Completes st i t st'
    let index : Prop := B.tag ∈ [Tag.i32, .n32, .raw]
    let raw (v : VReg) : Prop := v.tag = ty ∨ v.tag = .raw
    let lanes := lanesOf st.active
    let at' (xs : List DWord) (j : Nat) : DWord := xs.getD j 0
    let aligned (xs : List DWord) (size : Nat) : Prop := ∀ j ∈ lanes, (at' xs j).toNat % size = 0
    let hits (xs : List DWord) : Prop := ∀ j ∈ lanes, s.tlbMiss A (at' xs j).toNat = false
    let loads (xs : List DWord) (size reuse : Nat) : Prop := aligned xs size ∧ hits xs ∧ s.loadFailure A st xs st.active size reuse = none
    let stores (xs : List DWord) (size : Nat) : Prop := aligned xs size ∧ hits xs ∧ s.storeFailure A xs st.active = none
    let here (xs : List DWord) (size : Nat) : Prop := aligned xs size ∧ s.spFailure st.team xs st.active = none
    let clean (xs : List DWord) (size : Nat) : Prop := ∀ j ∈ lanes, s.spPoisoned st.team (at' xs j) size = false
    let gath : List DWord := B.lanes.map (fun x => st.getS a + (if B.tag = .i32 then x.signExtend 64 else x.zeroExtend 64))
    let line : List DWord := (List.range 32).map (fun j => st.getS a + BitVec.ofInt 64 (off.toInt * 4) + BitVec.ofNat 64 (4 * j))
    let spGath : List DWord := B.lanes.map (fun x => st.getS a + x.zeroExtend 64)
    let spLine : List DWord := (List.range 32).map (fun j => st.getS a + BitVec.ofInt 64 (imm.toInt * 4) + BitVec.ofNat 64 (4 * j))
    let w := elemBits ty / 8
    let x := st.getS a
    let m := 2 ^ k
    let bar := s.barrier st lv k
    let cb := s.cbuf st.team k
    let q := s.gangQueue st k
    (a < n → src = ty → isInt ty = true ∨ isFlt ty = true → done (.vredadd d a) ∧ done (.vredmin d a) ∧ done (.vredmax d a))
    ∧ (d < n → a < n → src = ty → ty ∈ [Tag.i32, .n32, .f32] → done (.vscan d a))
    ∧ (d < n → a < n → src ≠ .raw → ty ≠ .raw →
        (cvtPair src ty = true → done (.vcvt d a)) ∧ (b < n → B.tag = src → packPair src ty = true → done (.vpack d a b))
        ∧ (unpkPair src ty k = true → done (.vunpk d a k)))
    ∧ (d < n → a < n → isFlt src = true → ty = .pl false 8 ∨ ty = .pl true 8 → done (.vcvth d a b))
    ∧ (d < n → a < n → done (.vretag d a tag)) ∧ (a < n → done (.vgettag d a))
    ∧ (d < n → b < n → index → (loads gath w (if r3 then 3 else 0) → done (.vld d a r3 b)) ∧ (raw (st.getV d) → stores gath w → done (.vst d a b)))
    ∧ (d < n → (loads line 4 reuse → done (.vldc d a reuse off)) ∧ (raw (st.getV d) → stores line 4 → done (.vstc d a off)))
    ∧ (d < n → b < n → index → (here spGath w → clean spGath w → done (.spld d a b)) ∧ (raw (st.getV d) → here spGath w → done (.spst d a b)))
    ∧ (d < n → (here spLine 4 → clean spLine 4 → done (.spldc d a imm)) ∧ (raw (st.getV d) → here spLine 4 → done (.spstc d a imm)))
    ∧ (d < n → b + 1 < n → index → raw (st.getV (b + 1)) → here spGath 4 → clean spGath 4 →
        (ty ∈ [Tag.i32, .n32] → done (.spaadd d a b)) ∧ (ty ∈ [Tag.i32, .n32, .f32, .raw] → raw (st.getV d) → done (.spacas d a b)))
    ∧ (b + 1 < n → index → raw (st.getV (b + 1)) → aligned gath 4 → hits gath →
        (∀ j ∈ lanes, ∃ pa r w, s.checkAtomic A (at' gath j).toNat = .ok pa r w) →
        (ty ∈ [Tag.i32, .n32] → done (.redadd a b)) ∧ (ty = .f32 → done (.redfadd a b)))
    ∧ (kind = .acq ∨ scope ∈ [Scope.strand, .team] ∨ s.Acked st → done (.fence scope kind))
    ∧ (k < 4 → x.toNat % m = 0 →
        (∀ pa r w, s.tlbMiss A x.toNat m = false → s.check A true false x.toNat m = .ok pa r w → pa % 128 = x.toNat % 128 → s.Cold →
          (∀ j, j < m → s.poisoned (pa + j) = false) → done (.ldacq d a k scope))
        ∧ (s.tlbMiss A x.toNat = false → s.storeFailure A [x] lane0 = none → scope ∈ [Scope.strand, .team] ∨ s.Acked st → done (.strel d a k scope)))
    ∧ ((∀ e ∈ s.strands, e.2.crit = false) → s.oldestCrit (s.coreOf st) st.sched ∈ [none, some s.cur] → done .crit ∧ done .uncrit)
    ∧ (k < barCount (s.headerOf st) lv →
        (cfind st.arrivals (barKey lv k) ≠ some (bar.phase + 1) → lv = .team ∨ s.Acked st → done (.arrive lv k))
        ∧ (s.phaseDone st lv k = true → done (.await d lv k))
        ∧ (s.phaseDone st lv k = true → (cfind st.arrivals (256 + barKey lv k)).isSome = true → done (.meet d lv k)))
    ∧ done (.kinfo d (k % 4))
    ∧ (s.Acked st → (x.toNat / 2 ^ 15 % 2 ^ 17 = 0 → cfind (s.cluster (x.toNat / 2 ^ 12 % 8)).knits (x.toNat % 2 ^ 12) = none → done (.kjoin d a))
        ∧ ((s.knitOf st.team).members.length ≤ 1 → done .kleave))
    ∧ (k < (s.headerOf st).cbufs → done (.cbinfo d k) ∧ (cb.latched = true →
        ((if cb.inbound then cb.filled else cb.free) ≠ 0 → done (.cbwait d k))
        ∧ (cb.inbound = true → cb.filled ≠ 0 → done (.cbpop k)) ∧ (cb.inbound = false → cb.free ≠ 0 → done (.cbpush k))))
    ∧ (d < n → (q.pushers = [] → q.elems.length + lanes.length ≤ 64 → s.Acked st → done (.qpush d k))
        ∧ (q.poppers = [] → lanes.length ≤ q.elems.length → (∀ e ∈ q.elems, e.poison = false) → (s.launchOf st).terminated = [] → done (.qpop d k)))
    ∧ (s.xferOf st.team x.toNat = none → done (.xwait d a) ∧ done (.xstat d a))

/-! ### Flips (R124, R128–R134) -/

/-- R128–R133: FLIP, FLIPX and FLIPC where the gathering is complete and no transfer is bound. At strand scope the two slots change places,
or the working one is copied to staging; at team scope the team's scratchpad planes, at imem scope the imem halves of the core, at segment
scope the named segments and no others; every arrived strand goes on at its next pc. A strand that is not the last to arrive waits. A mask
beyond the gang's segments traps ILLEGAL with the mask, and an empty one does nothing. A waiting flip takes effect in an event of its own. Model's choice: log 22. -/
def Obligations.FlipResults : Prop :=
  (∀ (s : State) (st : Strand) (a : Nat), s.Plain st → s.resident st = true → (∀ e ∈ s.teams, e.2.xfers = []) →
    (∀ e ∈ s.strands, e.2.flip = none) →
    let only (p : Strand → Prop) : Prop := ∀ e ∈ s.strands, p e.2 → e.1 = s.cur
    let goes (i : Instr) (q : State → Strand → Prop) : Prop := ∃ t st', s.Completes st i t st' ∧ st'.flip = none ∧ q t st'
    let turned (op : Nat) (p p' : Planes) : Prop := if op = 2 then p' = p.copy else p' = p.flip
    let all (op : Nat) (i : FlipScope → Instr) : Prop :=
      goes (i .strand) (fun t st' => s.StrandOnly t ∧
        if op = 2 then st'.sel = st.sel ∧ st'.slot = st.slot ∧ st'.staging = st.slot
        else st'.sel = !st.sel ∧ st'.bankA = st.bankA ∧ st'.bankB = st.bankB)
      ∧ (∀ tm, cfind s.teams st.team = some tm → only (fun x => x.team = st.team) →
          goes (i .team) (fun t st' => turned op tm.sp (t.team st.team).sp ∧ st.SameRegs st' none none))
      ∧ (∀ l im, cfind s.launches (s.team st.team).launch = some l → cfind l.imems (s.team st.team).core = some im →
          only (fun x => (s.team x.team).launch = (s.team st.team).launch ∧ s.coreOf x = s.coreOf st) →
          goes (i .imem) (fun t st' => st.SameRegs st' none none ∧ s.SameMemory t ∧
            ∃ im', cfind (t.launch (s.team st.team).launch).imems (s.team st.team).core = some im' ∧ turned op im.planes im'.planes))
      ∧ (∀ g, cfind s.gangs (s.team st.team).gang = some g → (st.getS a).toNat < 2 ^ g.segs.length → st.getS a ≠ 0 →
          goes (i .segment) (fun t st' => st.SameRegs st' none none ∧ s.SameMemory t ∧ (t.gangOf st).segs.length = g.segs.length
            ∧ ∀ k, k < g.segs.length → if bitAt (st.getS a).toNat k = true
                then turned op (g.segs.getD k Planes.empty) ((t.gangOf st).segs.getD k Planes.empty)
                else (t.gangOf st).segs.getD k Planes.empty = g.segs.getD k Planes.empty))
      ∧ (2 ^ (s.gangOf st).segs.length ≤ (st.getS a).toNat → st.CanTrap → s.TrapsAtIssue st (i .segment) 0x01 0 (st.getS a))
      ∧ (st.getS a = 0 → exec (i .segment) s = .next (s.done st 0))
      ∧ (∀ k x, s.strandAt k = some x → k ≠ s.cur → x.run = .running → x.team = st.team →
          ∃ t st', exec (i .team) s = .next t ∧ t.strand? = some st' ∧ st'.wait = .flip ∧ st'.pc = st.pc ∧ st.SameRegs st' none none)
    all 0 (.flip · a) ∧ all 1 (.flipx · a) ∧ all 2 (.flipc · a))
  ∧ (∀ (s : State) (k : Nat) (x : Strand), s.strandAt k = some x → x.flip = some { op := 0, scope := .strand, mask := 0 } →
      s.resident x = true → s.level x = 0 → x.log = [] → x.nodes = [] → (∀ e ∈ s.teams, e.2.xfers = []) →
      exec (.flipTakesEffect k) s = .next (s.putStrandAt k { x with sel := !x.sel, flip := none, wait := .none, pc := x.pc + 4 }))

/-! ### Tiles (R155–R181, R188) -/

/-- R156, R161, R168–R176, R181, R188: what the appending instructions put into an empty skein: one node with the captured operands and mode,
its destination groups pending, the destinations' tags changed at once, and no register, memory byte or other strand touched. Model's choices: log 21 (TMAP BCAST with a K of 32 to 63 traps ILLEGAL) and logs 56, 57, 87 and 116. -/
def Obligations.TileAppends : Prop :=
  ∀ (s : State) (st : Strand) (d a b : Nat), s.Plain st → s.quota st ≠ 0 →
    let n := (s.headerOf st).tiles
    let ty := st.ty
    let T (k : Nat) : Tag := (st.getT k).tag
    let raw (t : Tag) : Prop := t = ty ∨ t = .raw
    let node (opcode : Nat) (op : NodeOp) (writes : BitVec 4) (ranges : List Range) : Node :=
      { id := st.nextNode, opcode := opcode, op := op, dst := d, writes := writes, pending := writes, mode := st.mode, appc := st.pc
        batch := st.batch, flags := 0, raised := [], ranges := ranges, pass := none }
    let plain (i : Instr) (opcode : Nat) (op : NodeOp) (tags : List (Nat × Tag)) : Prop := s.Appends st i (node opcode op 0xF []) tags
    d < n →
      plain (.tzero d) 0xC2 .tzero [(d, ty)]
      ∧ (∀ quarter row, a < 8 * (s.headerOf st).vregs → raw (st.getV a).tag → raw (T d) →
          s.Appends st (.tvr d a quarter row) (node 0xD1 (.tvr row quarter (st.getV a).lanes) (BitVec.ofNat 4 (2 ^ (row / 8))) []) [(d, ty)])
      ∧ (a < n → b < n → T a = ty → T b = ty → isFlt ty = true ∨ ty = .i32 ∨ ty = .n32 →
          plain (.tadd d a b) 0xC5 (.bin .add ty a b) [(d, ty)] ∧ plain (.tmul d a b) 0xC6 (.bin .mul ty a b) [(d, ty)]
          ∧ plain (.tmax d a b) 0xCA (.bin .max ty a b) [(d, ty)])
      ∧ (a < n → T a = ty → isFlt ty = true → plain (.texp2 d a) 0xC8 (.texp2 ty a) [(d, ty)]
          ∧ ∀ kind, plain (.trowred d a kind) 0xCB (.trowred ty a kind) [])
      ∧ (T d = .f32 → ty = .f32 → plain (.tscl d) 0xC7 .tscl [(d, .f32)])
      ∧ (a < n → ty ≠ .raw → tcvtPair (T a) ty = true → plain (.tcvt d a) 0xC9 (.tcvt (T a) ty a) [(d, ty)])
      ∧ (a < n → ∀ m, rowMapOf (st.getS b) = some m → plain (.tmap d a b) 0xCF (.tmap m a) [(d, if m = .side then .f32 else T a)])
      ∧ (a < n → rowMapOf (st.getS b) = none → st.CanTrap → s.TrapsAtIssue st (.tmap d a b) 0x01 0 (st.getS b))
      ∧ (a < n → d ≠ a → T d = .f32 → T a = .f32 →
          plain (.tsoft d a b) 0xC4 (.tsoft a ((st.getS b).extractLsb' 0 32)) [(d, .f32), (a, .bf16)])
      ∧ (∀ x rs, (st.getS a).toNat % 32 = 0 →
          s.tldDesc st (st.getS a) = .ok (x, rs) → s.Appends st (.tld d a) (node 0xC0 (.tld x) 0xF rs) [(d, x.tag)])
      ∧ (∀ x rs, (st.getS b).toNat % 32 = 0 →
          let ranges (rows : Nat) (y : TileDesc) : List Range := let l := tmmaLen y y.kbytes; descRanges y rows y.steps l.1 l.2
          s.descWith st true (st.getS b) (ranges 128) = .ok (x, rs) → x.space ≠ 1 → x.steps ≠ 0 → T d = .f32 →
          (a < n → a ≠ d → pairOk (T a) x.tag = true → x.steps * groupsPerStep x.tag x.kbytes ≤ groupsPerStep (T a) 512 →
            s.Appends st (.tmmaTile d a b) (node 0xC3 (.tmma (.tile a (T a)) x) 0xF rs) [])
          ∧ ∀ y ry, (st.getS a).toNat % 32 = 0 → s.descWith st true (st.getS a) (ranges 32) = .ok (y, ry) → pairOk y.tag x.tag = true →
              y.steps = x.steps → y.kbytes = x.kbytes →
              s.Appends st (.tmmaDesc d a b) (node 0xC3 (.tmma (.desc y) x) 0xF (ry ++ rs)) [])
      ∧ (∀ x, st.CanTrap → (st.getS x).toNat % 32 ≠ 0 → s.TrapsAtIssue st (.tld d x) 0x04 0 (st.getS x))

/-- R159, R169, R170, R172, R176–R179: demands. With an empty skein FORCE, TWAIT and TRV compute nothing: TRV copies a quarter of a row into the
active lanes, TST to the local scratchpad completes, TFENCE gives the open batch number and opens the next, skipping 0. With one whole node
pending FORCE computes it and the skein is empty again: TZERO leaves zeros with −∞ and +0 beside each row, TMAP with IDENT, SHIFT or BCAST
the source's rows, zeros where the source row lies outside. Model's choices: logs 13, 48, 108 and 109. -/
def Obligations.TileDemands : Prop :=
  (∀ (s : State) (st : Strand) (d a quarter row : Nat) (m : BitVec 4), s.Plain st →
    let n := (s.headerOf st).tiles
    let A := st.getT a
    (d < n → exec (.force d m) s = .next (s.done { st with peerLines := [], peerDone := [] } 0))
    ∧ ((st.getS a).toNat < 2 ^ 32 → ∃ t st', s.Completes st (.twait a) t st' ∧ st.SameRegs st' none none ∧ st'.nodes = [])
    ∧ (2 ^ 32 ≤ (st.getS a).toNat → st.CanTrap → ∃ t st', exec (.twait a) s = .next t ∧ t.strand? = some st' ∧ st'.pc = st.trapvec.toNat
        ∧ st'.trapcause = (1 <<< 63) ||| (0x01 : DWord))
    ∧ (∃ t st', s.Completes st (.tfence d) t st' ∧ st'.getS d = (if d = 0 then 0 else st.batch.zeroExtend 64) ∧ st.SameRegs st' (some d) none
        ∧ st'.batch = (if st.batch = 0xFFFFFFFF then 1 else st.batch + 1) ∧ st'.nodes = [] ∧ s.StrandOnly t)
    ∧ (a < n → d < 8 * (s.headerOf st).vregs → A.tag = st.ty → A.poison = [] →
        ∃ t st', s.Completes st (.trv d a quarter row) t st' ∧ st.SameRegs st' none (some d) ∧ (st'.getV d).tag = A.tag ∧ s.StrandOnly t
          ∧ ∀ j, j < 32 → (st'.getV d).lane j = if laneOn st.active j then A.word row (32 * quarter + j) else (st.getV d).lane j)
    ∧ (d < n → (st.getT d).tag = st.ty → (st.getT d).poison = [] → (st.getS a).toNat % 32 = 0 → ∀ x rs,
        s.tstDesc st d (st.getS a) = .ok (x, rs) → x.space = 1 →
        s.tstFailure st x (tstItems (st.getT d) x) = none →
        ∃ t st', s.Completes st (.tst d a) t st' ∧ st.SameRegs st' none none ∧ s.SameMemory t
          ∧ ∀ tm, cfind s.teams st.team = some tm → x.sbase = 0 → x.kbytes ≤ x.pitch → x.base.toNat + 32 * x.pitch ≤ 2 ^ 17 →
            ∀ r w, r < 32 → w < x.kbytes / 4 →
              readWord (t.team st.team).sp.work.bytes (x.base.toNat + r * x.pitch + 4 * w) = (st.getT d).word r w))
  ∧ (∀ (s : State) (st : Strand) (d : Nat) (nd : Node), s.strand? = some st → d < (s.headerOf st).tiles → st.nodes = [nd] → nd.dst = d →
      nd.id < st.nextNode → nd.writes = 0xF → nd.pending = 0xF → nd.flags = 0 → nd.ranges = [] → (s.headerOf st).trapen = 0 → st.peerLines = [] →
    let computes (f : Nat → Nat → Word) : Prop := ∃ t st', s.Completes st (.force d 0xF) t st' ∧ st'.nodes = [] ∧ s.SameMemory t
      ∧ (∀ k, k ≠ d → st'.getT k = st.getT k) ∧ ∀ r w, r < 32 → w < 128 → (st'.getT d).word r w = f r w
    (nd.op = .tzero → computes (fun _ _ => 0)
      ∧ ∃ t st', s.Completes st (.force d 0xF) t st' ∧ ∀ r, r < 32 → (st'.getT d).mrow r = 0xFF800000 ∧ (st'.getT d).lrow r = 0)
    ∧ (∀ a, a ≠ d → (st.getT a).poison = [] →
        (nd.op = .tmap .ident a → computes (st.getT a).word)
        ∧ (∀ k : Nat, k < 32 → nd.op = .tmap (.bcast k) a → computes (fun _ w => (st.getT a).word k w))
        ∧ (∀ k : Int, nd.op = .tmap (.shift k) a →
            computes (fun r w => if 0 ≤ (r : Int) + k ∧ (r : Int) + k < 32 then (st.getT a).word ((r : Int) + k).toNat w else 0))))

/-! ### Events of strands, ropes and transfers (R68, R89, R140, R198, R232, R243, R272–R278, R286) -/

/-- R68, R89, R198, R200, R232: the events of a strand: its timer at 0 disarms and becomes due; one ready for 64 cycles is promoted; the oldest log
entry, a load of a page whose walk succeeds, is performed with the captured operands, its result written and the entry gone; a core asked to
stop is halted once what its strands have issued is finished, where no critical strand is, and after 100 µs in any case; a strand that waits for a
critical slot or at a queue then waits afresh. Model's choices: logs 4, 42, 78 and 88. -/
def Obligations.StrandEvents : Prop :=
  (∀ (s : State) (k : Nat) (st : Strand), s.strandAt k = some st →
    (st.timer = some 0 → exec (.timerExpiry k) s = .next (s.putStrandAt k { st with timer := none, timerDue := true }))
    ∧ (st.timer ≠ some 0 → exec (.timerExpiry k) s = .next s)
    ∧ (64 ≤ st.readyFor → st.crit = false → exec (.strandPromotion k) s = .next (s.putStrandAt k { st with promoted := true }))
    ∧ (∀ d n x reuse e rest, st.log = e :: rest → e.req = .load d n x reuse → s.working st = true → s.level st = 0 →
        let u := s.walk (s.agentOf st) x.toNat
        u.loadFailure (s.agentOf st) st [x] lane0 n reuse = none →
        ∃ t st', exec (.operandLogReplay k) s = .next t ∧ t.strandAt k = some st' ∧ st'.log = rest ∧ st'.pc = st.pc
          ∧ st'.getS d = (if d = 0 then 0 else BitVec.ofNat 64 (u.loadLane (s.agentOf st) st x.toNat n reuse).1)
          ∧ st.SameRegs st' (some d) none ∧ ∀ j, j ≠ k → t.strandAt j = s.strandAt j))
  ∧ (∀ (s : State) (c t0 : Nat), (s.core c).haltAsked = some t0 → (s.strands.map Prod.fst).Nodup →
      (∀ e ∈ s.strands, s.finishing e.1 e.2 = false) →
      ((∀ e ∈ s.strands, e.2.crit = false) ∨ t0 + 100000 ≤ s.time →
        ∃ t, exec (.critDeferralExpiry c) s = .next t ∧ (t.core c).halted = true ∧ (t.core c).haltAsked = none
          ∧ (∀ j, j ≠ c → cfind t.cores j = cfind s.cores j) ∧ s.SameMemory t
          ∧ ∀ k x, s.strandAt k = some x → ∃ y, t.strandAt k = some y ∧ y = { x with wait := y.wait, peerLines := y.peerLines, issued := y.issued, handled := y.handled }
            ∧ (x.wait ∉ [Wait.crit, .qpush, .qpop] → y = { x with peerLines := y.peerLines }))
      ∧ (∀ k st, s.strandAt k = some st → st.crit = true → s.coreOf st = c → s.resident st = true → s.time < t0 + 100000 →
          exec (.critDeferralExpiry c) s = .next s))

/-- R271, R272, R275, R276, R278, R280, R286: the comparison at strand `idx` of a rope whose replicas have all presented and agree: SIGCHK gives 0 and
every replica goes on; an implicit release that is not logged is logged once, and every replica's signature and buffer are empty again. A release
that the log holds and on which the replicas differ tears the command down DIVERGED. Nothing is compared before all have presented, nor while one is
switched out or halted. A full log is checkpointed and empty once its strands have stopped. Model's choices: logs 17, 61 and 100. -/
def Obligations.RopeEvents : Prop :=
  ∀ (s : State) (tid idx : Nat) (st ls : Strand) (li k0 : Nat) (r : Rope),
    s.strands.find? (fun e => e.2.team == tid) = some (k0, st) → s.level st ≠ 0 → cfind s.ropes (s.team tid).rope = some r →
    r.rolling = none → s.faultedXfer r = none →
    let all := (s.ropeStrands st).filter (fun x => x.2.idx == idx)
    all.find? (fun e => e.2.replica == 0) = some (li, ls) → (all.map Prod.fst).Nodup → (∀ e ∈ all, s.strandAt e.1 = some e.2) →
    (s.team ls.team).rope = (s.team tid).rope →
    ((∃ e ∈ all, e.2.presented = none) → exec (.ropeCompare tid idx) s = .next s)
    ∧ ((∃ e ∈ all, s.resident e.2 = false) → exec (.ropeCompare tid idx) s = .next s)
    ∧ (∀ l, cfind s.launches (s.team ls.team).launch = some l → l.torn = none → r.logFull = false → (∀ e ∈ all, s.resident e.2 = true) →
        (∀ e ∈ all, e.2.presented ≠ none) → s.isLogged ls = true →
        (∃ e ∈ all, e.2.presented.map Presented.key ≠ ls.presented.map Presented.key) →
        ∃ t l', exec (.ropeCompare tid idx) s = .next t ∧ cfind t.launches (s.team ls.team).launch = some l' ∧ l'.torn = some .diverged)
    ∧ (∀ sg d, r.logFull = false → (∀ e ∈ all, s.resident e.2 = true) → (∀ e ∈ all, e.2.presented = some (.sigchk sg d)) →
        ∃ t, exec (.ropeCompare tid idx) s = .next t ∧ s.SameMemory t ∧ ∀ e ∈ all, ∃ x, t.strandAt e.1 = some x ∧ x.presented = none
          ∧ x.pc = e.2.pc + 4 ∧ x.getS d = 0 ∧ e.2.SameRegs x (some d) none)
    ∧ (∀ seq sg, r.logFull = false → (∀ e ∈ all, s.resident e.2 = true) → (∀ e ∈ all, e.2.presented = some (.implicit seq sg)) → ls.buffer = [] → r.log.length < 256 →
        (∀ e ∈ r.log, ¬ (e.strand = ls.idx ∧ e.seq = seq)) →
        ∃ t r' e, exec (.ropeCompare tid idx) s = .next t ∧ cfind t.ropes (s.team tid).rope = some r' ∧ r'.log = r.log ++ [e] ∧ e.seq = seq
          ∧ e.sig = sg ∧ e.strand = ls.idx ∧ s.SameMemory t
          ∧ ∀ e ∈ all, ∃ x, t.strandAt e.1 = some x ∧ x.presented = none ∧ x.sig = 0 ∧ x.buffer = [] ∧ x.ropeseq = e.2.ropeseq + 1
            ∧ x.pc = e.2.pc)
    ∧ (r.logFull = true → s.ropeHere st = true → (∀ e ∈ s.ropeStrands st, s.stoppedForLog e.1 e.2 = true) → (∀ e ∈ s.teams, e.2.xfers = []) →
        (s.team st.team).rope = (s.team tid).rope →
        ∃ t r', exec (.logFullCheckpoint tid) s = .next t ∧ cfind t.ropes (s.team tid).rope = some r' ∧ r'.log = [] ∧ r'.logFull = false
          ∧ s.SameMemory t)

/-- R140, R143, R243: a queued transfer that no earlier one of its cluster precedes takes a free walker context; one beat of a running transfer
between memory and a staging scratchpad, either way, moves the stream on by the beat's bytes, and ends the transfer DONE with its last
byte; a beat of one byte writes that byte at its destination and no other byte of that storage. Model's choices: log 103 (the iterations of a beat, and so BEATS) and logs 22 and 39. -/
def Obligations.TransferEvents : Prop :=
  ∀ (s : State) (tid id : Nat) (x : Xfer), s.xferOf tid id = some x →
    (x.state = .queued → ∀ r, s.pickRouter (s.team tid).core = some r →
      (∀ e ∈ s.teams, clusterOf e.2.core = clusterOf (s.team tid).core → ∀ y ∈ e.2.xfers, y.state = .queued → x.order ≤ y.order) →
      exec (.transferStart tid id) s = .next (s.putXfer tid { x with state := .running, router := some r }))
    ∧ (x.state ≠ .queued → exec (.transferStart tid id) s = .next s)
    ∧ (x.state ≠ .running ∨ x.paused = true ∨ x.aborting = true ∨ x.fault ≠ 0 ∨ s.xferAsks tid id = true → exec (.walkerBeat tid id) s = .next s)
    ∧ (x.state = .running → x.paused = false → x.aborting = false → x.fault = 0 → s.xferAsks tid id = false → x.desc.zelide = false →
      let d := x.desc
      let b := s.cbuf tid d.cbnum
      let ks := d.beat b x.done
      let n := x.done + ks.length
      let moves (t : State) : Prop :=
        (n < d.total → t.xferOf tid id = some { x with done := n, beats := (x.beats + 1) % 2 ^ 32, peerLines := [], peerBad := [] })
        ∧ (n = d.total → ∀ y, t.xferOf tid id = some y → y.state = .done)
      ∀ bs ps, ks ≠ [] →
        (∀ a, d.skind = 0 → d.dkind = 1 → d.mcast = 0 → stageAddr d.dst = some a → a.kind = 0 →
          (s.combineVa tid (ks.map (fun k => (d.sbyte b k % 2 ^ 64).toNat))).beatSrc tid x b [] ks = .ok bs ps →
          ∃ t, exec (.walkerBeat tid id) s = .next t ∧ moves t ∧ ∀ k v u, ks = [k] → bs = [v] → n < d.total → s.Cold →
            s.memberTeam tid a.member = some u →
            let bank (s : State) : Bytes := ((s.team u).sp.bank (x.bankOf a.member)).bytes
            s.SameMemory t ∧ ∀ y, readByte (bank t) y = if y = (d.dbyte b k).toNat then v else readByte (bank s) y)
        ∧ (d.skind = 1 → d.dkind = 0 → s.beatSrc tid x b [] ks = .ok bs ps →
          (∀ k ∈ ks, ∃ pa r w, s.teamTranslate tid false true (d.dbyte b k % 2 ^ 64).toNat = .ok pa r w) →
          ∃ t, exec (.walkerBeat tid id) s = .next t ∧ moves t ∧ ∀ k v pa r w, ks = [k] → bs = [v] → n < d.total → s.Cold →
            s.teamTranslate tid false true (d.dbyte b k % 2 ^ 64).toNat = .ok pa r w →
            readByte t.mem pa = v ∧ ∀ y, y ≠ pa → readByte t.mem y = readByte s.mem y))

/-! ### The dispatcher, packets and tasks (R195, R22, R246–R257, R294) -/

/-- R22, R195, R253, R257: the last gang of the module's one launch is placed where it fits; a gang takes, of all runs of consecutive eligible cores of a
cluster that has its segments free, the one whose smallest free amount of the limiting resource is largest, of equals the one with the lowest first core; a launch passed over for 100 µs holds back others; a
range that is quiet is sampled, and ends when two samples 256 fabric cycles apart agree and every message sent has been received; a READY launch
packet whose header and overlay read and check is handed to the dispatcher, one with a zero grid completes ABORTED. Model's choices: logs 25, 26, 27, 43 and 96. -/
def Obligations.DispatcherEvents : Prop :=
  (∀ (s u : State) (lid : Nat) (l : Launch), s.launches = [(lid, l)] → s.placeable l = true → l.spanParts = 1 → l.nextGang + 1 = l.gangCount →
    l.prio < 16 → s.placeGang lid = some u →
    ∃ t l', exec .gangPlacement s = .next t ∧ cfind t.launches lid = some l' ∧ l'.nextGang = l.gangCount ∧ l'.started.isSome = true
      ∧ l'.passedSince = none ∧ t.strands = u.strands ∧ t.teams = u.teams)
  ∧ (∀ (s : State) (lid : Nat) (l : Launch), cfind s.launches lid = some l → l.rope = 0 → l.unplaced = true → 0 < l.header.gang →
    let n := (l.gangTeams l.nextGang).length
    let free (c j : Nat) : Option (List Nat) := s.eligible lid l (j == 0) (c + j)
    let run (c : Nat) : Prop := clusterOf c ∈ clustersOf (s.part l.part).pcfg ∧ c % 256 + n ≤ 256 ∧ l.segs ≤ (s.freeSegs l (clusterOf c)).length
      ∧ ∀ j, j < n → (free c j).isSome = true
    let smallest (c m : Nat) : Prop := (∀ j f, j < n → free c j = some f → m ≤ f.getD (limiting l.demand) 0)
      ∧ ∃ j f, j < n ∧ free c j = some f ∧ f.getD (limiting l.demand) 0 = m
    (∀ u, s.placeGang lid = some u → ∃ gd m, cfind u.gangs s.nextId = some gd ∧ gd.launch = lid ∧ gd.index = l.nextGang ∧ run gd.core
      ∧ smallest gd.core m ∧ ∀ c k, run c → smallest c k → k < m ∨ (k = m ∧ gd.core ≤ c))
    ∧ (s.placeGang lid = none → ∀ c, ¬ run c))
  ∧ (∀ (s : State) (lid t0 : Nat) (l : Launch), cfind s.launches lid = some l → l.passedSince = some t0 → t0 + 100000 ≤ s.time →
    s.placeable l = true → exec (.launchPassover lid) s = .next { s with launches := cput s.launches lid { l with blocking := true } })
  ∧ (∀ (s : State) (lid die : Nat) (l : Launch), cfind s.launches lid = some l → l.terminated.contains die = false → s.quiet lid die = true →
    let a : Sample := { sent := cget 0 l.sent die, received := cget 0 l.received die, when := s.time }
    (cfind l.sample die = none → exec (.terminationSample lid die) s
        = .next { s with launches := cput s.launches lid { l with sample := cput l.sample die a } })
    ∧ (∀ b, cfind l.sample die = some b → b.when + 128 ≤ s.time → b.sent = b.received → a.sent = b.sent → a.received = b.received →
        ∀ k x, s.rangeStrands lid die = [(k, x)] → s.strandAt k = some x → s.level x = 0 → s.resident x = true → s.Acked x →
        ∃ t, exec (.terminationSample lid die) s = .next t ∧ (∀ l', cfind t.launches lid = some l' → l'.terminated.contains die = true)
          ∧ ∀ x', t.strandAt k = some x' → x'.run = .exited))
  ∧ (∀ (s s1 s2 s3 : State) (id : Nat) (tk : Task) (hb ob code : List Byte), s.readyTask id 1 = some tk →
    let p := tk.packet
    let q := tk.desc
    let h := parseHeader (leNat hb)
    let size := bits (leNat ob) 95 64
    let zero : Prop := pkt p 127 112 = 0 ∨ pkt p 111 96 = 0 ∨ pkt p 95 80 = 0
    (zero → ∃ t tk', exec (.launchPacket id) s = .next t ∧ cfind t.tasks id = some tk' ∧ tk'.state = .retiring ∧ tk'.cls = .aborted
        ∧ t.launches = s.launches)
    ∧ (¬ zero → s.hubRead (3 * id + 1) q.asid q.secure (pkt p 191 128) 64 = .ok (hb, s1) →
        s1.hubRead (3 * id + 1) q.asid q.secure ((pkt p 255 192 + h.ovlTable) % 2 ^ 64) 16 = .ok (ob, s2) →
        h.ok = true → launchOk h size (pktRope p h) q.secure = true → pkt p 79 72 ≤ mostSegs (s.part q.part).pcfg →
        s2.hubRead (3 * id + 1) q.asid q.secure ((pkt p 191 128 + 64) % 2 ^ 64) size = .ok (code, s3) →
        let l0 := s3.newLaunch id tk h code
        let t : State := { s3.hubDone (3 * id + 1) with
          nextId := s3.nextId + 1, launches := cput s3.launches s3.nextId l0
          tasks := cput s3.tasks id { tk with launch := some s3.nextId, state := if l0.unplaced then tk.state else .running } }
        t.possible s3.nextId = true →
        exec (.launchPacket id) s = .next t ∧ ∃ l, cfind t.launches s3.nextId = some l ∧ l.header = h ∧ l.code = code ∧ l.task = id
          ∧ l.nx = pkt p 95 80 ∧ l.ny = pkt p 111 96 ∧ l.nz = pkt p 127 112 ∧ l.prio = q.prio
          ∧ (cfind t.tasks id).map (·.launch) = some (some s3.nextId)))

/-- R244, R246, R247, R249, R250, R252, R255, R294: a packet processor reads a valid slot, clears its VALID bit in memory and enters the packet as a task, RIDX
counting on; a waiting task that is due becomes READY, the lines of a launch that the command processor wants fetched into the L2 (its header's line even where the
header is not valid); NOP and SIGNAL packets complete OK, SIGNAL adding its value at the home; a PIN of one
pinned page (for writing, one that shares its frame with none) counts one pin more and an UNPIN one less; a done task is removed, its completion signal lowered by 1 and its successor's count too. Model's choices: logs 3, 29, 64, 65, 68, 69, 95, 111, 122 and 127 (when a launch's lines are fetched), and log 60 (SIGNAL and a completion signal over a poisoned word). -/
def Obligations.PacketEvents : Prop :=
  (∀ (s u : State) (n : Nat) (b : List Byte), let q := s.queue n
    q.reading = true → s.power.stopped = false → (q.doorbell - q.ridx).toNat ≤ 16 * 2 ^ q.slotlog → q.rptr = 0 →
    s.hubRead (3 * n) q.asid q.secure q.slotAddr 64 = .ok (b, u) → 
    ∀ pa, s.transBytes q.asid q.secure false true q.slotAddr 8 = .ok ((List.range 8).map (pa + ·)) →
    let p : BitVec 512 := BitVec.ofNat 512 (leNat b)
    (p.getLsbD 0 = true → u.packetAsks (3 * n) n p = none →
      ∃ t id tk, exec (.packetRead n) s = .next t ∧ (t.queue n).ridx = q.ridx + 1 ∧ (t.queue n).consumed = q.consumed + 1
        ∧ cfind t.tasks id = some tk ∧ tk.packet = p ∧ tk.queue = n ∧ tk.parent = none
        ∧ leNat (readBytes t.mem pa 8) = leNat b % 2 ^ 64 - 1)
    ∧ (p.getLsbD 0 = false → ∃ t, exec (.packetRead n) s = .next t ∧ (t.queue n).stopped = true ∧ t.tasks = s.tasks))
  ∧ (∀ (s : State) (id : Nat) (tk : Task), cfind s.tasks id = some tk → tk.state = .waiting → s.taskDue tk = true → s.power.stopped = false →
    let stops : Prop := bitAt tk.packet.toNat 2 = true ∧ tk.failedPred = true
    let turned (u : State) (x : Task) : Prop := exec (.taskReady id) s = .next { u with tasks := cput s.tasks id x }
    (¬ stops → turned (s.prefetchLaunch id tk) { tk with state := .ready })
    ∧ (pktType tk.packet ≠ 1 → s.prefetchLaunch id tk = s)
    ∧ (pktType tk.packet = 1 → ∀ pa r w, let k := pkt tk.packet 191 128
        k % 128 = 0 → s.translate tk.desc.asid tk.desc.secure true false k = .ok pa r w → s.l2Ways (homeCluster pa) (sliceOf (pa / 128)) ≠ 0 →
        (∀ b u, (s.fetchAhead tk.desc k 64).hubRead (3 * id + 1) tk.desc.asid tk.desc.secure k 64 = .ok (b, u) → (parseHeader (leNat b)).ok = false) →
        ((s.prefetchLaunch id tk).l2Line (homeCluster pa) (pa / 128)).isSome = true)
    ∧ (s.Cold → s.SameMemory (s.prefetchLaunch id tk))
    ∧ (stops → turned s { tk with state := .retiring, cls := .aborted, event := some (hubEvent .aborted tk.queue 0) }))
  ∧ (∀ (s : State) (id : Nat) (tk : Task), s.readyTask id 5 = some tk →
    exec (.nopPacket id) s = .next { s with tasks := cput s.tasks id { tk with state := .retiring, cls := .ok, event := none } })
  ∧ (∀ (s : State) (id pa : Nat) (r w : Bool) (tk : Task), s.readyTask id 4 = some tk → s.Cold → s.hubWaits (.packet id) = false →
    s.translate tk.desc.asid tk.desc.secure false true (pkt tk.packet 255 192) = .ok pa r w →
    ∃ t tk', exec (.signalPacket id) s = .next t ∧ cfind t.tasks id = some tk' ∧ tk'.state = .retiring ∧ tk'.cls = .ok
      ∧ leNat (readBytes t.mem pa 8) = (leNat (readBytes s.mem pa 8) + pkt tk.packet 191 128) % 2 ^ 64
      ∧ ∀ y, (y < pa ∨ pa + 8 ≤ y) → readByte t.mem y = readByte s.mem y)
  ∧ (∀ (s : State) (id f : Nat) (tk : Task) (p : Page), s.readyTask id 2 = some tk →
    let va := pkt tk.packet 255 192
    let len := pkt tk.packet 191 128
    s.page tk.desc.asid va = some p → 4096 ≤ len → va + len ≤ p.base + p.size → p.pins ≠ [] → p.frame = some f → s.worldOk tk.desc.secure f = true →
    (bitAt (pkt tk.packet 65 64) 0 = true → p.readable = true) → (bitAt (pkt tk.packet 65 64) 1 = true → p.writable = true ∧ p.shared = none) →
    ∃ t tk' p', exec (.pinPacket id) s = .next t ∧ cfind t.tasks id = some tk' ∧ tk'.state = .retiring ∧ tk'.cls = .ok
      ∧ t.page tk.desc.asid va = some p' ∧ p'.pins = tk.desc.part :: p.pins ∧ p'.frame = p.frame ∧ s.SameMemory t)
  ∧ (∀ (s : State) (id : Nat) (tk : Task) (p : Page), s.readyTask id 3 = some tk → (∀ x ∈ s.pages, x.pins.length ≠ 1) →
    (s.pages.map (fun x => (x.asid, x.base))).Nodup → (∀ x ∈ s.pages, ∀ f, x.frame = some f → s.worldOk tk.desc.secure f = true) →
    let va := pkt tk.packet 255 192
    s.page tk.desc.asid va = some p → 0 < pkt tk.packet 191 128 →
    ∃ t tk' p', exec (.unpinPacket id) s = .next t ∧ cfind t.tasks id = some tk' ∧ tk'.state = .retiring ∧ tk'.cls = .ok
      ∧ t.page tk.desc.asid va = some p' ∧ p'.pins = p.unpinned tk.desc.part ∧ p'.pins.length = p.pins.length - 1 ∧ p'.frame = p.frame ∧ s.SameMemory t)
  ∧ (∀ (s : State) (id j pa : Nat) (r w : Bool) (tk o : Task), cfind s.tasks id = some tk → tk.state = .retiring → tk.launch = none → tk.cls = .ok →
    tk.phase = 0 → s.hubWaits (.entry id) = false → s.hubWaits (.signal id) = false →
    pkt tk.packet 447 384 = 0 → s.hub.tearing = [] → tk.poisoned = false → s.Cold →
    let va := pkt tk.packet 511 448
    va ≠ 0 → va % 8 = 0 → s.translate tk.desc.asid tk.desc.secure false true va = .ok pa r w →
    tk.succs = [j] → j ≠ id → cfind s.tasks j = some o → o.state = .waiting → o.poisoned = false → -32768 < o.count →
    ∃ t o', exec (.taskRetirement id) s = .next t ∧ cfind t.tasks id = none ∧ cfind t.tasks j = some o' ∧ o'.count = o.count - 1
      ∧ o'.failedPred = o.failedPred ∧ leNat (readBytes t.mem pa 8) = (leNat (readBytes s.mem pa 8) + (2 ^ 64 - 1)) % 2 ^ 64
      ∧ ∀ y, (y < pa ∨ pa + 8 ≤ y) → readByte t.mem y = readByte s.mem y)

/-- R259, R261, R264, R323, R328: errors. A launch beyond its limit, and one whose strand's peer request is not answered for 1 ms, is torn down
with class TIMEOUT; a core error restarts every strand of an idempotent team at its entry, at most three times, and else kills them; a poisoned
task block completes QUEUE_POISON unless it has started; a queue whose descriptor is lost takes ERROR and its unstarted tasks complete QUEUE_POISON;
a part of a spanning launch without counterpart for 1 s completes ABORTED. Model's choices: logs 2, 37 and 66. -/
def Obligations.ErrorEvents : Prop :=
  (∀ (s : State) (lid t0 : Nat) (l : Launch), cfind s.launches lid = some l → l.started = some t0 → l.torn = none →
    let lim := (s.part l.part).cmdlimit
    (lim ≠ 0 → t0 + 1000 * lim < s.time →
      ∃ t l', exec (.commandTimeout lid) s = .next t ∧ cfind t.launches lid = some l' ∧ l'.torn = some .timeout
        ∧ ∀ e ∈ t.teams, e.2.launch ≠ lid)
    ∧ (lim = 0 ∨ s.time ≤ t0 + 1000 * lim → exec (.commandTimeout lid) s = .next s))
  ∧ (∀ (s : State) (tag : Nat) (o : PeerOut) (st : Strand) (l : Launch), cfind s.fabric.outstanding tag = some o → o.xfer = none → o.hub = .none →
    s.strandAt o.strand = some st → cfind s.launches (s.team st.team).launch = some l → l.torn = none → s.Cold →
    (o.sent + 1000000 ≤ s.time → ∃ t l', exec (.requestTimeout tag) s = .next t ∧ cfind t.fabric.outstanding tag = none
        ∧ cfind t.launches (s.team st.team).launch = some l' ∧ l'.torn = some .timeout)
    ∧ (s.time < o.sent + 1000000 → exec (.requestTimeout tag) s = .next s))
  ∧ (∀ (s : State) (tid k0 : Nat) (tm : Team) (st : Strand), cfind s.teams tid = some tm → s.strands.find? (fun e => e.2.team == tid) = some (k0, st) →
    s.level st = 0 →
    (tm.idemp = true → tm.restarts < 3 → (∀ e ∈ s.strands, e.2.crit = false) →
      ∃ t tm', exec (.coreError tid false) s = .next t ∧ cfind t.teams tid = some tm' ∧ tm'.restarts = tm.restarts + 1
        ∧ tm'.place = tm.place + 1 ∧ ∀ k x, s.strandAt k = some x → x.team = tid →
          ∃ y, t.strandAt k = some y ∧ y.run = .running ∧ y.pc = (s.headerOf x).entry ∧ y.trapcause = 0 ∧ y.nodes = [])
    ∧ (tm.idemp = false ∨ 3 ≤ tm.restarts → ∃ t, exec (.coreError tid false) s = .next t
        ∧ ∀ k x, s.strandAt k = some x → x.team = tid → ∀ y, t.strandAt k = some y → y.run ≠ .running))
  ∧ (∀ (s : State) (id : Nat) (tk : Task), cfind s.tasks id = some tk →
    ∃ t tk', exec (.graphPoison id) s = .next t ∧ cfind t.tasks id = some tk' ∧ tk'.poisoned = true
      ∧ (tk.state ∈ [TaskState.waiting, .ready, .expected] → tk'.state = .retiring ∧ tk'.cls = .queuePoison)
      ∧ (tk.state ∈ [TaskState.running, .retiring] → tk'.state = tk.state ∧ tk'.cls = tk.cls))
  ∧ (∀ (s : State) (n : Nat), ∃ t, exec (.queueDescriptorError n) s = .next t ∧ (t.queue n).error = true ∧ (t.queue n).reading = false
      ∧ ∀ id tk, cfind s.tasks id = some tk → tk.queue = n → tk.state ∈ [TaskState.waiting, .ready] →
          ∃ tk', cfind t.tasks id = some tk' ∧ tk'.state = .retiring ∧ tk'.cls = .queuePoison)
  ∧ (∀ (s : State) (id : Nat) (tk : Task) (x : Span), s.unmatched id = some (tk, x) →
    (tk.since + 1000000000 ≤ s.time → exec (.spanMatchTimeout id) s
      = .next { s with tasks := cput s.tasks id { tk with state := .retiring, cls := .aborted, event := some (hubEvent .aborted tk.queue 0) } })
    ∧ (s.time < tk.since + 1000000000 → exec (.spanMatchTimeout id) s = .next s))

/-! ### The host, management and boot (R244, R245, R260, R295, R312–R321, R327) -/

/-- R244, R299, R315–R317, R319: a function's accesses of at most 512 bytes. A BAR2 access reaches its range where the function exists and every byte is
backed, lies in a 2 MiB region assigned to the function's partition (the PF: any), and is of no secure region, unless the access comes on the function's
IDE stream with its interface in RUN and its partition secure. A notify write to a queue of its partition, and one by the PF, sets the doorbell
index, and a read there returns RIDX; a BAR2 write that reaches its range changes exactly its bytes of home memory, and a read returns them,
marked where a sector is poisoned (cold caches); the PF reads the management registers in BAR0; any other access is rejected, sets MEVENT bit 5
and has no effect. Model's choices: logs 28, 75, 83 and 97. -/
def Obligations.HostAccesses : Prop :=
  ∀ (s : State) (fn queue pa n : Nat) (ide : Bool) (value : Word) (bytes : List Byte),
    let rejected (i : Instr) : Prop := ∃ t, exec i s = .next t ∧ t.hub.mevent.getLsbD 5 = true ∧ t.mem = s.mem ∧ t.queues = s.queues
      ∧ t.hub.reads = s.hub.reads
    (0 < n → (s.barOk fn ide pa n = true ↔ s.vfExists fn = true ∧ ∀ y, pa ≤ y → y < pa + n →
      y / 2 ^ 37 < 12 ∧ y % 2 ^ 37 < 96000000000 ∧ (fn = 0 ∨ cfind s.assigned (y / 2 ^ 21) = some (fn - 1))
      ∧ (member s.secure (y / 2 ^ 21) = true → fn ≠ 0 ∧ ide = true ∧ member s.hub.ide fn = true ∧ s.tdispOf (fn - 1) = .run
          ∧ pcfgSecure (s.part (fn - 1)).pcfg = true)))
    ∧ (s.vfExists fn = true → fn = 0 ∨ (s.queue queue).part + 1 = fn → (s.boot.minimal = true → queue < 64) →
      ∃ t, exec (.notifyWrite fn ide queue value) s = .next t ∧ (t.queue queue).doorbell = value ∧ (t.queue queue).stopped = false
        ∧ (t.queue queue).ridx = (s.queue queue).ridx ∧ ∀ m, m ≠ queue → cfind t.queues m = cfind s.queues m)
    ∧ (s.vfExists fn = false ∨ (fn ≠ 0 ∧ (s.queue queue).part + 1 ≠ fn) ∨ (s.boot.minimal = true ∧ 64 ≤ queue) → rejected (.notifyWrite fn ide queue value))
    ∧ (s.notifyOk fn queue = true → queue < 65536 →
      exec (.hostMemoryRead fn ide (.bar0 (8 * queue)) 4) s = .next { s with hub := { s.hub with
        reads := s.hub.reads ++ [{ data := leBytes 4 (s.queue queue).ridx.toNat, poisoned := false }] } })
    ∧ (∀ o v, n = 0x100000 + o → o < 256 → o % 8 = 0 → s.readRegister o = some v →
      exec (.hostMemoryRead 0 ide (.bar0 n) 8) s = .next { s with hub := { s.hub with
        reads := s.hub.reads ++ [{ data := leBytes 8 v.toNat, poisoned := false }] } })
    ∧ (s.bar0Read fn pa n = none → rejected (.hostMemoryRead fn ide (.bar0 pa) n))
    ∧ (s.barOk fn ide pa bytes.length = true → bytes.length ≤ 512 → s.Cold →
      ∃ t, exec (.hostMemoryWrite fn ide (.bar2 pa) bytes) s = .next t
        ∧ (∀ k, k < bytes.length → readByte t.mem (pa + k) = bytes.getD k 0)
        ∧ ∀ y, (y < pa ∨ pa + bytes.length ≤ y) → readByte t.mem y = readByte s.mem y)
    ∧ (s.barOk fn ide pa n = true → s.Cold →
      ∃ t, exec (.hostMemoryRead fn ide (.bar2 pa) n) s = .next t ∧ s.SameMemory t ∧ t.hub.reads = s.hub.reads
          ++ [{ data := readBytes s.mem pa n, poisoned := (List.range n).any (fun i => s.poisoned (pa + i)) }])
    ∧ (s.barOk fn ide pa bytes.length = false → bytes.length ≤ 512 → rejected (.hostMemoryWrite fn ide (.bar2 pa) bytes))
    ∧ (512 < bytes.length → exec (.hostMemoryWrite fn ide (.bar2 pa) bytes) s = .next s)
    ∧ (s.barOk fn ide pa n = false → rejected (.hostMemoryRead fn ide (.bar2 pa) n))

/-- R245, R260, R295, R319–R321, R327: management. MCMD writes a queue's descriptor, reads it back, binds or unbinds a span record and tears a
context down, with STATUS 0, or does nothing with STATUS 1; registers take values in range and drop others; MEVENT bits clear where 1 is
written; frames of the port that are no messages do nothing; TDISP moves between its states, ERROR stopping the partition's queues; a valid
reconfiguration takes effect, none in minimal mode; an SPDM request is answered with the block it names, none above 5, and with the certificate
chain; an IDE stream is keyed for a function that exists. Model's choices: logs 32, 33, 34, 73, 75 (queues above 63 in minimal mode) and 81 (a command is over in the step of its MCMD write). -/
def Obligations.ManagementCommands : Prop :=
  ∀ (s : State) (n k part asid vf index : Nat) (v a : DWord) (kind : FrameKind),
    let rec' := s.mrecord
    let fails (i : Instr) : Prop := ∃ t, exec i s = .next t ∧ t.hub.mstatus = 1 ∧ t.queues = s.queues ∧ t.fabric = s.fabric ∧ t.tasks = s.tasks
    (s.recordOk n rec' = true → ∃ t, exec (.queueRecordWrite n) s = .next t ∧ t.hub.mstatus = 0
        ∧ (t.queue n).ring.toNat = bits rec' 255 192 ∧ (t.queue n).asid = bits rec' 127 112 ∧ (t.queue n).part = bits rec' 97 94
        ∧ (t.queue n).enable = bitAt rec' 0
        ∧ (t.queue n).ridx = (if (s.queue n).enable then (s.queue n).ridx else 0)
        ∧ (t.queue n).error = ((s.queue n).enable && (s.queue n).error) ∧ ∀ m, m ≠ n → cfind t.queues m = cfind s.queues m)
    ∧ (s.recordOk n rec' = false → fails (.queueRecordWrite n))
    ∧ (∃ t, exec (.queueRecordRead n) s = .next t ∧ t.hub.mstatus = 0 ∧ t.mrecord = (s.queue n).record % 2 ^ 256 ∧ t.queues = s.queues)
    ∧ (s.spanOk rec' = true → ∃ t, exec .spanRecordWrite s = .next t ∧ t.hub.mstatus = 0
        ∧ (cfind t.fabric.spans (bits rec' 15 0)).map (fun x => (x.devs, x.spanId, x.ndev, x.index))
          = if bitAt rec' 16 then some (spanDevs rec', bits rec' 63 48, bits rec' 47 44, bits rec' 43 40) else none)
    ∧ (s.spanOk rec' = false → fails .spanRecordWrite)
    ∧ (s.contextOk part asid = true → ∃ t, exec (.contextTearDown part asid) s = .next t ∧ t.hub.mstatus = 0
        ∧ ∀ m q, cfind s.queues m = some q → q.part = part → q.asid = asid → (t.queue m).enable = false)
    ∧ (s.contextOk part asid = false → fails (.contextTearDown part asid))
    ∧ exec (.meventClear v) s = .next { s with hub := { s.hub with mevent := s.hub.mevent &&& ~~~ v } }
    ∧ (v.toNat < 16 → exec (.registerWrite 0x00 v) s = .next { s with hub := { s.hub with mtarget := v.toNat } })
    ∧ (16 ≤ v.toNat → exec (.registerWrite 0x00 v) s = .next s)
    ∧ (∀ x, cfind s.parts s.hub.mtarget = some x → granules x.pcfg ≠ 0 →
        (v.toNat < 256 → exec (.registerWrite 0x08 v) s = .next { s with parts := cput s.parts s.hub.mtarget { x with rank := v.toNat } })
        ∧ (50 ≤ v.toNat → v.toNat ≤ 3600 →
            exec (.registerWrite 0x10 v) s = .next { s with parts := cput s.parts s.hub.mtarget { x with pcap := v.toNat } })
        ∧ (v.toNat < 50 ∨ 3600 < v.toNat → exec (.registerWrite 0x10 v) s = .next s))
    ∧ (600 ≤ v.toNat → v.toNat ≤ 3600 → exec (.registerWrite 0x28 v) s = .next { s with power := { s.power with modlim := v.toNat } })
    ∧ (v.toNat < 600 ∨ 3600 < v.toNat → exec (.registerWrite 0x28 v) s = .next s)
    ∧ (k < 4 → exec (.registerWrite (0x40 + 8 * k) v) s = .next { s with hub := { s.hub with mrec := s.hub.mrec.set k v } })
    ∧ exec (.registerWrite 0x18 v) s = .next s ∧ exec (.registerWrite 0x20 v) s = .next s ∧ exec (.registerWrite 0x38 v) s = .next s
    ∧ exec (.managementPortFrame kind) s = .next s
    ∧ (s.vfExists (vf + 1) = true → s.tdispOf vf = .configUnlocked →
        exec (.tdispLock vf) s = .next { s with tdisp := cput s.tdisp vf .configLocked })
    ∧ (s.tdispOf vf = .configLocked → exec (.tdispRun vf) s = .next { s with tdisp := cput s.tdisp vf .run })
    ∧ (s.tdispOf vf ≠ .configLocked → exec (.tdispRun vf) s = .next s)
    ∧ (∃ t, exec (.tdispConfigUnlocked vf) s = .next t ∧ t.tdispOf vf = .configUnlocked ∧ ∀ m, m ≠ vf → t.tdispOf m = s.tdispOf m)
    ∧ (s.tdispOf vf = .configLocked ∨ s.tdispOf vf = .run → ∃ t, exec (.tdispError vf) s = .next t ∧ t.tdispOf vf = .error
        ∧ t.hub.mevent.getLsbD 4 = true ∧ ∀ m q, m < 65536 → cfind s.queues m = some q → q.part = vf → (t.queue m).error = true)
    ∧ (s.layoutOk [a] = true → granules a ≠ 0 → (s.part (bits a.toNat 3 0)).pcfg ≠ a →
        ∃ t, exec (.partitionReconfiguration [a]) s = .next t ∧ (t.part (bits a.toNat 3 0)).pcfg = a
          ∧ ∀ m, m ≠ bits a.toNat 3 0 → cfind t.parts m = cfind s.parts m)
    ∧ (s.layoutOk [a] = false → exec (.partitionReconfiguration [a]) s = .next s)
    ∧ (s.boot.minimal = true → s.layoutOk [a] = false)
    ∧ exec (.spdmRequest (.measurement index false)) s = .next { s with hub := { s.hub with
        answers := s.hub.answers ++ [if index = 0 then [5] else if 5 < index then [] else Config.measure index (s.measured index)] } }
    ∧ exec (.spdmRequest .certificate) s = .next { s with hub := { s.hub with answers := s.hub.answers ++ [Config.certificateChain] } }
    ∧ (s.vfExists vf = true → exec (.spdmRequest (.ideStart vf)) s = .next { s with hub := { s.hub with ide := setInsert s.hub.ide vf } })

/-- R312–R314: resets and starts. A reset starts the image of the highest version that verifies and is not below the counter, with volatile state
as after reset and device time kept, or minimal mode after three failed starts; with no such image it counts a failed start. READY ends a
start that has reached the last stage; the stage it has reached fails with a REASON of that stage, and this and 60 s without READY count one; RETRY clears the count and resets; a new image is taken in minimal mode. Model's choices: log 74 (device time is kept) and logs 1, 35, 91 and 92. -/
def Obligations.BootEvents : Prop :=
  ∀ (s : State) (im : Image) (reason : Nat),
    let b := s.boot
    let starts (i : Instr) (fails : Nat) : Prop := ∃ t, exec i s = .next t ∧ t.boot.image = some im ∧ t.boot.starting = true ∧ t.boot.ready = false
      ∧ t.boot.minimal = false ∧ t.boot.fails = fails ∧ t.strands = [] ∧ t.launches = [] ∧ t.tasks = [] ∧ t.queues = [] ∧ t.mem = []
      ∧ t.time = s.time ∧ t.power.modlim = im.modlim ∧ t.boot.counter = b.counter ∧ t.boot.slots = b.slots
    (b.pick = some im →
      starts .bootRetry 0
      ∧ ((b.minimal = false ∧ b.fails < 3) ∨ b.newImage = true → starts .moduleReset b.fails)
      ∧ im ∈ b.slots ∧ im.verifies = true ∧ b.counter ≤ im.version
      ∧ ∀ x ∈ b.slots, x.verifies = true → b.counter ≤ x.version → x.version ≤ im.version)
    ∧ (b.minimal = true ∨ 3 ≤ b.fails → b.newImage = false →
        ∃ t, exec .moduleReset s = .next t ∧ t.boot.minimal = true ∧ t.boot.image = none ∧ t.boot.starting = true ∧ t.parts.length = 1)
    ∧ (b.pick = none → b.minimal = false ∧ b.fails < 3 →
        ∃ t, exec .moduleReset s = .next t ∧ t.boot.fails = b.fails + 1 ∧ t.boot.starting = false ∧ t.parts = []
          ∧ t.boot.reason = if b.slots.any (fun x => x.verifies) then 2 else 1)
    ∧ (b.starting = true → b.stage = 5 → exec .firmwareReady s = .next { s with boot := { b with starting := false, ready := true, stage := 5, fails := 0 } })
    ∧ (b.starting = false ∨ b.stage ≠ 5 → exec .firmwareReady s = .next s)
    ∧ (b.starting = true → b.since + 60000000000 ≤ s.time → ∃ t, exec .startTimeout s = .next t ∧ t.boot.reason = 6 ∧ t.boot.fails = b.fails + 1
        ∧ t.boot.starting = false ∧ t.boot.ready = false)
    ∧ (b.starting = true → s.time < b.since + 60000000000 → exec .startTimeout s = .next s)
    ∧ (b.starting = true → failsIn b.stage reason = true → ∃ t, exec (.startStageFailure reason) s = .next t ∧ t.boot.reason = reason
        ∧ t.boot.stage = b.stage ∧ t.boot.fails = b.fails + 1 ∧ t.boot.starting = false ∧ t.boot.ready = false)
    ∧ (b.starting = false ∨ failsIn b.stage reason = false → exec (.startStageFailure reason) s = .next s)
    ∧ (b.minimal = true → b.ready = true → ∃ t, exec (.newImageWrite im) s = .next t ∧ im ∈ t.boot.slots ∧ t.boot.newImage = true ∧ s.SameMemory t)
    ∧ (b.minimal = false ∨ b.ready = false → exec (.newImageWrite im) s = .next s)

/-! ### Power, heat and migration (R203, R204, R292, R300–R311) -/

/-- R203, R204, R292, R304–R311: a hot core orders the gangs that work there moved where another run exists; a stopped gang moves there, each team taking its member's
core, or stays; transfers that go on when the strands have stopped are paused after 50 µs; at 105 °C a cluster's clock falls, and no clock is
below 1.2 GHz; the trip tears every started command down and stops the module; a lost phase is counted; ballast adds its charge, in steps of
64 cycles and for at most 20 µs, where a matrix unit of the granule is idle; a tick keeps DUTY between 4 and 64, clocks between 1.2 and 1.8 GHz and no limit above its cap; hall
messages are checked, sequenced and expire; a scrub changes nothing that can be seen. Model's choices: logs 30, 31, 53, 71, 76, 90, 114 and 115. -/
def Obligations.PowerEvents : Prop :=
  (∀ (s : State) (core : Nat), let s1 := s.onCore core (fun c => { c with hot := true })
    (s.gangs.map Prod.fst).Nodup → ∃ t, exec (.hotSpotLimit core) s = .next t ∧ (t.core core).hot = true ∧ t.strands = s.strands
      ∧ ∀ g gd, cfind s.gangs g = some gd → gd.moving = none → (∃ i ∈ gd.teams, (s.team i).core = core) →
          (t.gang g).moving = if s.onPlane (s.launch gd.launch) = true ∧ (s1.moveRun g).isSome then some s.time else none)
  ∧ (∀ (s : State) (g t0 : Nat) (gd : Gang), cfind s.gangs g = some gd → gd.moving = some t0 →
    (gd.stopped = none → exec (.migrationTransferRebind g) s = .next s)
    ∧ (∀ t1, gd.stopped = some t1 → s.time < t1 + 50000 → exec (.migrationTransferRebind g) s = .next s)
    ∧ (∀ t1, gd.stopped = some t1 → t1 + 50000 ≤ s.time → ∃ t, exec (.migrationTransferRebind g) s = .next t
        ∧ ∀ i tm, i ∈ gd.teams → cfind s.teams i = some tm → (t.team i).xfers = tm.xfers.map (fun x => { x with paused := x.live }))
    ∧ (s.onPlane (s.launch gd.launch) = false → exec (.migration g) s = .next s)
    ∧ ((∃ e ∈ s.strands, e.2.team ∈ gd.teams ∧ s.finishing e.1 e.2 = true) → exec (.migration g) s = .next s)
    ∧ (s.onPlane (s.launch gd.launch) = true → (∀ e ∈ s.strands, e.2.crit = false ∧ s.finishing e.1 e.2 = false) → gd.stopped = none → (∃ i ∈ gd.teams, ∃ x ∈ (s.team i).xfers, x.live = true ∧ x.paused = false) →
        ∃ t, exec (.migration g) s = .next t ∧ (t.gang g).stopped = some s.time ∧ (t.gang g).moving = some t0 ∧ t.strands = s.strands)
    ∧ (s.onPlane (s.launch gd.launch) = true → (∀ e ∈ s.strands, e.2.crit = false ∧ s.finishing e.1 e.2 = false) → (∀ e ∈ s.teams, e.2.xfers = []) →
        (∀ c, s.moveRun g = some c → ∃ t, exec (.migration g) s = .next t ∧ (t.gang g).core = c ∧ (t.gang g).moving = none
          ∧ ∀ i tm, i ∈ gd.teams → cfind s.teams i = some tm → (t.team i).core = c + tm.member)
        ∧ (s.moveRun g = none → ∃ t, exec (.migration g) s = .next t ∧ (t.gang g).moving = none ∧ (t.gang g).core = gd.core
          ∧ t.strands = s.strands)))
  ∧ (∀ (s : State) (k die granule cycles sector : Nat),
    (∃ t, exec (.thermalClockLimit k) s = .next t ∧ (t.cluster k).thermal = true ∧ t.hub.mevent.getLsbD 1 = true
      ∧ 120 ≤ (t.cluster k).clock ∧ (120 < s.clockAsked k → (t.cluster k).clock < s.clockAsked k)
      ∧ ∀ j, j ≠ k → cfind t.clusters j = cfind s.clusters j)
    ∧ (∃ t, exec (.thermalLimitRelease k) s = .next t ∧ (t.cluster k).thermal = false ∧ ∀ j, j ≠ k → cfind t.clusters j = cfind s.clusters j)
    ∧ (∃ t, exec .thermalTrip s = .next t ∧ t.power.stopped = true ∧ t.boot.reason = 8 ∧ t.hub.mevent.getLsbD 1 = true
      ∧ ∀ lid l, cfind s.launches lid = some l → l.started.isSome = true → (t.launch lid).torn.isSome = true)
    ∧ (die < 4 → ∃ t, exec (.phaseLoss die) s = .next t ∧ t.hub.mevent.getLsbD 0 = true
      ∧ ∀ d, d < 4 → t.power.phases.getD d 16 = if d = die then s.power.phases.getD d 16 - 1 else s.power.phases.getD d 16)
    ∧ (s.idleUnit granule = false → exec (.ballast granule cycles) s = .next s)
    ∧ (s.idleUnit granule = true → ∃ t n, exec (.ballast granule cycles) s = .next t
      ∧ n % 64 = 0 ∧ n ≤ cycles ∧ n ≤ 200 * s.clockOf (granule / 2) ∧ (cycles < n + 64 ∨ 200 * s.clockOf (granule / 2) < n + 64)
      ∧ (t.cluster (granule / 2)).charge = (s.cluster (granule / 2)).charge + BitVec.ofNat 64 (2400 * n)
      ∧ ∀ p x, cfind s.parts p = some x → holdsGranule x.pcfg granule = true → bitAt x.active 6 = false → (t.part p).active = x.active + 64)
    ∧ exec (.patrolScrub sector) s = .next s)
  ∧ (∀ (s : State) (uncore : Nat) (duties clocks : List Nat),
    ∃ t, exec (.powerControlTick uncore duties clocks) s = .next t ∧ t.power.uncore = uncore ∧ t.strands = s.strands ∧ s.SameMemory t
      ∧ (∀ k, k < 8 → 120 ≤ (t.cluster k).clock ∧ (t.cluster k).clock ≤ 180) ∧ (∀ e ∈ t.cores, e.2.hot = false)
      ∧ ∀ p x, cfind s.parts p = some x → granules x.pcfg ≠ 0 → 4 ≤ (t.part p).duty ∧ (t.part p).duty ≤ 64 ∧ (t.part p).lim ≤ x.pcap)
  ∧ (∀ (s : State) (im : Image) (b : List Byte), s.boot.image = some im →
    (hallOk im b = false → ∃ t, exec (.hallCapMessage b) s = .next t ∧ t.hub.mdiscard = s.hub.mdiscard + 1 ∧ t.hub.mevent.getLsbD 2 = true
        ∧ t.power = s.power)
    ∧ (hallOk im b = true → (∃ q, s.power.lastSeq = some q ∧ bits (beNat b) 447 384 ≤ q.toNat) →
        ∃ t, exec (.hallCapMessage b) s = .next t ∧ t.power = s.power ∧ t.hub.mevent.getLsbD 2 = true)
    ∧ (hallOk im b = true → (∀ q, s.power.lastSeq = some q → q.toNat < bits (beNat b) 447 384) →
        ∃ t, exec (.hallCapMessage b) s = .next t ∧ t.power.lastSeq = some (BitVec.ofNat 64 (bits (beNat b) 447 384))
          ∧ (bitAt (beNat b) 448 = true → t.power.hall = none)
          ∧ (bitAt (beNat b) 448 = false → ∃ h, t.power.hall = some h ∧ h.thresh = bits (beNat b) 351 344 ∧ h.capfrac = bits (beNat b) 343 336
              ∧ h.modcap = bits (beNat b) 335 320
              ∧ h.expiry = if bits (beNat b) 319 304 = 0 then none else some (s.time + 1000000 * bits (beNat b) 319 304))))
  ∧ (∀ (s : State) (h : Hall) (t0 : Nat), s.power.hall = some h → h.expiry = some t0 →
    (t0 ≤ s.time → exec .hallCapExpiry s = .next { s with power := { s.power with hall := none } })
    ∧ (s.time < t0 → exec .hallCapExpiry s = .next s))

/-! ### The fabric (R322–R328) -/

/-- R322, R323, R325, R326, R328: flits, links, peers and device time. A port drops a bad flit, delivers the next in sequence once, drops any other, counting a
replay where its number does not move on from the last good one's, and retrains at the eighth replay in a row; retraining ends within 1 ms or the link is down; a peer request without an import entry is answered PERMISSION, a read
of a clean line gives the line's words and a store changes exactly its bytes; a response completes or fails its access, a late one nothing;
time flits go out once in each microsecond, and a correction slews device time or, once before the first placement, steps it forward, the time
source's the master's alone; hashes of launches of the same count and messages about barriers take their effect on spanning launches. Model's choices: logs 36, 38, 39 and 112, log 44 (the messages about launch barriers), log 47 (the world of a peer's request) and log 77 (which correction steps device time and which is slewed). -/
def Obligations.FabricEvents : Prop :=
  (∀ (s : State) (k : Nat) (p : Port) (f : List Byte), cfind s.fabric.ports k = some p → p.up = true →
    let h := flitHeader f
    let after (i : Instr) (q : Port → Prop) : Prop := ∃ t p', exec i s = .next t ∧ cfind t.fabric.ports k = some p' ∧ q p'
      ∧ ∀ j, j ≠ k → cfind t.fabric.ports j = cfind s.fabric.ports j
    (p.retraining = none →
      (flitOk f = false → after (.flitReceive k f) (fun q => q = p))
      ∧ (flitOk f = true → bits h 39 32 = (p.rxSeq + 1) % 256 → after (.flitReceive k f) (fun q => q.received = p.received ++ [f]
          ∧ q.rxSeq = (p.rxSeq + 1) % 256 ∧ q.seen = q.rxSeq ∧ q.replays = 0))
      ∧ (flitOk f = true → bits h 39 32 ≠ (p.rxSeq + 1) % 256 → ∀ on, p.seen < 256 → on < 256 → (p.seen + on) % 256 = bits h 39 32 →
          (1 ≤ on → on ≤ 127 → after (.flitReceive k f) (fun q => q = { p with seen := bits h 39 32 }))
          ∧ (on = 0 ∨ 128 ≤ on → after (.flitReceive k f) (fun q => q = { p with
              seen := bits h 39 32, replays := p.replays + 1, retraining := if 8 ≤ p.replays + 1 then some s.time else none }))))
    ∧ ∀ t0, p.retraining = some t0 →
      (s.time < t0 + 1000000 → after (.linkRetrained k) (fun q => q = { p with retraining := none, seen := p.rxSeq, replays := 0, resends := 0, wire := p.wire ++ p.sent })
        ∧ exec (.linkRetrainTimeout k) s = .next s)
      ∧ (t0 + 1000000 ≤ s.time → after (.linkRetrainTimeout k) (fun q => q = { p with up := false, retraining := none })
        ∧ ∃ t, exec (.linkRetrainTimeout k) s = .next t ∧ t.hub.mevent.getLsbD 3 = true))
  ∧ (∀ (s : State) (r : PeerReq),
    (s.fabric.imports.find? (fun e => e.1 == (r.src, r.asid)) = none → exec (.peerRequest r) s = .next { s with fabric := { s.fabric with
        responses := s.fabric.responses ++ [{ tag := r.tag, status := .permission, mask := 0, words := [] }] } })
    ∧ (∀ asid sec pa rr ww, s.fabric.imports.find? (fun e => e.1 == (r.src, r.asid)) = some ((r.src, r.asid), asid, sec) → s.Cold → pa % 128 = 0 →
        (r.op = .read → s.translate asid (sec && r.secure) true false (128 * r.line) = .ok pa rr ww → (∀ w, w < 32 → s.poisoned (pa + 4 * w) = false) →
          ∃ t x, exec (.peerRequest r) s = .next t ∧ t.fabric.responses = s.fabric.responses ++ [x] ∧ x.tag = r.tag ∧ x.status = .ok
            ∧ x.mask = BitVec.allOnes 128
            ∧ x.words = (List.range 32).map (fun w => s.homeWord (pa / 4 + w)) ∧ s.SameMemory t)
        ∧ (r.op = .store → s.translate asid (sec && r.secure) false true (128 * r.line) = .ok pa rr ww →
          ∃ t x, exec (.peerRequest r) s = .next t ∧ t.fabric.responses = s.fabric.responses ++ [x] ∧ x.tag = r.tag ∧ x.status = .ok
            ∧ (∀ j, j < 128 → readByte t.mem (pa + j) = if r.mask.getLsbD j then BitVec.ofNat 8 ((r.words.getD (j / 4) 0).toNat / 256 ^ (j % 4))
                else readByte s.mem (pa + j))
            ∧ ∀ y, (y < pa ∨ pa + 128 ≤ y) → readByte t.mem y = readByte s.mem y)))
  ∧ (∀ (s : State) (x : PeerResp),
    (cfind s.fabric.outstanding x.tag = none → exec (.peerResponse x) s = .next s)
    ∧ ∀ o st l, cfind s.fabric.outstanding x.tag = some o → o.hub = .none → o.xfer = none → s.strandAt o.strand = some st → s.level st = 0 →
        cfind s.launches (s.team st.team).launch = some l →
        (∀ op tag, x.status = .ok → o.req.op = .atomic op tag → exec (.peerResponse x) s
          = .next { s with
            strands := cput s.strands o.strand { st with peerDone := st.peerDone ++ o.places.zip x.words }
            fabric := { s.fabric with outstanding := cdel s.fabric.outstanding x.tag } })
        ∧ (x.status = .translation ∨ x.status = .permission → l.torn = none →
            ∃ t l', exec (.peerResponse x) s = .next t ∧ cfind t.launches (s.team st.team).launch = some l'
              ∧ l'.torn = some (if x.status = .translation then Cls.translation else .permission))
        ∧ (x.status = .uncorrectable → o.report ≠ none → l.torn = none → ∃ t l', exec (.peerResponse x) s = .next t
            ∧ cfind t.launches (s.team st.team).launch = some l' ∧ l'.torn = some .uncorrectable)
        ∧ (x.status = .uncorrectable → o.report = none → ∃ t, exec (.peerResponse x) s = .next t ∧ ∀ st', t.strandAt o.strand = some st' → st'.run = .killed))
  ∧ (∀ (s : State) (k : Nat) (p : Port), cfind s.fabric.ports k = some p → p.up = true → p.retraining = none →
    (s.fabric.timeSent < s.time / 1000 → ∃ t p' f, exec .timeFlitSend s = .next t ∧ cfind t.fabric.ports k = some p' ∧ p'.sent = p.sent ++ [f]
      ∧ p'.txSeq = (p.txSeq + 1) % 256 ∧ f.length = 64 ∧ flitOk f = true ∧ t.time = s.time ∧ t.fabric.timeSent = s.time / 1000)
    ∧ (s.time / 1000 ≤ s.fabric.timeSent → exec .timeFlitSend s = .next s))
  ∧ (∀ (s : State) (port time delay : Nat) (offset : Int),
    let slews (i : Instr) (x : Int) (q : State → Prop) : Prop := ∃ t, exec i s = .next t ∧ q t
      ∧ (s.fabric.stepped = true ∨ x ≤ 0 → t.time = s.time ∧ t.fabric.slew = x)
      ∧ (s.fabric.stepped = false → 0 < x → (t.time : Int) = s.time + x ∧ t.fabric.slew = 0 ∧ t.fabric.stepped = true)
    let locks : State := { s with fabric := { s.fabric with locked := true } }
    (s.timeMaster = false → slews (.timeFlitReceive port time delay) ((time : Int) + delay - s.time) (fun t =>
        ∀ p, cfind s.fabric.ports port = some p → cfind t.fabric.ports port = some { p with delay := delay }))
    ∧ (s.timeMaster = true → ∃ t, exec (.timeFlitReceive port time delay) s = .next t ∧ t.time = s.time ∧ t.fabric.slew = s.fabric.slew)
    ∧ (s.fabric.timeSource = 1 → if locks.timeMaster = true then slews (.ieee1588Message offset) offset (fun t => t.fabric.locked = true)
        else exec (.ieee1588Message offset) s = .next locks)
    ∧ (s.fabric.timeSource ≠ 1 → exec (.ieee1588Message offset) s = .next s)
    ∧ (s.fabric.timeSource = 2 → if locks.timeMaster = true then slews (.ptmMessage (.time offset)) offset (fun t => t.fabric.locked = true)
        else exec (.ptmMessage (.time offset)) s = .next locks)
    ∧ (s.fabric.timeSource ≠ 2 → exec (.ptmMessage (.time offset)) s = .next s)
    ∧ exec (.ptmMessage .request) s = .next { s with hub := { s.hub with ptm := s.hub.ptm ++ [s.time] } })
  ∧ (∀ (s : State) (id : Nat) (tk : Task) (x : Span) (hs : List (Nat × DWord)), s.unmatched id = some (tk, x) →
    let own := Config.packetHash (hashedBytes tk.packet)
    let mine := hs.filter (fun h => h.1 == tk.launchNo)
    (mine.length ≠ x.ndev → exec (.spanHashCompare id hs) s = .next s)
    ∧ (mine.length = x.ndev → (∀ h ∈ mine, h.2 = own) → s.spanScope x = true →
        exec (.spanHashCompare id hs) s = .next { s with tasks := cput s.tasks id { tk with spanOk := true } })
    ∧ (mine.length = x.ndev → (∃ h ∈ mine, h.2 ≠ own) → ∃ t tk', exec (.spanHashCompare id hs) s = .next t ∧ cfind t.tasks id = some tk'
        ∧ tk'.state = .retiring ∧ tk'.cls = .aborted))
  ∧ (∀ (s : State) (lid n : Nat) (l : Launch), cfind s.launches lid = some l →
    let b := (cfind l.lbars n).getD Barrier.fresh
    let puts (k : PeerBarrier) (b' : Barrier) : Prop := exec (.peerBarrierArrival lid n k) s
      = .next { s with launches := cput s.launches lid { l with lbars := cput l.lbars n b' } }
    puts .phaseComplete { b with phase := b.phase + 1, count := 0 }
    ∧ ((∀ e ∈ s.strands, (s.team e.2.team).launch ≠ lid) → puts .arrival { b with count := b.count + 1 } ∧ puts .gone { b with gone := b.gone + 1 }
      ∧ (∀ p, let n := if b.phase = p then b.count - 1 else b.count
          puts (.goneArrived p) { b with gone := b.gone + 1, count := n }
          ∧ puts (.killedArrived p) { b with gone := b.gone + 1, count := n, abandoned := true })
      ∧ puts .killed { b with gone := b.gone + 1, abandoned := true }))

/-! ### The machine as a whole -/

/-- R61, R70, R205: what a strand holds when it starts, and what the module holds after reset: the invariant, no strand, no cached line. Registers without a reset value in the spec: log 84. -/
def Obligations.StartAndReset : Prop :=
  (∀ (team idx replica slot : Nat) (sched : Bool) (h : Header),
    let st := Strand.start team idx replica sched slot h
    (∀ n, st.getS n = 0) ∧ (∀ n, (st.getV n).tag = .raw ∧ ∀ j, (st.getV n).lane j = 0) ∧ (∀ n, st.getP n = 0) ∧ st.mode = 0 ∧ st.em = 0xFFFFFFFF
    ∧ st.log = [] ∧ st.pc = h.entry ∧ st.flags = 0 ∧ st.trapcause = 0 ∧ st.trappc = 0 ∧ st.trapaddr = 0 ∧ st.trapinfo = 0 ∧ st.epc = 0
    ∧ st.trapvec = BitVec.ofNat 64 h.handler ∧ st.timer = none ∧ st.nodes = [] ∧ st.run = .running ∧ st.crit = false)
  ∧ State.reset.Inv ∧ State.reset.Cold ∧ State.reset.strands = [] ∧ State.reset.launches = [] ∧ State.reset.power.hall = none

/-- R49, R54, R57, R197–R199, R215, R222, R256: a step in which a scheduler's turn comes runs the instruction that the word at the pc of the
strand issued decodes to, or takes the trap of a word that is none; the strand's registers, pc and planes stand as before the issue, and home
memory too. The strand issued is the chosen one, or of those that would meet with it in this cycle the first in the spec's order. A strand that
waits goes on with its own instruction, or takes TIMER, without an issue slot; a moment passes only where no strand can go on; the turn of a
device's event runs that event. Where the schedule names no turn, strands that can go on come first, then the first scheduler that can issue. Model's choices: log 4, which says who moves next where the spec does not, and logs 78 and 88, on the waits that TIMER ends. -/
def Obligations.StepRunsDecoded : Prop :=
  ∀ (s : State) (ts : List Turn),
    let runs (u v : State) (st : Strand) : Prop :=
      (∀ i, decodeWord (u.fetchWord st) = .ok i → step s = exec i v)
      ∧ (∀ e, decodeWord (u.fetchWord st) = .error e → step s = exec (.invalidInstructionWord (u.fetchWord st)) v)
    let issues (u : State) (k : Nat) (st : Strand) : Prop :=
      let e := u.firstToMeet k st
      u.fetchPoisoned e.2 = false →
        ∃ v st', v.cur = e.1 ∧ v.strand? = some st' ∧ st'.pc = e.2.pc ∧ st'.bankA = e.2.bankA ∧ st'.bankB = e.2.bankB ∧ st'.sel = e.2.sel
          ∧ st'.flags = e.2.flags ∧ st'.trapcause = e.2.trapcause ∧ v.mem = u.mem ∧ v.teams = u.teams ∧ v.launches = u.launches
          ∧ v.turns = u.turns ∧ runs u v e.2
    let wakes (u : State) (k : Nat) (st : Strand) : Prop :=
      (u.timerReady st = true → step s = .next (u.takeTimer k st))
      ∧ (u.timerReady st = false → u.fetchPoisoned st = false → runs u { u with cur := k } st)
    let u : State := { s with turns := ts }
    (∀ core sched k st, s.turns = .issue core sched :: ts → u.choose core sched = some (k, st) → u.timerReady st = false → issues u k st)
    ∧ (∀ core sched, s.turns = .issue core sched :: ts → u.choose core sched = none → step s = .next u)
    ∧ (∀ k st, s.turns = .wake k :: ts → u.strandAt k = some st →
        (u.wakeable k st = true → wakes u k st) ∧ (u.wakeable k st = false → step s = .next u))
    ∧ (s.turns = .pass :: ts → u.nextWake = none → u.issueOn (u.busyCores.filter (fun c => u.owed (clusterOf c))) = none → step s = .next u.passTime)
    ∧ (∀ core asid vline word, s.turns = .dropOwner core asid vline word :: ts → step s = .next (u.dropOwner core asid vline word))
    ∧ (∀ e, s.turns = .event e :: ts → step s = exec e { u with cur := 0 })
    ∧ (∀ k st, s.turns = [] → s.nextWake = some (k, st) → wakes s k st)
    ∧ (∀ k st, s.turns = [] → s.nextWake = none → s.nextIssue = some (k, st) → s.timerReady st = false → issues s k st)
    ∧ (s.turns = [] → s.nextWake = none → s.nextIssue = none → step s = .next s.passTime)

/-- R50–R54 and the encodings of the instructions named: words of the spec decode to the instructions they stand for, and words with an unassigned
opcode or a reserved field decode to none. -/
def Obligations.DecodeWords : Prop :=
  decodeWord 0x10010203 = .ok (.add 1 2 3) ∧ decodeWord 0x04050003 = .ok (.brz 5 3) ∧ decodeWord 0x2C010123 = .ok (.li 1 0x123)
  ∧ decodeWord 0x78010203 = .ok (.vld 1 2 false 3) ∧ decodeWord 0xB3050400 = .ok (.xfer 5 4) ∧ decodeWord 0xF0010200 = .ok (.sysrd 1 2)
  ∧ decodeWord 0xE2000002 = .ok (.perf 2) ∧ decodeWord 0xC2020000 = .ok (.tzero 2) ∧ decodeWord 0xD1010249 = .ok (.tvr 1 2 2 9)
  ∧ decodeWord 0xCC040000 = .ok (.tfence 4) ∧ decodeWord 0x40010203 = .ok (.vadd 1 2 3) ∧ decodeWord 0x01000000 = .ok .nop
  ∧ (decodeWord 0x00000000).toOption = none ∧ (decodeWord 0x0F000000).toOption = none ∧ (decodeWord 0x01000001).toOption = none
  ∧ (decodeWord 0x10400000).toOption = none

/-- R50–R54: decode and encode agree: the word of a well-formed instruction decodes to that instruction, with every operand at every value its
field admits; every well-formed instruction but the events of the device, and the term for a word that is none, has a word. -/
def Obligations.CodecRoundTrip : Prop :=
  ∀ (i : Instr), i.wellFormed = true →
    (i.isEvent = false → ∃ w, encode i = some w) ∧ (i.isEvent = true → encode i = none)
    ∧ ∀ w, encode i = some w → decodeWord w = .ok i ∧ decode (bytesOfWord w) = .ok (i, [])

/-- R50–R54: a word has at most one meaning: what a word decodes to is well formed and encodes to that word, so no bit of it is passed over. -/
def Obligations.WordsHaveOneMeaning : Prop :=
  ∀ (i : Instr) (w : Word), decodeWord w = .ok i → i.wellFormed = true ∧ encode i = some w

/-- The invariant of the model (log 1): home memory keeps its canonical form over every step, whatever moves. -/
def Obligations.StepKeepsMemoryCanonical : Prop := ∀ s t : State, s.Inv → step s = .next t → t.Inv
end

