-- ==== Sys2Proof/Laws/Cells.lean ====
section
/-!
SUPPORT. Sparse storage: what a read after a write gives, and that every write keeps the canonical form.
-/
namespace Sys2Proof.Machine

variable {α : Type}

/-! ### Reads of tables -/

@[simp] theorem cfind_nil (k : Nat) : cfind ([] : Cells α) k = none := rfl

theorem cfind_cons (a : Nat) (v : α) (t : Cells α) (k : Nat) :
    cfind ((a, v) :: t) k = if a = k then some v else cfind t k := rfl

/-- A read of two lists put one after the other. -/
theorem cfind_append (l r : Cells α) (k : Nat) : cfind (l ++ r) k = (cfind l k).or (cfind r k) := by
  induction l with
  | nil => simp
  | cons e t ih =>
    obtain ⟨a, v⟩ := e
    by_cases h : a = k
    · simp [cfind_cons, h]
    · simp [cfind_cons, h, ih]

/-- A read of the entries whose index passes a test. -/
theorem cfind_filter (p : Nat → Bool) (m : Cells α) (k : Nat) :
    cfind (m.filter (fun e => p e.1)) k = if p k then cfind m k else none := by
  induction m with
  | nil => simp
  | cons e t ih =>
    obtain ⟨a, v⟩ := e
    by_cases hp : p a
    · by_cases h : a = k
      · subst h; simp [cfind_cons, hp]
      · simp [cfind_cons, h, hp, ih]
    · by_cases h : a = k
      · subst h; simp [hp, ih]
      · simp [cfind_cons, h, hp, ih]

/-- A table after an entry is set. -/
theorem cfind_cput (m : Cells α) (k : Nat) (v : α) (j : Nat) :
    cfind (cput m k v) j = if j = k then some v else cfind m j := by
  have h1 := cfind_filter (fun a => decide (a < k)) m j
  have h2 := cfind_filter (fun a => decide (k < a)) m j
  unfold cput
  rw [cfind_append, cfind_cons, h1, h2]
  by_cases h : j = k
  · subst h; simp
  · rcases Nat.lt_or_gt_of_ne h with hl | hl
    · simp [h, hl, Ne.symm h, Nat.not_lt.mpr (Nat.le_of_lt hl)]
    · simp [h, hl, Ne.symm h, Nat.not_lt.mpr (Nat.le_of_lt hl)]

@[simp] theorem cfind_cput_self (m : Cells α) (k : Nat) (v : α) : cfind (cput m k v) k = some v := by
  simp [cfind_cput]

theorem cfind_cput_ne (m : Cells α) {k j : Nat} (v : α) (h : j ≠ k) : cfind (cput m k v) j = cfind m j := by
  simp [cfind_cput, h]

/-- A table after an entry is removed. -/
theorem cfind_cdel (m : Cells α) (k j : Nat) : cfind (cdel m k) j = if j = k then none else cfind m j := by
  have h := cfind_filter (fun a => decide (a ≠ k)) m j
  unfold cdel
  rw [h]
  by_cases e : j = k <;> simp [e]

/-- A table after every entry is changed. -/
theorem cfind_cmap (f : Nat → α → α) (m : Cells α) (k : Nat) : cfind (cmap f m) k = (cfind m k).map (f k) := by
  induction m with
  | nil => rfl
  | cons e t ih =>
    obtain ⟨a, v⟩ := e
    change cfind ((a, f a v) :: cmap f t) k = _
    by_cases h : a = k
    · subst h; simp [cfind_cons]
    · simp [cfind_cons, h, ih]

/-- A read of consecutive entries. -/
theorem cfind_cspan [DecidableEq α] (d : α) (lo : Nat) (vs : List α) (k : Nat) :
    cfind (cspan d lo vs) k = if lo ≤ k then (vs[k - lo]?).filter (fun v => decide (v ≠ d)) else none := by
  induction vs generalizing lo with
  | nil => simp [cspan]
  | cons v t ih =>
    unfold cspan
    by_cases hk : lo = k
    · subst hk
      by_cases hv : v = d
      · simp [hv, ih, Option.filter, Nat.not_succ_le_self]
      · simp [hv, cfind_cons, Option.filter]
    · by_cases hl : lo + 1 ≤ k
      · have e : k - lo = (k - (lo + 1)) + 1 := by omega
        have hle : lo ≤ k := by omega
        by_cases hv : v = d
        · simp only [hv, if_true, ih, hl, hle, e, List.getElem?_cons_succ]
        · simp only [hv, if_false, cfind_cons, hk, ih, hl, hle, if_true, e, List.getElem?_cons_succ]
      · have hle : ¬ lo ≤ k := by omega
        by_cases hv : v = d
        · simp only [hv, if_true, ih, hl, hle, if_false]
        · simp only [hv, if_false, cfind_cons, hk, ih, hl, hle]

/-- A store after consecutive values are written: the values there, what was read elsewhere. -/
theorem cget_csetRange [DecidableEq α] (d : α) (m : Cells α) (lo : Nat) (vs : List α) (k : Nat) :
    cget d (csetRange d m lo vs) k = if lo ≤ k ∧ k < lo + vs.length then vs.getD (k - lo) d else cget d m k := by
  have h1 := cfind_filter (fun a => decide (a < lo)) m k
  have h2 := cfind_filter (fun a => decide (lo + vs.length ≤ a)) m k
  unfold cget csetRange
  rw [cfind_append, cfind_append, h1, h2, cfind_cspan]
  by_cases hlt : k < lo
  · have a1 : ¬ lo ≤ k := by omega
    have a2 : ¬ lo + vs.length ≤ k := by omega
    simp [hlt, a1, a2]
  · have a1 : lo ≤ k := by omega
    by_cases hhi : k < lo + vs.length
    · have a2 : ¬ lo + vs.length ≤ k := by omega
      have a3 : k - lo < vs.length := by omega
      simp only [hlt, a1, a2, hhi, decide_false, if_true, Bool.false_eq_true, if_false, Option.none_or,
        Option.or_none, and_self, List.getElem?_eq_getElem a3, List.getD_eq_getElem?_getD, Option.getD_some]
      by_cases hv : vs[k - lo] = d
      · simp [Option.filter, hv]
      · simp [Option.filter, hv]
    · have a2 : lo + vs.length ≤ k := by omega
      have a3 : vs[k - lo]? = none := List.getElem?_eq_none (by omega)
      simp [hlt, a2, hhi, a3]

/-- A store after one value is written. -/
theorem cget_cset [DecidableEq α] (d : α) (m : Cells α) (k : Nat) (v : α) (j : Nat) :
    cget d (cset d m k v) j = if j = k then v else cget d m j := by
  unfold cset
  rw [cget_csetRange]
  by_cases h : j = k
  · subst h; simp
  · have : ¬ (k ≤ j ∧ j < k + [v].length) := by simp only [List.length_cons, List.length_nil]; omega
    rw [if_neg this, if_neg h]

@[simp] theorem cget_cset_self [DecidableEq α] (d : α) (m : Cells α) (k : Nat) (v : α) : cget d (cset d m k v) k = v := by
  simp [cget_cset]

theorem cget_cset_ne [DecidableEq α] (d : α) (m : Cells α) {k j : Nat} (v : α) (h : j ≠ k) :
    cget d (cset d m k v) j = cget d m j := by simp [cget_cset, h]

/-! ### The canonical form -/

/-- Rising indices, as pairs. -/
theorem rising_iff (m : Cells α) : rising m = true ↔ m.Pairwise (fun x y => x.1 < y.1) := by
  induction m with
  | nil => simp [rising]
  | cons e t ih =>
    cases t with
    | nil => simp [rising]
    | cons f u =>
      obtain ⟨a, v⟩ := e
      obtain ⟨b, w⟩ := f
      simp only [rising, Bool.and_eq_true, decide_eq_true_eq, ih]
      constructor
      · rintro ⟨hab, hp⟩
        refine List.Pairwise.cons ?_ hp
        intro y hy
        rcases List.mem_cons.mp hy with rfl | hy
        · exact hab
        · exact Nat.lt_trans hab (List.rel_of_pairwise_cons hp hy)
      · intro hp
        exact ⟨List.rel_of_pairwise_cons hp (a' := (b, w)) (by simp), hp.of_cons⟩

/-- The canonical form, as indices rising and no default listed. -/
theorem canonical_iff [DecidableEq α] (d : α) (m : Cells α) :
    canonical d m = true ↔ m.Pairwise (fun x y => x.1 < y.1) ∧ ∀ e ∈ m, e.2 ≠ d := by
  simp [canonical, rising_iff, List.all_eq_true]

@[simp] theorem canonical_nil [DecidableEq α] (d : α) : canonical d ([] : Cells α) = true := rfl

/-- A filtered store is canonical. -/
theorem canonical_filter [DecidableEq α] (d : α) (m : Cells α) (p : Nat × α → Bool) (h : canonical d m = true) :
    canonical d (m.filter p) = true := by
  rw [canonical_iff] at h ⊢
  exact ⟨h.1.filter p, fun e he => h.2 e (List.mem_filter.mp he).1⟩

/-- Consecutive entries are canonical, and their indices lie in their range. -/
theorem canonical_cspan [DecidableEq α] (d : α) (lo : Nat) (vs : List α) :
    canonical d (cspan d lo vs) = true ∧ ∀ e ∈ cspan d lo vs, lo ≤ e.1 ∧ e.1 < lo + vs.length := by
  induction vs generalizing lo with
  | nil => simp [cspan]
  | cons v t ih =>
    obtain ⟨hc, hr⟩ := ih (lo + 1)
    rw [canonical_iff] at hc
    unfold cspan
    split
    · refine ⟨(canonical_iff d _).mpr hc, fun e he => ?_⟩
      have := hr e he
      simp only [List.length_cons]
      omega
    · rename_i hv
      refine ⟨(canonical_iff d _).mpr ⟨List.Pairwise.cons (fun y hy => ?_) hc.1, fun e he => ?_⟩, fun e he => ?_⟩
      · have := hr y hy
        change lo < y.1
        omega
      · rcases List.mem_cons.mp he with rfl | he
        · exact hv
        · exact hc.2 e he
      · rcases List.mem_cons.mp he with rfl | he
        · simp
        · have := hr e he
          simp only [List.length_cons]
          omega

/-- A write of consecutive values keeps the canonical form. -/
theorem canonical_csetRange [DecidableEq α] (d : α) (m : Cells α) (lo : Nat) (vs : List α) (h : canonical d m = true) :
    canonical d (csetRange d m lo vs) = true := by
  obtain ⟨hs, hr⟩ := canonical_cspan d lo vs
  rw [canonical_iff] at h hs ⊢
  unfold csetRange
  constructor
  · refine List.pairwise_append.mpr ⟨h.1.filter _, List.pairwise_append.mpr ⟨hs.1, h.1.filter _, fun x hx y hy => ?_⟩, fun x hx y hy => ?_⟩
    · have hy := of_decide_eq_true (List.mem_filter.mp hy).2
      have := hr x hx
      omega
    · have hx := of_decide_eq_true (List.mem_filter.mp hx).2
      rcases List.mem_append.mp hy with hy | hy
      · have := hr y hy
        omega
      · have hy := of_decide_eq_true (List.mem_filter.mp hy).2
        omega
  · intro e he
    rcases List.mem_append.mp he with he | he
    · exact h.2 e (List.mem_filter.mp he).1
    · rcases List.mem_append.mp he with he | he
      · exact hs.2 e he
      · exact h.2 e (List.mem_filter.mp he).1

/-- A write of one value keeps the canonical form. -/
theorem canonical_cset [DecidableEq α] (d : α) (m : Cells α) (k : Nat) (v : α) (h : canonical d m = true) :
    canonical d (cset d m k v) = true := canonical_csetRange d m k [v] h

/-- Setting an entry keeps a table's indices rising. -/
theorem rising_cput (m : Cells α) (k : Nat) (v : α) (h : rising m = true) : rising (cput m k v) = true := by
  rw [rising_iff] at h ⊢
  unfold cput
  refine List.pairwise_append.mpr ⟨h.filter _, List.Pairwise.cons (fun y hy => ?_) (h.filter _), fun x hx y hy => ?_⟩
  · exact of_decide_eq_true (List.mem_filter.mp hy).2
  · have hx := of_decide_eq_true (List.mem_filter.mp hx).2
    rcases List.mem_cons.mp hy with rfl | hy
    · exact hx
    · have hy := of_decide_eq_true (List.mem_filter.mp hy).2
      omega

/-- Removing an entry keeps a table's indices rising. -/
theorem rising_cdel (m : Cells α) (k : Nat) (h : rising m = true) : rising (cdel m k) = true := by
  rw [rising_iff] at h ⊢
  exact h.filter _

/-! ### Bytes -/

/-- A byte after bytes are written. -/
theorem readByte_writeBytes (m : Bytes) (a : Nat) (bs : List Byte) (k : Nat) :
    readByte (writeBytes m a bs) k = if a ≤ k ∧ k < a + bs.length then bs.getD (k - a) unlistedByte else readByte m k :=
  cget_csetRange unlistedByte m a bs k

/-- A byte outside the written ones reads as before. -/
theorem readByte_writeBytes_outside (m : Bytes) {a k : Nat} (bs : List Byte) (h : k < a ∨ a + bs.length ≤ k) :
    readByte (writeBytes m a bs) k = readByte m k := by
  rw [readByte_writeBytes, if_neg (by omega)]

@[simp] theorem leBytes_length (n v : Nat) : (leBytes n v).length = n := by simp [leBytes]

/-- A byte outside a written word reads as before. -/
theorem readByte_writeWord_outside (m : Bytes) {a k : Nat} (w : Word) (h : k < a ∨ a + 4 ≤ k) :
    readByte (writeWord m a w) k = readByte m k := by
  unfold writeWord
  exact readByte_writeBytes_outside m _ (by simpa using h)

/-- A word read where it was written. -/
theorem readWord_writeWord (m : Bytes) (a : Nat) (w : Word) : readWord (writeWord m a w) a = w := by
  have hb : ∀ i, i < 4 → readByte (writeWord m a w) (a + i) = BitVec.ofNat 8 (w.toNat / 256 ^ i) := by
    intro i hi
    unfold writeWord
    rw [readByte_writeBytes, if_pos (by simp; omega)]
    have e : a + i - a = i := by omega
    rw [e]
    simp only [leBytes, List.getD_eq_getElem?_getD, List.getElem?_map, List.getElem?_range hi, Option.map_some, Option.getD_some]
  have r : List.range 4 = [0, 1, 2, 3] := rfl
  apply BitVec.eq_of_toNat_eq
  unfold readWord readBytes
  rw [r]
  simp only [List.map_cons, List.map_nil, hb 0 (by omega), hb 1 (by omega), hb 2 (by omega), hb 3 (by omega), leNat,
    BitVec.toNat_ofNat]
  have := w.isLt
  rw [show (2:Nat)^8 = 256 from rfl, show (2:Nat)^32 = 4294967296 from rfl, show (256:Nat)^0 = 1 from rfl,
    show (256:Nat)^2 = 65536 from rfl, show (256:Nat)^3 = 16777216 from rfl]
  omega

/-- Writing bytes keeps the memory's canonical form. -/
theorem wf_writeBytes (m : Bytes) (a : Nat) (bs : List Byte) (h : Memory.wf m = true) :
    Memory.wf (writeBytes m a bs) = true := canonical_csetRange unlistedByte m a bs h

/-- Writing a word keeps the memory's canonical form. -/
theorem wf_writeWord (m : Bytes) (a : Nat) (w : Word) (h : Memory.wf m = true) :
    Memory.wf (writeWord m a w) = true := wf_writeBytes m a _ h

end Sys2Proof.Machine
end

