-- ==== Sys2Proof/Laws/State.lean ====
section
/-!
SUPPORT. What each update of the state leaves of each of its fields, and what each update of a strand leaves of its registers.
-/
namespace Sys2Proof.Machine

set_option Elab.async false

/-! ### Updates of the state -/

@[simp] theorem State.putStrandAt_turns (s : State) (i : Nat) (st : Strand) : (s.putStrandAt i st).turns = s.turns := rfl
@[simp] theorem State.putStrandAt_fresh (s : State) (i : Nat) (st : Strand) : (s.putStrandAt i st).fresh = s.fresh := rfl
@[simp] theorem State.putStrandAt_time (s : State) (i : Nat) (st : Strand) : (s.putStrandAt i st).time = s.time := rfl
@[simp] theorem State.putStrandAt_cur (s : State) (i : Nat) (st : Strand) : (s.putStrandAt i st).cur = s.cur := rfl
@[simp] theorem State.putStrandAt_nextId (s : State) (i : Nat) (st : Strand) : (s.putStrandAt i st).nextId = s.nextId := rfl
@[simp] theorem State.putStrandAt_teams (s : State) (i : Nat) (st : Strand) : (s.putStrandAt i st).teams = s.teams := rfl
@[simp] theorem State.putStrandAt_gangs (s : State) (i : Nat) (st : Strand) : (s.putStrandAt i st).gangs = s.gangs := rfl
@[simp] theorem State.putStrandAt_launches (s : State) (i : Nat) (st : Strand) : (s.putStrandAt i st).launches = s.launches := rfl
@[simp] theorem State.putStrandAt_ropes (s : State) (i : Nat) (st : Strand) : (s.putStrandAt i st).ropes = s.ropes := rfl
@[simp] theorem State.putStrandAt_tasks (s : State) (i : Nat) (st : Strand) : (s.putStrandAt i st).tasks = s.tasks := rfl
@[simp] theorem State.putStrandAt_queues (s : State) (i : Nat) (st : Strand) : (s.putStrandAt i st).queues = s.queues := rfl
@[simp] theorem State.putStrandAt_cores (s : State) (i : Nat) (st : Strand) : (s.putStrandAt i st).cores = s.cores := rfl
@[simp] theorem State.putStrandAt_clusters (s : State) (i : Nat) (st : Strand) : (s.putStrandAt i st).clusters = s.clusters := rfl
@[simp] theorem State.putStrandAt_parts (s : State) (i : Nat) (st : Strand) : (s.putStrandAt i st).parts = s.parts := rfl
@[simp] theorem State.putStrandAt_mem (s : State) (i : Nat) (st : Strand) : (s.putStrandAt i st).mem = s.mem := rfl
@[simp] theorem State.putStrandAt_poison (s : State) (i : Nat) (st : Strand) : (s.putStrandAt i st).poison = s.poison := rfl
@[simp] theorem State.putStrandAt_secure (s : State) (i : Nat) (st : Strand) : (s.putStrandAt i st).secure = s.secure := rfl
@[simp] theorem State.putStrandAt_assigned (s : State) (i : Nat) (st : Strand) : (s.putStrandAt i st).assigned = s.assigned := rfl
@[simp] theorem State.putStrandAt_pages (s : State) (i : Nat) (st : Strand) : (s.putStrandAt i st).pages = s.pages := rfl
@[simp] theorem State.putStrandAt_hub (s : State) (i : Nat) (st : Strand) : (s.putStrandAt i st).hub = s.hub := rfl
@[simp] theorem State.putStrandAt_tdisp (s : State) (i : Nat) (st : Strand) : (s.putStrandAt i st).tdisp = s.tdisp := rfl
@[simp] theorem State.putStrandAt_power (s : State) (i : Nat) (st : Strand) : (s.putStrandAt i st).power = s.power := rfl
@[simp] theorem State.putStrandAt_boot (s : State) (i : Nat) (st : Strand) : (s.putStrandAt i st).boot = s.boot := rfl
@[simp] theorem State.putStrandAt_fabric (s : State) (i : Nat) (st : Strand) : (s.putStrandAt i st).fabric = s.fabric := rfl

@[simp] theorem State.putStrand_turns (s : State) (st : Strand) : (s.putStrand st).turns = s.turns := rfl
@[simp] theorem State.putStrand_fresh (s : State) (st : Strand) : (s.putStrand st).fresh = s.fresh := rfl
@[simp] theorem State.putStrand_time (s : State) (st : Strand) : (s.putStrand st).time = s.time := rfl
@[simp] theorem State.putStrand_cur (s : State) (st : Strand) : (s.putStrand st).cur = s.cur := rfl
@[simp] theorem State.putStrand_nextId (s : State) (st : Strand) : (s.putStrand st).nextId = s.nextId := rfl
@[simp] theorem State.putStrand_teams (s : State) (st : Strand) : (s.putStrand st).teams = s.teams := rfl
@[simp] theorem State.putStrand_gangs (s : State) (st : Strand) : (s.putStrand st).gangs = s.gangs := rfl
@[simp] theorem State.putStrand_launches (s : State) (st : Strand) : (s.putStrand st).launches = s.launches := rfl
@[simp] theorem State.putStrand_ropes (s : State) (st : Strand) : (s.putStrand st).ropes = s.ropes := rfl
@[simp] theorem State.putStrand_tasks (s : State) (st : Strand) : (s.putStrand st).tasks = s.tasks := rfl
@[simp] theorem State.putStrand_queues (s : State) (st : Strand) : (s.putStrand st).queues = s.queues := rfl
@[simp] theorem State.putStrand_cores (s : State) (st : Strand) : (s.putStrand st).cores = s.cores := rfl
@[simp] theorem State.putStrand_clusters (s : State) (st : Strand) : (s.putStrand st).clusters = s.clusters := rfl
@[simp] theorem State.putStrand_parts (s : State) (st : Strand) : (s.putStrand st).parts = s.parts := rfl
@[simp] theorem State.putStrand_mem (s : State) (st : Strand) : (s.putStrand st).mem = s.mem := rfl
@[simp] theorem State.putStrand_poison (s : State) (st : Strand) : (s.putStrand st).poison = s.poison := rfl
@[simp] theorem State.putStrand_secure (s : State) (st : Strand) : (s.putStrand st).secure = s.secure := rfl
@[simp] theorem State.putStrand_assigned (s : State) (st : Strand) : (s.putStrand st).assigned = s.assigned := rfl
@[simp] theorem State.putStrand_pages (s : State) (st : Strand) : (s.putStrand st).pages = s.pages := rfl
@[simp] theorem State.putStrand_hub (s : State) (st : Strand) : (s.putStrand st).hub = s.hub := rfl
@[simp] theorem State.putStrand_tdisp (s : State) (st : Strand) : (s.putStrand st).tdisp = s.tdisp := rfl
@[simp] theorem State.putStrand_power (s : State) (st : Strand) : (s.putStrand st).power = s.power := rfl
@[simp] theorem State.putStrand_boot (s : State) (st : Strand) : (s.putStrand st).boot = s.boot := rfl
@[simp] theorem State.putStrand_fabric (s : State) (st : Strand) : (s.putStrand st).fabric = s.fabric := rfl

@[simp] theorem State.putCore_turns (s : State) (i : Nat) (c : Core) : (s.putCore i c).turns = s.turns := rfl
@[simp] theorem State.putCore_fresh (s : State) (i : Nat) (c : Core) : (s.putCore i c).fresh = s.fresh := rfl
@[simp] theorem State.putCore_time (s : State) (i : Nat) (c : Core) : (s.putCore i c).time = s.time := rfl
@[simp] theorem State.putCore_cur (s : State) (i : Nat) (c : Core) : (s.putCore i c).cur = s.cur := rfl
@[simp] theorem State.putCore_nextId (s : State) (i : Nat) (c : Core) : (s.putCore i c).nextId = s.nextId := rfl
@[simp] theorem State.putCore_strands (s : State) (i : Nat) (c : Core) : (s.putCore i c).strands = s.strands := rfl
@[simp] theorem State.putCore_teams (s : State) (i : Nat) (c : Core) : (s.putCore i c).teams = s.teams := rfl
@[simp] theorem State.putCore_gangs (s : State) (i : Nat) (c : Core) : (s.putCore i c).gangs = s.gangs := rfl
@[simp] theorem State.putCore_launches (s : State) (i : Nat) (c : Core) : (s.putCore i c).launches = s.launches := rfl
@[simp] theorem State.putCore_ropes (s : State) (i : Nat) (c : Core) : (s.putCore i c).ropes = s.ropes := rfl
@[simp] theorem State.putCore_tasks (s : State) (i : Nat) (c : Core) : (s.putCore i c).tasks = s.tasks := rfl
@[simp] theorem State.putCore_queues (s : State) (i : Nat) (c : Core) : (s.putCore i c).queues = s.queues := rfl
@[simp] theorem State.putCore_clusters (s : State) (i : Nat) (c : Core) : (s.putCore i c).clusters = s.clusters := rfl
@[simp] theorem State.putCore_parts (s : State) (i : Nat) (c : Core) : (s.putCore i c).parts = s.parts := rfl
@[simp] theorem State.putCore_mem (s : State) (i : Nat) (c : Core) : (s.putCore i c).mem = s.mem := rfl
@[simp] theorem State.putCore_poison (s : State) (i : Nat) (c : Core) : (s.putCore i c).poison = s.poison := rfl
@[simp] theorem State.putCore_secure (s : State) (i : Nat) (c : Core) : (s.putCore i c).secure = s.secure := rfl
@[simp] theorem State.putCore_assigned (s : State) (i : Nat) (c : Core) : (s.putCore i c).assigned = s.assigned := rfl
@[simp] theorem State.putCore_pages (s : State) (i : Nat) (c : Core) : (s.putCore i c).pages = s.pages := rfl
@[simp] theorem State.putCore_hub (s : State) (i : Nat) (c : Core) : (s.putCore i c).hub = s.hub := rfl
@[simp] theorem State.putCore_tdisp (s : State) (i : Nat) (c : Core) : (s.putCore i c).tdisp = s.tdisp := rfl
@[simp] theorem State.putCore_power (s : State) (i : Nat) (c : Core) : (s.putCore i c).power = s.power := rfl
@[simp] theorem State.putCore_boot (s : State) (i : Nat) (c : Core) : (s.putCore i c).boot = s.boot := rfl
@[simp] theorem State.putCore_fabric (s : State) (i : Nat) (c : Core) : (s.putCore i c).fabric = s.fabric := rfl

@[simp] theorem State.onCore_turns (s : State) (i : Nat) (f : Core → Core) : (s.onCore i f).turns = s.turns := rfl
@[simp] theorem State.onCore_fresh (s : State) (i : Nat) (f : Core → Core) : (s.onCore i f).fresh = s.fresh := rfl
@[simp] theorem State.onCore_time (s : State) (i : Nat) (f : Core → Core) : (s.onCore i f).time = s.time := rfl
@[simp] theorem State.onCore_cur (s : State) (i : Nat) (f : Core → Core) : (s.onCore i f).cur = s.cur := rfl
@[simp] theorem State.onCore_nextId (s : State) (i : Nat) (f : Core → Core) : (s.onCore i f).nextId = s.nextId := rfl
@[simp] theorem State.onCore_strands (s : State) (i : Nat) (f : Core → Core) : (s.onCore i f).strands = s.strands := rfl
@[simp] theorem State.onCore_teams (s : State) (i : Nat) (f : Core → Core) : (s.onCore i f).teams = s.teams := rfl
@[simp] theorem State.onCore_gangs (s : State) (i : Nat) (f : Core → Core) : (s.onCore i f).gangs = s.gangs := rfl
@[simp] theorem State.onCore_launches (s : State) (i : Nat) (f : Core → Core) : (s.onCore i f).launches = s.launches := rfl
@[simp] theorem State.onCore_ropes (s : State) (i : Nat) (f : Core → Core) : (s.onCore i f).ropes = s.ropes := rfl
@[simp] theorem State.onCore_tasks (s : State) (i : Nat) (f : Core → Core) : (s.onCore i f).tasks = s.tasks := rfl
@[simp] theorem State.onCore_queues (s : State) (i : Nat) (f : Core → Core) : (s.onCore i f).queues = s.queues := rfl
@[simp] theorem State.onCore_clusters (s : State) (i : Nat) (f : Core → Core) : (s.onCore i f).clusters = s.clusters := rfl
@[simp] theorem State.onCore_parts (s : State) (i : Nat) (f : Core → Core) : (s.onCore i f).parts = s.parts := rfl
@[simp] theorem State.onCore_mem (s : State) (i : Nat) (f : Core → Core) : (s.onCore i f).mem = s.mem := rfl
@[simp] theorem State.onCore_poison (s : State) (i : Nat) (f : Core → Core) : (s.onCore i f).poison = s.poison := rfl
@[simp] theorem State.onCore_secure (s : State) (i : Nat) (f : Core → Core) : (s.onCore i f).secure = s.secure := rfl
@[simp] theorem State.onCore_assigned (s : State) (i : Nat) (f : Core → Core) : (s.onCore i f).assigned = s.assigned := rfl
@[simp] theorem State.onCore_pages (s : State) (i : Nat) (f : Core → Core) : (s.onCore i f).pages = s.pages := rfl
@[simp] theorem State.onCore_hub (s : State) (i : Nat) (f : Core → Core) : (s.onCore i f).hub = s.hub := rfl
@[simp] theorem State.onCore_tdisp (s : State) (i : Nat) (f : Core → Core) : (s.onCore i f).tdisp = s.tdisp := rfl
@[simp] theorem State.onCore_power (s : State) (i : Nat) (f : Core → Core) : (s.onCore i f).power = s.power := rfl
@[simp] theorem State.onCore_boot (s : State) (i : Nat) (f : Core → Core) : (s.onCore i f).boot = s.boot := rfl
@[simp] theorem State.onCore_fabric (s : State) (i : Nat) (f : Core → Core) : (s.onCore i f).fabric = s.fabric := rfl

@[simp] theorem State.onCluster_turns (s : State) (i : Nat) (f : Cluster → Cluster) : (s.onCluster i f).turns = s.turns := rfl
@[simp] theorem State.onCluster_fresh (s : State) (i : Nat) (f : Cluster → Cluster) : (s.onCluster i f).fresh = s.fresh := rfl
@[simp] theorem State.onCluster_time (s : State) (i : Nat) (f : Cluster → Cluster) : (s.onCluster i f).time = s.time := rfl
@[simp] theorem State.onCluster_cur (s : State) (i : Nat) (f : Cluster → Cluster) : (s.onCluster i f).cur = s.cur := rfl
@[simp] theorem State.onCluster_nextId (s : State) (i : Nat) (f : Cluster → Cluster) : (s.onCluster i f).nextId = s.nextId := rfl
@[simp] theorem State.onCluster_strands (s : State) (i : Nat) (f : Cluster → Cluster) : (s.onCluster i f).strands = s.strands := rfl
@[simp] theorem State.onCluster_teams (s : State) (i : Nat) (f : Cluster → Cluster) : (s.onCluster i f).teams = s.teams := rfl
@[simp] theorem State.onCluster_gangs (s : State) (i : Nat) (f : Cluster → Cluster) : (s.onCluster i f).gangs = s.gangs := rfl
@[simp] theorem State.onCluster_launches (s : State) (i : Nat) (f : Cluster → Cluster) : (s.onCluster i f).launches = s.launches := rfl
@[simp] theorem State.onCluster_ropes (s : State) (i : Nat) (f : Cluster → Cluster) : (s.onCluster i f).ropes = s.ropes := rfl
@[simp] theorem State.onCluster_tasks (s : State) (i : Nat) (f : Cluster → Cluster) : (s.onCluster i f).tasks = s.tasks := rfl
@[simp] theorem State.onCluster_queues (s : State) (i : Nat) (f : Cluster → Cluster) : (s.onCluster i f).queues = s.queues := rfl
@[simp] theorem State.onCluster_cores (s : State) (i : Nat) (f : Cluster → Cluster) : (s.onCluster i f).cores = s.cores := rfl
@[simp] theorem State.onCluster_parts (s : State) (i : Nat) (f : Cluster → Cluster) : (s.onCluster i f).parts = s.parts := rfl
@[simp] theorem State.onCluster_mem (s : State) (i : Nat) (f : Cluster → Cluster) : (s.onCluster i f).mem = s.mem := rfl
@[simp] theorem State.onCluster_poison (s : State) (i : Nat) (f : Cluster → Cluster) : (s.onCluster i f).poison = s.poison := rfl
@[simp] theorem State.onCluster_secure (s : State) (i : Nat) (f : Cluster → Cluster) : (s.onCluster i f).secure = s.secure := rfl
@[simp] theorem State.onCluster_assigned (s : State) (i : Nat) (f : Cluster → Cluster) : (s.onCluster i f).assigned = s.assigned := rfl
@[simp] theorem State.onCluster_pages (s : State) (i : Nat) (f : Cluster → Cluster) : (s.onCluster i f).pages = s.pages := rfl
@[simp] theorem State.onCluster_hub (s : State) (i : Nat) (f : Cluster → Cluster) : (s.onCluster i f).hub = s.hub := rfl
@[simp] theorem State.onCluster_tdisp (s : State) (i : Nat) (f : Cluster → Cluster) : (s.onCluster i f).tdisp = s.tdisp := rfl
@[simp] theorem State.onCluster_power (s : State) (i : Nat) (f : Cluster → Cluster) : (s.onCluster i f).power = s.power := rfl
@[simp] theorem State.onCluster_boot (s : State) (i : Nat) (f : Cluster → Cluster) : (s.onCluster i f).boot = s.boot := rfl
@[simp] theorem State.onCluster_fabric (s : State) (i : Nat) (f : Cluster → Cluster) : (s.onCluster i f).fabric = s.fabric := rfl

@[simp] theorem State.onQueue_turns (s : State) (i : Nat) (f : Queue → Queue) : (s.onQueue i f).turns = s.turns := rfl
@[simp] theorem State.onQueue_fresh (s : State) (i : Nat) (f : Queue → Queue) : (s.onQueue i f).fresh = s.fresh := rfl
@[simp] theorem State.onQueue_time (s : State) (i : Nat) (f : Queue → Queue) : (s.onQueue i f).time = s.time := rfl
@[simp] theorem State.onQueue_cur (s : State) (i : Nat) (f : Queue → Queue) : (s.onQueue i f).cur = s.cur := rfl
@[simp] theorem State.onQueue_nextId (s : State) (i : Nat) (f : Queue → Queue) : (s.onQueue i f).nextId = s.nextId := rfl
@[simp] theorem State.onQueue_strands (s : State) (i : Nat) (f : Queue → Queue) : (s.onQueue i f).strands = s.strands := rfl
@[simp] theorem State.onQueue_teams (s : State) (i : Nat) (f : Queue → Queue) : (s.onQueue i f).teams = s.teams := rfl
@[simp] theorem State.onQueue_gangs (s : State) (i : Nat) (f : Queue → Queue) : (s.onQueue i f).gangs = s.gangs := rfl
@[simp] theorem State.onQueue_launches (s : State) (i : Nat) (f : Queue → Queue) : (s.onQueue i f).launches = s.launches := rfl
@[simp] theorem State.onQueue_ropes (s : State) (i : Nat) (f : Queue → Queue) : (s.onQueue i f).ropes = s.ropes := rfl
@[simp] theorem State.onQueue_tasks (s : State) (i : Nat) (f : Queue → Queue) : (s.onQueue i f).tasks = s.tasks := rfl
@[simp] theorem State.onQueue_cores (s : State) (i : Nat) (f : Queue → Queue) : (s.onQueue i f).cores = s.cores := rfl
@[simp] theorem State.onQueue_clusters (s : State) (i : Nat) (f : Queue → Queue) : (s.onQueue i f).clusters = s.clusters := rfl
@[simp] theorem State.onQueue_parts (s : State) (i : Nat) (f : Queue → Queue) : (s.onQueue i f).parts = s.parts := rfl
@[simp] theorem State.onQueue_mem (s : State) (i : Nat) (f : Queue → Queue) : (s.onQueue i f).mem = s.mem := rfl
@[simp] theorem State.onQueue_poison (s : State) (i : Nat) (f : Queue → Queue) : (s.onQueue i f).poison = s.poison := rfl
@[simp] theorem State.onQueue_secure (s : State) (i : Nat) (f : Queue → Queue) : (s.onQueue i f).secure = s.secure := rfl
@[simp] theorem State.onQueue_assigned (s : State) (i : Nat) (f : Queue → Queue) : (s.onQueue i f).assigned = s.assigned := rfl
@[simp] theorem State.onQueue_pages (s : State) (i : Nat) (f : Queue → Queue) : (s.onQueue i f).pages = s.pages := rfl
@[simp] theorem State.onQueue_hub (s : State) (i : Nat) (f : Queue → Queue) : (s.onQueue i f).hub = s.hub := rfl
@[simp] theorem State.onQueue_tdisp (s : State) (i : Nat) (f : Queue → Queue) : (s.onQueue i f).tdisp = s.tdisp := rfl
@[simp] theorem State.onQueue_power (s : State) (i : Nat) (f : Queue → Queue) : (s.onQueue i f).power = s.power := rfl
@[simp] theorem State.onQueue_boot (s : State) (i : Nat) (f : Queue → Queue) : (s.onQueue i f).boot = s.boot := rfl
@[simp] theorem State.onQueue_fabric (s : State) (i : Nat) (f : Queue → Queue) : (s.onQueue i f).fabric = s.fabric := rfl

@[simp] theorem State.addCharge_turns (s : State) (k n : Nat) : (s.addCharge k n).turns = s.turns := rfl
@[simp] theorem State.addCharge_fresh (s : State) (k n : Nat) : (s.addCharge k n).fresh = s.fresh := rfl
@[simp] theorem State.addCharge_time (s : State) (k n : Nat) : (s.addCharge k n).time = s.time := rfl
@[simp] theorem State.addCharge_cur (s : State) (k n : Nat) : (s.addCharge k n).cur = s.cur := rfl
@[simp] theorem State.addCharge_nextId (s : State) (k n : Nat) : (s.addCharge k n).nextId = s.nextId := rfl
@[simp] theorem State.addCharge_strands (s : State) (k n : Nat) : (s.addCharge k n).strands = s.strands := rfl
@[simp] theorem State.addCharge_teams (s : State) (k n : Nat) : (s.addCharge k n).teams = s.teams := rfl
@[simp] theorem State.addCharge_gangs (s : State) (k n : Nat) : (s.addCharge k n).gangs = s.gangs := rfl
@[simp] theorem State.addCharge_launches (s : State) (k n : Nat) : (s.addCharge k n).launches = s.launches := rfl
@[simp] theorem State.addCharge_ropes (s : State) (k n : Nat) : (s.addCharge k n).ropes = s.ropes := rfl
@[simp] theorem State.addCharge_tasks (s : State) (k n : Nat) : (s.addCharge k n).tasks = s.tasks := rfl
@[simp] theorem State.addCharge_queues (s : State) (k n : Nat) : (s.addCharge k n).queues = s.queues := rfl
@[simp] theorem State.addCharge_cores (s : State) (k n : Nat) : (s.addCharge k n).cores = s.cores := rfl
@[simp] theorem State.addCharge_parts (s : State) (k n : Nat) : (s.addCharge k n).parts = s.parts := rfl
@[simp] theorem State.addCharge_mem (s : State) (k n : Nat) : (s.addCharge k n).mem = s.mem := rfl
@[simp] theorem State.addCharge_poison (s : State) (k n : Nat) : (s.addCharge k n).poison = s.poison := rfl
@[simp] theorem State.addCharge_secure (s : State) (k n : Nat) : (s.addCharge k n).secure = s.secure := rfl
@[simp] theorem State.addCharge_assigned (s : State) (k n : Nat) : (s.addCharge k n).assigned = s.assigned := rfl
@[simp] theorem State.addCharge_pages (s : State) (k n : Nat) : (s.addCharge k n).pages = s.pages := rfl
@[simp] theorem State.addCharge_hub (s : State) (k n : Nat) : (s.addCharge k n).hub = s.hub := rfl
@[simp] theorem State.addCharge_tdisp (s : State) (k n : Nat) : (s.addCharge k n).tdisp = s.tdisp := rfl
@[simp] theorem State.addCharge_power (s : State) (k n : Nat) : (s.addCharge k n).power = s.power := rfl
@[simp] theorem State.addCharge_boot (s : State) (k n : Nat) : (s.addCharge k n).boot = s.boot := rfl
@[simp] theorem State.addCharge_fabric (s : State) (k n : Nat) : (s.addCharge k n).fabric = s.fabric := rfl

@[simp] theorem State.tick_turns (s : State) : (s.tick).turns = s.turns := rfl
@[simp] theorem State.tick_time (s : State) : (s.tick).time = s.time := rfl
@[simp] theorem State.tick_cur (s : State) : (s.tick).cur = s.cur := rfl
@[simp] theorem State.tick_nextId (s : State) : (s.tick).nextId = s.nextId := rfl
@[simp] theorem State.tick_strands (s : State) : (s.tick).strands = s.strands := rfl
@[simp] theorem State.tick_teams (s : State) : (s.tick).teams = s.teams := rfl
@[simp] theorem State.tick_gangs (s : State) : (s.tick).gangs = s.gangs := rfl
@[simp] theorem State.tick_launches (s : State) : (s.tick).launches = s.launches := rfl
@[simp] theorem State.tick_ropes (s : State) : (s.tick).ropes = s.ropes := rfl
@[simp] theorem State.tick_tasks (s : State) : (s.tick).tasks = s.tasks := rfl
@[simp] theorem State.tick_queues (s : State) : (s.tick).queues = s.queues := rfl
@[simp] theorem State.tick_cores (s : State) : (s.tick).cores = s.cores := rfl
@[simp] theorem State.tick_clusters (s : State) : (s.tick).clusters = s.clusters := rfl
@[simp] theorem State.tick_parts (s : State) : (s.tick).parts = s.parts := rfl
@[simp] theorem State.tick_mem (s : State) : (s.tick).mem = s.mem := rfl
@[simp] theorem State.tick_poison (s : State) : (s.tick).poison = s.poison := rfl
@[simp] theorem State.tick_secure (s : State) : (s.tick).secure = s.secure := rfl
@[simp] theorem State.tick_assigned (s : State) : (s.tick).assigned = s.assigned := rfl
@[simp] theorem State.tick_pages (s : State) : (s.tick).pages = s.pages := rfl
@[simp] theorem State.tick_hub (s : State) : (s.tick).hub = s.hub := rfl
@[simp] theorem State.tick_tdisp (s : State) : (s.tick).tdisp = s.tdisp := rfl
@[simp] theorem State.tick_power (s : State) : (s.tick).power = s.power := rfl
@[simp] theorem State.tick_boot (s : State) : (s.tick).boot = s.boot := rfl
@[simp] theorem State.tick_fabric (s : State) : (s.tick).fabric = s.fabric := rfl

@[simp] theorem State.onStrandAt_turns (s : State) (i : Nat) (f : Strand → Strand) : (s.onStrandAt i f).turns = s.turns := by
  unfold State.onStrandAt; split <;> rfl
@[simp] theorem State.onStrandAt_fresh (s : State) (i : Nat) (f : Strand → Strand) : (s.onStrandAt i f).fresh = s.fresh := by
  unfold State.onStrandAt; split <;> rfl
@[simp] theorem State.onStrandAt_time (s : State) (i : Nat) (f : Strand → Strand) : (s.onStrandAt i f).time = s.time := by
  unfold State.onStrandAt; split <;> rfl
@[simp] theorem State.onStrandAt_cur (s : State) (i : Nat) (f : Strand → Strand) : (s.onStrandAt i f).cur = s.cur := by
  unfold State.onStrandAt; split <;> rfl
@[simp] theorem State.onStrandAt_nextId (s : State) (i : Nat) (f : Strand → Strand) : (s.onStrandAt i f).nextId = s.nextId := by
  unfold State.onStrandAt; split <;> rfl
@[simp] theorem State.onStrandAt_teams (s : State) (i : Nat) (f : Strand → Strand) : (s.onStrandAt i f).teams = s.teams := by
  unfold State.onStrandAt; split <;> rfl
@[simp] theorem State.onStrandAt_gangs (s : State) (i : Nat) (f : Strand → Strand) : (s.onStrandAt i f).gangs = s.gangs := by
  unfold State.onStrandAt; split <;> rfl
@[simp] theorem State.onStrandAt_launches (s : State) (i : Nat) (f : Strand → Strand) : (s.onStrandAt i f).launches = s.launches := by
  unfold State.onStrandAt; split <;> rfl
@[simp] theorem State.onStrandAt_ropes (s : State) (i : Nat) (f : Strand → Strand) : (s.onStrandAt i f).ropes = s.ropes := by
  unfold State.onStrandAt; split <;> rfl
@[simp] theorem State.onStrandAt_tasks (s : State) (i : Nat) (f : Strand → Strand) : (s.onStrandAt i f).tasks = s.tasks := by
  unfold State.onStrandAt; split <;> rfl
@[simp] theorem State.onStrandAt_queues (s : State) (i : Nat) (f : Strand → Strand) : (s.onStrandAt i f).queues = s.queues := by
  unfold State.onStrandAt; split <;> rfl
@[simp] theorem State.onStrandAt_cores (s : State) (i : Nat) (f : Strand → Strand) : (s.onStrandAt i f).cores = s.cores := by
  unfold State.onStrandAt; split <;> rfl
@[simp] theorem State.onStrandAt_clusters (s : State) (i : Nat) (f : Strand → Strand) : (s.onStrandAt i f).clusters = s.clusters := by
  unfold State.onStrandAt; split <;> rfl
@[simp] theorem State.onStrandAt_parts (s : State) (i : Nat) (f : Strand → Strand) : (s.onStrandAt i f).parts = s.parts := by
  unfold State.onStrandAt; split <;> rfl
@[simp] theorem State.onStrandAt_mem (s : State) (i : Nat) (f : Strand → Strand) : (s.onStrandAt i f).mem = s.mem := by
  unfold State.onStrandAt; split <;> rfl
@[simp] theorem State.onStrandAt_poison (s : State) (i : Nat) (f : Strand → Strand) : (s.onStrandAt i f).poison = s.poison := by
  unfold State.onStrandAt; split <;> rfl
@[simp] theorem State.onStrandAt_secure (s : State) (i : Nat) (f : Strand → Strand) : (s.onStrandAt i f).secure = s.secure := by
  unfold State.onStrandAt; split <;> rfl
@[simp] theorem State.onStrandAt_assigned (s : State) (i : Nat) (f : Strand → Strand) : (s.onStrandAt i f).assigned = s.assigned := by
  unfold State.onStrandAt; split <;> rfl
@[simp] theorem State.onStrandAt_pages (s : State) (i : Nat) (f : Strand → Strand) : (s.onStrandAt i f).pages = s.pages := by
  unfold State.onStrandAt; split <;> rfl
@[simp] theorem State.onStrandAt_hub (s : State) (i : Nat) (f : Strand → Strand) : (s.onStrandAt i f).hub = s.hub := by
  unfold State.onStrandAt; split <;> rfl
@[simp] theorem State.onStrandAt_tdisp (s : State) (i : Nat) (f : Strand → Strand) : (s.onStrandAt i f).tdisp = s.tdisp := by
  unfold State.onStrandAt; split <;> rfl
@[simp] theorem State.onStrandAt_power (s : State) (i : Nat) (f : Strand → Strand) : (s.onStrandAt i f).power = s.power := by
  unfold State.onStrandAt; split <;> rfl
@[simp] theorem State.onStrandAt_boot (s : State) (i : Nat) (f : Strand → Strand) : (s.onStrandAt i f).boot = s.boot := by
  unfold State.onStrandAt; split <;> rfl
@[simp] theorem State.onStrandAt_fabric (s : State) (i : Nat) (f : Strand → Strand) : (s.onStrandAt i f).fabric = s.fabric := by
  unfold State.onStrandAt; split <;> rfl

@[simp] theorem State.onStrand_turns (s : State) (f : Strand → Strand) : (s.onStrand f).turns = s.turns := State.onStrandAt_turns s s.cur f
@[simp] theorem State.onStrand_fresh (s : State) (f : Strand → Strand) : (s.onStrand f).fresh = s.fresh := State.onStrandAt_fresh s s.cur f
@[simp] theorem State.onStrand_time (s : State) (f : Strand → Strand) : (s.onStrand f).time = s.time := State.onStrandAt_time s s.cur f
@[simp] theorem State.onStrand_cur (s : State) (f : Strand → Strand) : (s.onStrand f).cur = s.cur := State.onStrandAt_cur s s.cur f
@[simp] theorem State.onStrand_nextId (s : State) (f : Strand → Strand) : (s.onStrand f).nextId = s.nextId := State.onStrandAt_nextId s s.cur f
@[simp] theorem State.onStrand_teams (s : State) (f : Strand → Strand) : (s.onStrand f).teams = s.teams := State.onStrandAt_teams s s.cur f
@[simp] theorem State.onStrand_gangs (s : State) (f : Strand → Strand) : (s.onStrand f).gangs = s.gangs := State.onStrandAt_gangs s s.cur f
@[simp] theorem State.onStrand_launches (s : State) (f : Strand → Strand) : (s.onStrand f).launches = s.launches := State.onStrandAt_launches s s.cur f
@[simp] theorem State.onStrand_ropes (s : State) (f : Strand → Strand) : (s.onStrand f).ropes = s.ropes := State.onStrandAt_ropes s s.cur f
@[simp] theorem State.onStrand_tasks (s : State) (f : Strand → Strand) : (s.onStrand f).tasks = s.tasks := State.onStrandAt_tasks s s.cur f
@[simp] theorem State.onStrand_queues (s : State) (f : Strand → Strand) : (s.onStrand f).queues = s.queues := State.onStrandAt_queues s s.cur f
@[simp] theorem State.onStrand_cores (s : State) (f : Strand → Strand) : (s.onStrand f).cores = s.cores := State.onStrandAt_cores s s.cur f
@[simp] theorem State.onStrand_clusters (s : State) (f : Strand → Strand) : (s.onStrand f).clusters = s.clusters := State.onStrandAt_clusters s s.cur f
@[simp] theorem State.onStrand_parts (s : State) (f : Strand → Strand) : (s.onStrand f).parts = s.parts := State.onStrandAt_parts s s.cur f
@[simp] theorem State.onStrand_mem (s : State) (f : Strand → Strand) : (s.onStrand f).mem = s.mem := State.onStrandAt_mem s s.cur f
@[simp] theorem State.onStrand_poison (s : State) (f : Strand → Strand) : (s.onStrand f).poison = s.poison := State.onStrandAt_poison s s.cur f
@[simp] theorem State.onStrand_secure (s : State) (f : Strand → Strand) : (s.onStrand f).secure = s.secure := State.onStrandAt_secure s s.cur f
@[simp] theorem State.onStrand_assigned (s : State) (f : Strand → Strand) : (s.onStrand f).assigned = s.assigned := State.onStrandAt_assigned s s.cur f
@[simp] theorem State.onStrand_pages (s : State) (f : Strand → Strand) : (s.onStrand f).pages = s.pages := State.onStrandAt_pages s s.cur f
@[simp] theorem State.onStrand_hub (s : State) (f : Strand → Strand) : (s.onStrand f).hub = s.hub := State.onStrandAt_hub s s.cur f
@[simp] theorem State.onStrand_tdisp (s : State) (f : Strand → Strand) : (s.onStrand f).tdisp = s.tdisp := State.onStrandAt_tdisp s s.cur f
@[simp] theorem State.onStrand_power (s : State) (f : Strand → Strand) : (s.onStrand f).power = s.power := State.onStrandAt_power s s.cur f
@[simp] theorem State.onStrand_boot (s : State) (f : Strand → Strand) : (s.onStrand f).boot = s.boot := State.onStrandAt_boot s s.cur f
@[simp] theorem State.onStrand_fabric (s : State) (f : Strand → Strand) : (s.onStrand f).fabric = s.fabric := State.onStrandAt_fabric s s.cur f

@[simp] theorem State.onTeam_turns (s : State) (i : Nat) (f : Team → Team) : (s.onTeam i f).turns = s.turns := by
  unfold State.onTeam; split <;> rfl
@[simp] theorem State.onTeam_fresh (s : State) (i : Nat) (f : Team → Team) : (s.onTeam i f).fresh = s.fresh := by
  unfold State.onTeam; split <;> rfl
@[simp] theorem State.onTeam_time (s : State) (i : Nat) (f : Team → Team) : (s.onTeam i f).time = s.time := by
  unfold State.onTeam; split <;> rfl
@[simp] theorem State.onTeam_cur (s : State) (i : Nat) (f : Team → Team) : (s.onTeam i f).cur = s.cur := by
  unfold State.onTeam; split <;> rfl
@[simp] theorem State.onTeam_nextId (s : State) (i : Nat) (f : Team → Team) : (s.onTeam i f).nextId = s.nextId := by
  unfold State.onTeam; split <;> rfl
@[simp] theorem State.onTeam_strands (s : State) (i : Nat) (f : Team → Team) : (s.onTeam i f).strands = s.strands := by
  unfold State.onTeam; split <;> rfl
@[simp] theorem State.onTeam_gangs (s : State) (i : Nat) (f : Team → Team) : (s.onTeam i f).gangs = s.gangs := by
  unfold State.onTeam; split <;> rfl
@[simp] theorem State.onTeam_launches (s : State) (i : Nat) (f : Team → Team) : (s.onTeam i f).launches = s.launches := by
  unfold State.onTeam; split <;> rfl
@[simp] theorem State.onTeam_ropes (s : State) (i : Nat) (f : Team → Team) : (s.onTeam i f).ropes = s.ropes := by
  unfold State.onTeam; split <;> rfl
@[simp] theorem State.onTeam_tasks (s : State) (i : Nat) (f : Team → Team) : (s.onTeam i f).tasks = s.tasks := by
  unfold State.onTeam; split <;> rfl
@[simp] theorem State.onTeam_queues (s : State) (i : Nat) (f : Team → Team) : (s.onTeam i f).queues = s.queues := by
  unfold State.onTeam; split <;> rfl
@[simp] theorem State.onTeam_cores (s : State) (i : Nat) (f : Team → Team) : (s.onTeam i f).cores = s.cores := by
  unfold State.onTeam; split <;> rfl
@[simp] theorem State.onTeam_clusters (s : State) (i : Nat) (f : Team → Team) : (s.onTeam i f).clusters = s.clusters := by
  unfold State.onTeam; split <;> rfl
@[simp] theorem State.onTeam_parts (s : State) (i : Nat) (f : Team → Team) : (s.onTeam i f).parts = s.parts := by
  unfold State.onTeam; split <;> rfl
@[simp] theorem State.onTeam_mem (s : State) (i : Nat) (f : Team → Team) : (s.onTeam i f).mem = s.mem := by
  unfold State.onTeam; split <;> rfl
@[simp] theorem State.onTeam_poison (s : State) (i : Nat) (f : Team → Team) : (s.onTeam i f).poison = s.poison := by
  unfold State.onTeam; split <;> rfl
@[simp] theorem State.onTeam_secure (s : State) (i : Nat) (f : Team → Team) : (s.onTeam i f).secure = s.secure := by
  unfold State.onTeam; split <;> rfl
@[simp] theorem State.onTeam_assigned (s : State) (i : Nat) (f : Team → Team) : (s.onTeam i f).assigned = s.assigned := by
  unfold State.onTeam; split <;> rfl
@[simp] theorem State.onTeam_pages (s : State) (i : Nat) (f : Team → Team) : (s.onTeam i f).pages = s.pages := by
  unfold State.onTeam; split <;> rfl
@[simp] theorem State.onTeam_hub (s : State) (i : Nat) (f : Team → Team) : (s.onTeam i f).hub = s.hub := by
  unfold State.onTeam; split <;> rfl
@[simp] theorem State.onTeam_tdisp (s : State) (i : Nat) (f : Team → Team) : (s.onTeam i f).tdisp = s.tdisp := by
  unfold State.onTeam; split <;> rfl
@[simp] theorem State.onTeam_power (s : State) (i : Nat) (f : Team → Team) : (s.onTeam i f).power = s.power := by
  unfold State.onTeam; split <;> rfl
@[simp] theorem State.onTeam_boot (s : State) (i : Nat) (f : Team → Team) : (s.onTeam i f).boot = s.boot := by
  unfold State.onTeam; split <;> rfl
@[simp] theorem State.onTeam_fabric (s : State) (i : Nat) (f : Team → Team) : (s.onTeam i f).fabric = s.fabric := by
  unfold State.onTeam; split <;> rfl

@[simp] theorem State.onGang_turns (s : State) (i : Nat) (f : Gang → Gang) : (s.onGang i f).turns = s.turns := by
  unfold State.onGang; split <;> rfl
@[simp] theorem State.onGang_fresh (s : State) (i : Nat) (f : Gang → Gang) : (s.onGang i f).fresh = s.fresh := by
  unfold State.onGang; split <;> rfl
@[simp] theorem State.onGang_time (s : State) (i : Nat) (f : Gang → Gang) : (s.onGang i f).time = s.time := by
  unfold State.onGang; split <;> rfl
@[simp] theorem State.onGang_cur (s : State) (i : Nat) (f : Gang → Gang) : (s.onGang i f).cur = s.cur := by
  unfold State.onGang; split <;> rfl
@[simp] theorem State.onGang_nextId (s : State) (i : Nat) (f : Gang → Gang) : (s.onGang i f).nextId = s.nextId := by
  unfold State.onGang; split <;> rfl
@[simp] theorem State.onGang_strands (s : State) (i : Nat) (f : Gang → Gang) : (s.onGang i f).strands = s.strands := by
  unfold State.onGang; split <;> rfl
@[simp] theorem State.onGang_teams (s : State) (i : Nat) (f : Gang → Gang) : (s.onGang i f).teams = s.teams := by
  unfold State.onGang; split <;> rfl
@[simp] theorem State.onGang_launches (s : State) (i : Nat) (f : Gang → Gang) : (s.onGang i f).launches = s.launches := by
  unfold State.onGang; split <;> rfl
@[simp] theorem State.onGang_ropes (s : State) (i : Nat) (f : Gang → Gang) : (s.onGang i f).ropes = s.ropes := by
  unfold State.onGang; split <;> rfl
@[simp] theorem State.onGang_tasks (s : State) (i : Nat) (f : Gang → Gang) : (s.onGang i f).tasks = s.tasks := by
  unfold State.onGang; split <;> rfl
@[simp] theorem State.onGang_queues (s : State) (i : Nat) (f : Gang → Gang) : (s.onGang i f).queues = s.queues := by
  unfold State.onGang; split <;> rfl
@[simp] theorem State.onGang_cores (s : State) (i : Nat) (f : Gang → Gang) : (s.onGang i f).cores = s.cores := by
  unfold State.onGang; split <;> rfl
@[simp] theorem State.onGang_clusters (s : State) (i : Nat) (f : Gang → Gang) : (s.onGang i f).clusters = s.clusters := by
  unfold State.onGang; split <;> rfl
@[simp] theorem State.onGang_parts (s : State) (i : Nat) (f : Gang → Gang) : (s.onGang i f).parts = s.parts := by
  unfold State.onGang; split <;> rfl
@[simp] theorem State.onGang_mem (s : State) (i : Nat) (f : Gang → Gang) : (s.onGang i f).mem = s.mem := by
  unfold State.onGang; split <;> rfl
@[simp] theorem State.onGang_poison (s : State) (i : Nat) (f : Gang → Gang) : (s.onGang i f).poison = s.poison := by
  unfold State.onGang; split <;> rfl
@[simp] theorem State.onGang_secure (s : State) (i : Nat) (f : Gang → Gang) : (s.onGang i f).secure = s.secure := by
  unfold State.onGang; split <;> rfl
@[simp] theorem State.onGang_assigned (s : State) (i : Nat) (f : Gang → Gang) : (s.onGang i f).assigned = s.assigned := by
  unfold State.onGang; split <;> rfl
@[simp] theorem State.onGang_pages (s : State) (i : Nat) (f : Gang → Gang) : (s.onGang i f).pages = s.pages := by
  unfold State.onGang; split <;> rfl
@[simp] theorem State.onGang_hub (s : State) (i : Nat) (f : Gang → Gang) : (s.onGang i f).hub = s.hub := by
  unfold State.onGang; split <;> rfl
@[simp] theorem State.onGang_tdisp (s : State) (i : Nat) (f : Gang → Gang) : (s.onGang i f).tdisp = s.tdisp := by
  unfold State.onGang; split <;> rfl
@[simp] theorem State.onGang_power (s : State) (i : Nat) (f : Gang → Gang) : (s.onGang i f).power = s.power := by
  unfold State.onGang; split <;> rfl
@[simp] theorem State.onGang_boot (s : State) (i : Nat) (f : Gang → Gang) : (s.onGang i f).boot = s.boot := by
  unfold State.onGang; split <;> rfl
@[simp] theorem State.onGang_fabric (s : State) (i : Nat) (f : Gang → Gang) : (s.onGang i f).fabric = s.fabric := by
  unfold State.onGang; split <;> rfl

@[simp] theorem State.onLaunch_turns (s : State) (i : Nat) (f : Launch → Launch) : (s.onLaunch i f).turns = s.turns := by
  unfold State.onLaunch; split <;> rfl
@[simp] theorem State.onLaunch_fresh (s : State) (i : Nat) (f : Launch → Launch) : (s.onLaunch i f).fresh = s.fresh := by
  unfold State.onLaunch; split <;> rfl
@[simp] theorem State.onLaunch_time (s : State) (i : Nat) (f : Launch → Launch) : (s.onLaunch i f).time = s.time := by
  unfold State.onLaunch; split <;> rfl
@[simp] theorem State.onLaunch_cur (s : State) (i : Nat) (f : Launch → Launch) : (s.onLaunch i f).cur = s.cur := by
  unfold State.onLaunch; split <;> rfl
@[simp] theorem State.onLaunch_nextId (s : State) (i : Nat) (f : Launch → Launch) : (s.onLaunch i f).nextId = s.nextId := by
  unfold State.onLaunch; split <;> rfl
@[simp] theorem State.onLaunch_strands (s : State) (i : Nat) (f : Launch → Launch) : (s.onLaunch i f).strands = s.strands := by
  unfold State.onLaunch; split <;> rfl
@[simp] theorem State.onLaunch_teams (s : State) (i : Nat) (f : Launch → Launch) : (s.onLaunch i f).teams = s.teams := by
  unfold State.onLaunch; split <;> rfl
@[simp] theorem State.onLaunch_gangs (s : State) (i : Nat) (f : Launch → Launch) : (s.onLaunch i f).gangs = s.gangs := by
  unfold State.onLaunch; split <;> rfl
@[simp] theorem State.onLaunch_ropes (s : State) (i : Nat) (f : Launch → Launch) : (s.onLaunch i f).ropes = s.ropes := by
  unfold State.onLaunch; split <;> rfl
@[simp] theorem State.onLaunch_tasks (s : State) (i : Nat) (f : Launch → Launch) : (s.onLaunch i f).tasks = s.tasks := by
  unfold State.onLaunch; split <;> rfl
@[simp] theorem State.onLaunch_queues (s : State) (i : Nat) (f : Launch → Launch) : (s.onLaunch i f).queues = s.queues := by
  unfold State.onLaunch; split <;> rfl
@[simp] theorem State.onLaunch_cores (s : State) (i : Nat) (f : Launch → Launch) : (s.onLaunch i f).cores = s.cores := by
  unfold State.onLaunch; split <;> rfl
@[simp] theorem State.onLaunch_clusters (s : State) (i : Nat) (f : Launch → Launch) : (s.onLaunch i f).clusters = s.clusters := by
  unfold State.onLaunch; split <;> rfl
@[simp] theorem State.onLaunch_parts (s : State) (i : Nat) (f : Launch → Launch) : (s.onLaunch i f).parts = s.parts := by
  unfold State.onLaunch; split <;> rfl
@[simp] theorem State.onLaunch_mem (s : State) (i : Nat) (f : Launch → Launch) : (s.onLaunch i f).mem = s.mem := by
  unfold State.onLaunch; split <;> rfl
@[simp] theorem State.onLaunch_poison (s : State) (i : Nat) (f : Launch → Launch) : (s.onLaunch i f).poison = s.poison := by
  unfold State.onLaunch; split <;> rfl
@[simp] theorem State.onLaunch_secure (s : State) (i : Nat) (f : Launch → Launch) : (s.onLaunch i f).secure = s.secure := by
  unfold State.onLaunch; split <;> rfl
@[simp] theorem State.onLaunch_assigned (s : State) (i : Nat) (f : Launch → Launch) : (s.onLaunch i f).assigned = s.assigned := by
  unfold State.onLaunch; split <;> rfl
@[simp] theorem State.onLaunch_pages (s : State) (i : Nat) (f : Launch → Launch) : (s.onLaunch i f).pages = s.pages := by
  unfold State.onLaunch; split <;> rfl
@[simp] theorem State.onLaunch_hub (s : State) (i : Nat) (f : Launch → Launch) : (s.onLaunch i f).hub = s.hub := by
  unfold State.onLaunch; split <;> rfl
@[simp] theorem State.onLaunch_tdisp (s : State) (i : Nat) (f : Launch → Launch) : (s.onLaunch i f).tdisp = s.tdisp := by
  unfold State.onLaunch; split <;> rfl
@[simp] theorem State.onLaunch_power (s : State) (i : Nat) (f : Launch → Launch) : (s.onLaunch i f).power = s.power := by
  unfold State.onLaunch; split <;> rfl
@[simp] theorem State.onLaunch_boot (s : State) (i : Nat) (f : Launch → Launch) : (s.onLaunch i f).boot = s.boot := by
  unfold State.onLaunch; split <;> rfl
@[simp] theorem State.onLaunch_fabric (s : State) (i : Nat) (f : Launch → Launch) : (s.onLaunch i f).fabric = s.fabric := by
  unfold State.onLaunch; split <;> rfl

@[simp] theorem State.onPart_turns (s : State) (i : Nat) (f : Partition → Partition) : (s.onPart i f).turns = s.turns := by
  unfold State.onPart; split <;> rfl
@[simp] theorem State.onPart_fresh (s : State) (i : Nat) (f : Partition → Partition) : (s.onPart i f).fresh = s.fresh := by
  unfold State.onPart; split <;> rfl
@[simp] theorem State.onPart_time (s : State) (i : Nat) (f : Partition → Partition) : (s.onPart i f).time = s.time := by
  unfold State.onPart; split <;> rfl
@[simp] theorem State.onPart_cur (s : State) (i : Nat) (f : Partition → Partition) : (s.onPart i f).cur = s.cur := by
  unfold State.onPart; split <;> rfl
@[simp] theorem State.onPart_nextId (s : State) (i : Nat) (f : Partition → Partition) : (s.onPart i f).nextId = s.nextId := by
  unfold State.onPart; split <;> rfl
@[simp] theorem State.onPart_strands (s : State) (i : Nat) (f : Partition → Partition) : (s.onPart i f).strands = s.strands := by
  unfold State.onPart; split <;> rfl
@[simp] theorem State.onPart_teams (s : State) (i : Nat) (f : Partition → Partition) : (s.onPart i f).teams = s.teams := by
  unfold State.onPart; split <;> rfl
@[simp] theorem State.onPart_gangs (s : State) (i : Nat) (f : Partition → Partition) : (s.onPart i f).gangs = s.gangs := by
  unfold State.onPart; split <;> rfl
@[simp] theorem State.onPart_launches (s : State) (i : Nat) (f : Partition → Partition) : (s.onPart i f).launches = s.launches := by
  unfold State.onPart; split <;> rfl
@[simp] theorem State.onPart_ropes (s : State) (i : Nat) (f : Partition → Partition) : (s.onPart i f).ropes = s.ropes := by
  unfold State.onPart; split <;> rfl
@[simp] theorem State.onPart_tasks (s : State) (i : Nat) (f : Partition → Partition) : (s.onPart i f).tasks = s.tasks := by
  unfold State.onPart; split <;> rfl
@[simp] theorem State.onPart_queues (s : State) (i : Nat) (f : Partition → Partition) : (s.onPart i f).queues = s.queues := by
  unfold State.onPart; split <;> rfl
@[simp] theorem State.onPart_cores (s : State) (i : Nat) (f : Partition → Partition) : (s.onPart i f).cores = s.cores := by
  unfold State.onPart; split <;> rfl
@[simp] theorem State.onPart_clusters (s : State) (i : Nat) (f : Partition → Partition) : (s.onPart i f).clusters = s.clusters := by
  unfold State.onPart; split <;> rfl
@[simp] theorem State.onPart_mem (s : State) (i : Nat) (f : Partition → Partition) : (s.onPart i f).mem = s.mem := by
  unfold State.onPart; split <;> rfl
@[simp] theorem State.onPart_poison (s : State) (i : Nat) (f : Partition → Partition) : (s.onPart i f).poison = s.poison := by
  unfold State.onPart; split <;> rfl
@[simp] theorem State.onPart_secure (s : State) (i : Nat) (f : Partition → Partition) : (s.onPart i f).secure = s.secure := by
  unfold State.onPart; split <;> rfl
@[simp] theorem State.onPart_assigned (s : State) (i : Nat) (f : Partition → Partition) : (s.onPart i f).assigned = s.assigned := by
  unfold State.onPart; split <;> rfl
@[simp] theorem State.onPart_pages (s : State) (i : Nat) (f : Partition → Partition) : (s.onPart i f).pages = s.pages := by
  unfold State.onPart; split <;> rfl
@[simp] theorem State.onPart_hub (s : State) (i : Nat) (f : Partition → Partition) : (s.onPart i f).hub = s.hub := by
  unfold State.onPart; split <;> rfl
@[simp] theorem State.onPart_tdisp (s : State) (i : Nat) (f : Partition → Partition) : (s.onPart i f).tdisp = s.tdisp := by
  unfold State.onPart; split <;> rfl
@[simp] theorem State.onPart_power (s : State) (i : Nat) (f : Partition → Partition) : (s.onPart i f).power = s.power := by
  unfold State.onPart; split <;> rfl
@[simp] theorem State.onPart_boot (s : State) (i : Nat) (f : Partition → Partition) : (s.onPart i f).boot = s.boot := by
  unfold State.onPart; split <;> rfl
@[simp] theorem State.onPart_fabric (s : State) (i : Nat) (f : Partition → Partition) : (s.onPart i f).fabric = s.fabric := by
  unfold State.onPart; split <;> rfl

@[simp] theorem State.onTask_turns (s : State) (i : Nat) (f : Task → Task) : (s.onTask i f).turns = s.turns := by
  unfold State.onTask; split <;> rfl
@[simp] theorem State.onTask_fresh (s : State) (i : Nat) (f : Task → Task) : (s.onTask i f).fresh = s.fresh := by
  unfold State.onTask; split <;> rfl
@[simp] theorem State.onTask_time (s : State) (i : Nat) (f : Task → Task) : (s.onTask i f).time = s.time := by
  unfold State.onTask; split <;> rfl
@[simp] theorem State.onTask_cur (s : State) (i : Nat) (f : Task → Task) : (s.onTask i f).cur = s.cur := by
  unfold State.onTask; split <;> rfl
@[simp] theorem State.onTask_nextId (s : State) (i : Nat) (f : Task → Task) : (s.onTask i f).nextId = s.nextId := by
  unfold State.onTask; split <;> rfl
@[simp] theorem State.onTask_strands (s : State) (i : Nat) (f : Task → Task) : (s.onTask i f).strands = s.strands := by
  unfold State.onTask; split <;> rfl
@[simp] theorem State.onTask_teams (s : State) (i : Nat) (f : Task → Task) : (s.onTask i f).teams = s.teams := by
  unfold State.onTask; split <;> rfl
@[simp] theorem State.onTask_gangs (s : State) (i : Nat) (f : Task → Task) : (s.onTask i f).gangs = s.gangs := by
  unfold State.onTask; split <;> rfl
@[simp] theorem State.onTask_launches (s : State) (i : Nat) (f : Task → Task) : (s.onTask i f).launches = s.launches := by
  unfold State.onTask; split <;> rfl
@[simp] theorem State.onTask_ropes (s : State) (i : Nat) (f : Task → Task) : (s.onTask i f).ropes = s.ropes := by
  unfold State.onTask; split <;> rfl
@[simp] theorem State.onTask_queues (s : State) (i : Nat) (f : Task → Task) : (s.onTask i f).queues = s.queues := by
  unfold State.onTask; split <;> rfl
@[simp] theorem State.onTask_cores (s : State) (i : Nat) (f : Task → Task) : (s.onTask i f).cores = s.cores := by
  unfold State.onTask; split <;> rfl
@[simp] theorem State.onTask_clusters (s : State) (i : Nat) (f : Task → Task) : (s.onTask i f).clusters = s.clusters := by
  unfold State.onTask; split <;> rfl
@[simp] theorem State.onTask_parts (s : State) (i : Nat) (f : Task → Task) : (s.onTask i f).parts = s.parts := by
  unfold State.onTask; split <;> rfl
@[simp] theorem State.onTask_mem (s : State) (i : Nat) (f : Task → Task) : (s.onTask i f).mem = s.mem := by
  unfold State.onTask; split <;> rfl
@[simp] theorem State.onTask_poison (s : State) (i : Nat) (f : Task → Task) : (s.onTask i f).poison = s.poison := by
  unfold State.onTask; split <;> rfl
@[simp] theorem State.onTask_secure (s : State) (i : Nat) (f : Task → Task) : (s.onTask i f).secure = s.secure := by
  unfold State.onTask; split <;> rfl
@[simp] theorem State.onTask_assigned (s : State) (i : Nat) (f : Task → Task) : (s.onTask i f).assigned = s.assigned := by
  unfold State.onTask; split <;> rfl
@[simp] theorem State.onTask_pages (s : State) (i : Nat) (f : Task → Task) : (s.onTask i f).pages = s.pages := by
  unfold State.onTask; split <;> rfl
@[simp] theorem State.onTask_hub (s : State) (i : Nat) (f : Task → Task) : (s.onTask i f).hub = s.hub := by
  unfold State.onTask; split <;> rfl
@[simp] theorem State.onTask_tdisp (s : State) (i : Nat) (f : Task → Task) : (s.onTask i f).tdisp = s.tdisp := by
  unfold State.onTask; split <;> rfl
@[simp] theorem State.onTask_power (s : State) (i : Nat) (f : Task → Task) : (s.onTask i f).power = s.power := by
  unfold State.onTask; split <;> rfl
@[simp] theorem State.onTask_boot (s : State) (i : Nat) (f : Task → Task) : (s.onTask i f).boot = s.boot := by
  unfold State.onTask; split <;> rfl
@[simp] theorem State.onTask_fabric (s : State) (i : Nat) (f : Task → Task) : (s.onTask i f).fabric = s.fabric := by
  unfold State.onTask; split <;> rfl

/-! ### Reads after updates -/

/-- A strand read where it was put, and elsewhere. -/
theorem State.strandAt_putStrandAt (s : State) (i : Nat) (st : Strand) (j : Nat) :
    (s.putStrandAt i st).strandAt j = if j = i then some st else s.strandAt j := by
  unfold State.strandAt State.putStrandAt
  exact cfind_cput _ _ _ _

@[simp] theorem State.strandAt_putStrandAt_self (s : State) (i : Nat) (st : Strand) :
    (s.putStrandAt i st).strandAt i = some st := by simp [State.strandAt_putStrandAt]

@[simp] theorem State.strand?_putStrand (s : State) (st : Strand) : (s.putStrand st).strand? = some st := by
  unfold State.strand? State.putStrand
  rw [State.putStrandAt_cur]
  exact cfind_cput_self _ _ _

@[simp] theorem State.strand?_putStrandAt_cur (s : State) (st : Strand) : (s.putStrandAt s.cur st).strand? = some st :=
  State.strand?_putStrand s st

/-- A strand other than the executing one is untouched by its update. -/
theorem State.strandAt_putStrand_ne (s : State) (st : Strand) {j : Nat} (h : j ≠ s.cur) :
    (s.putStrand st).strandAt j = s.strandAt j := by
  unfold State.putStrand
  rw [State.strandAt_putStrandAt, if_neg h]

/-- A core read after one is put. -/
theorem State.core_putCore (s : State) (i : Nat) (c : Core) (j : Nat) :
    (s.putCore i c).core j = if j = i then c else s.core j := by
  unfold State.core State.putCore
  rw [cfind_cput]
  split <;> rfl

/-- A core read after one is changed. -/
theorem State.core_onCore (s : State) (i : Nat) (f : Core → Core) (j : Nat) :
    (s.onCore i f).core j = if j = i then f (s.core i) else s.core j := State.core_putCore s i _ j

/-- A cluster read after one is changed. -/
theorem State.cluster_onCluster (s : State) (i : Nat) (f : Cluster → Cluster) (j : Nat) :
    (s.onCluster i f).cluster j = if j = i then f (s.cluster i) else s.cluster j := by
  unfold State.cluster State.onCluster
  rw [cfind_cput]
  split <;> rfl

/-- A queue read after one is changed. -/
theorem State.queue_onQueue (s : State) (i : Nat) (f : Queue → Queue) (j : Nat) :
    (s.onQueue i f).queue j = if j = i then f (s.queue i) else s.queue j := by
  unfold State.queue State.onQueue
  rw [cfind_cput]
  split <;> rfl

/-- An entry read after one that exists is changed. -/
theorem State.team_onTeam (s : State) (i : Nat) (f : Team → Team) (j : Nat) (h : cfind s.teams i ≠ none) :
    (s.onTeam i f).team j = if j = i then f (s.team i) else s.team j := by
  unfold State.team State.onTeam
  split
  · rename_i t ht
    rw [cfind_cput]
    split <;> simp [ht]
  · rename_i ht
    exact absurd ht h

/-- An entry read after one that exists is changed. -/
theorem State.gang_onGang (s : State) (i : Nat) (f : Gang → Gang) (j : Nat) (h : cfind s.gangs i ≠ none) :
    (s.onGang i f).gang j = if j = i then f (s.gang i) else s.gang j := by
  unfold State.gang State.onGang
  split
  · rename_i t ht
    rw [cfind_cput]
    split <;> simp [ht]
  · rename_i ht
    exact absurd ht h

/-- An entry read after one that exists is changed. -/
theorem State.launch_onLaunch (s : State) (i : Nat) (f : Launch → Launch) (j : Nat) (h : cfind s.launches i ≠ none) :
    (s.onLaunch i f).launch j = if j = i then f (s.launch i) else s.launch j := by
  unfold State.launch State.onLaunch
  split
  · rename_i t ht
    rw [cfind_cput]
    split <;> simp [ht]
  · rename_i ht
    exact absurd ht h

/-- An entry read after one that exists is changed. -/
theorem State.part_onPart (s : State) (i : Nat) (f : Partition → Partition) (j : Nat) (h : cfind s.parts i ≠ none) :
    (s.onPart i f).part j = if j = i then f (s.part i) else s.part j := by
  unfold State.part State.onPart
  split
  · rename_i t ht
    rw [cfind_cput]
    split <;> simp [ht]
  · rename_i ht
    exact absurd ht h

/-! ### Updates of a strand -/

@[simp] theorem Strand.slot_withSlot (st : Strand) (x : Slot) : (st.withSlot x).slot = x := by
  unfold Strand.withSlot Strand.slot
  cases st.sel <;> simp

@[simp] theorem Strand.staging_withSlot (st : Strand) (x : Slot) : (st.withSlot x).staging = st.staging := by
  unfold Strand.withSlot Strand.staging
  cases st.sel <;> simp

@[simp] theorem Strand.staging_withStaging (st : Strand) (x : Slot) : (st.withStaging x).staging = x := by
  unfold Strand.withStaging Strand.staging
  cases st.sel <;> simp

@[simp] theorem Strand.slot_withStaging (st : Strand) (x : Slot) : (st.withStaging x).slot = st.slot := by
  unfold Strand.withStaging Strand.slot
  cases st.sel <;> simp

@[simp] theorem Strand.withSlot_team (st : Strand) (x : Slot) : (st.withSlot x).team = st.team := by
  unfold Strand.withSlot; split <;> rfl
@[simp] theorem Strand.withSlot_idx (st : Strand) (x : Slot) : (st.withSlot x).idx = st.idx := by
  unfold Strand.withSlot; split <;> rfl
@[simp] theorem Strand.withSlot_replica (st : Strand) (x : Slot) : (st.withSlot x).replica = st.replica := by
  unfold Strand.withSlot; split <;> rfl
@[simp] theorem Strand.withSlot_sched (st : Strand) (x : Slot) : (st.withSlot x).sched = st.sched := by
  unfold Strand.withSlot; split <;> rfl
@[simp] theorem Strand.withSlot_slotNo (st : Strand) (x : Slot) : (st.withSlot x).slotNo = st.slotNo := by
  unfold Strand.withSlot; split <;> rfl
@[simp] theorem Strand.withSlot_sel (st : Strand) (x : Slot) : (st.withSlot x).sel = st.sel := by
  unfold Strand.withSlot; split <;> rfl
@[simp] theorem Strand.withSlot_pc (st : Strand) (x : Slot) : (st.withSlot x).pc = st.pc := by
  unfold Strand.withSlot; split <;> rfl
@[simp] theorem Strand.withSlot_flags (st : Strand) (x : Slot) : (st.withSlot x).flags = st.flags := by
  unfold Strand.withSlot; split <;> rfl
@[simp] theorem Strand.withSlot_trapcause (st : Strand) (x : Slot) : (st.withSlot x).trapcause = st.trapcause := by
  unfold Strand.withSlot; split <;> rfl
@[simp] theorem Strand.withSlot_trappc (st : Strand) (x : Slot) : (st.withSlot x).trappc = st.trappc := by
  unfold Strand.withSlot; split <;> rfl
@[simp] theorem Strand.withSlot_trapaddr (st : Strand) (x : Slot) : (st.withSlot x).trapaddr = st.trapaddr := by
  unfold Strand.withSlot; split <;> rfl
@[simp] theorem Strand.withSlot_trapinfo (st : Strand) (x : Slot) : (st.withSlot x).trapinfo = st.trapinfo := by
  unfold Strand.withSlot; split <;> rfl
@[simp] theorem Strand.withSlot_epc (st : Strand) (x : Slot) : (st.withSlot x).epc = st.epc := by
  unfold Strand.withSlot; split <;> rfl
@[simp] theorem Strand.withSlot_trapvec (st : Strand) (x : Slot) : (st.withSlot x).trapvec = st.trapvec := by
  unfold Strand.withSlot; split <;> rfl
@[simp] theorem Strand.withSlot_timer (st : Strand) (x : Slot) : (st.withSlot x).timer = st.timer := by
  unfold Strand.withSlot; split <;> rfl
@[simp] theorem Strand.withSlot_timerDue (st : Strand) (x : Slot) : (st.withSlot x).timerDue = st.timerDue := by
  unfold Strand.withSlot; split <;> rfl
@[simp] theorem Strand.withSlot_cyc (st : Strand) (x : Slot) : (st.withSlot x).cyc = st.cyc := by
  unfold Strand.withSlot; split <;> rfl
@[simp] theorem Strand.withSlot_crit (st : Strand) (x : Slot) : (st.withSlot x).crit = st.crit := by
  unfold Strand.withSlot; split <;> rfl
@[simp] theorem Strand.withSlot_promoted (st : Strand) (x : Slot) : (st.withSlot x).promoted = st.promoted := by
  unfold Strand.withSlot; split <;> rfl
@[simp] theorem Strand.withSlot_age (st : Strand) (x : Slot) : (st.withSlot x).age = st.age := by
  unfold Strand.withSlot; split <;> rfl
@[simp] theorem Strand.withSlot_readyFor (st : Strand) (x : Slot) : (st.withSlot x).readyFor = st.readyFor := by
  unfold Strand.withSlot; split <;> rfl
@[simp] theorem Strand.withSlot_wait (st : Strand) (x : Slot) : (st.withSlot x).wait = st.wait := by
  unfold Strand.withSlot; split <;> rfl
@[simp] theorem Strand.withSlot_flip (st : Strand) (x : Slot) : (st.withSlot x).flip = st.flip := by
  unfold Strand.withSlot; split <;> rfl
@[simp] theorem Strand.withSlot_run (st : Strand) (x : Slot) : (st.withSlot x).run = st.run := by
  unfold Strand.withSlot; split <;> rfl
@[simp] theorem Strand.withSlot_nodes (st : Strand) (x : Slot) : (st.withSlot x).nodes = st.nodes := by
  unfold Strand.withSlot; split <;> rfl
@[simp] theorem Strand.withSlot_nextNode (st : Strand) (x : Slot) : (st.withSlot x).nextNode = st.nextNode := by
  unfold Strand.withSlot; split <;> rfl
@[simp] theorem Strand.withSlot_batch (st : Strand) (x : Slot) : (st.withSlot x).batch = st.batch := by
  unfold Strand.withSlot; split <;> rfl
@[simp] theorem Strand.withSlot_arrivals (st : Strand) (x : Slot) : (st.withSlot x).arrivals = st.arrivals := by
  unfold Strand.withSlot; split <;> rfl
@[simp] theorem Strand.withSlot_sig (st : Strand) (x : Slot) : (st.withSlot x).sig = st.sig := by
  unfold Strand.withSlot; split <;> rfl
@[simp] theorem Strand.withSlot_ropeseq (st : Strand) (x : Slot) : (st.withSlot x).ropeseq = st.ropeseq := by
  unfold Strand.withSlot; split <;> rfl
@[simp] theorem Strand.withSlot_buffer (st : Strand) (x : Slot) : (st.withSlot x).buffer = st.buffer := by
  unfold Strand.withSlot; split <;> rfl
@[simp] theorem Strand.withSlot_values (st : Strand) (x : Slot) : (st.withSlot x).values = st.values := by
  unfold Strand.withSlot; split <;> rfl
@[simp] theorem Strand.withSlot_presented (st : Strand) (x : Slot) : (st.withSlot x).presented = st.presented := by
  unfold Strand.withSlot; split <;> rfl
@[simp] theorem Strand.withSlot_committed (st : Strand) (x : Slot) : (st.withSlot x).committed = st.committed := by
  unfold Strand.withSlot; split <;> rfl
@[simp] theorem Strand.withSlot_issued (st : Strand) (x : Slot) : (st.withSlot x).issued = st.issued := by
  unfold Strand.withSlot; split <;> rfl
@[simp] theorem Strand.withSlot_handled (st : Strand) (x : Slot) : (st.withSlot x).handled = st.handled := by
  unfold Strand.withSlot; split <;> rfl
@[simp] theorem Strand.withSlot_tstDone (st : Strand) (x : Slot) : (st.withSlot x).tstDone = st.tstDone := by
  unfold Strand.withSlot; split <;> rfl
@[simp] theorem Strand.withSlot_save (st : Strand) (x : Slot) : (st.withSlot x).save = st.save := by
  unfold Strand.withSlot; split <;> rfl
@[simp] theorem Strand.withSlot_peerLines (st : Strand) (x : Slot) : (st.withSlot x).peerLines = st.peerLines := by
  unfold Strand.withSlot; split <;> rfl
@[simp] theorem Strand.withSlot_peerDone (st : Strand) (x : Slot) : (st.withSlot x).peerDone = st.peerDone := by
  unfold Strand.withSlot; split <;> rfl
@[simp] theorem Strand.withSlot_copied (st : Strand) (x : Slot) : (st.withSlot x).copied = st.copied := by
  unfold Strand.withSlot; split <;> rfl

@[simp] theorem Strand.setS_team (st : Strand) (n : Nat) (v : DWord) : (st.setS n v).team = st.team := by
  unfold Strand.setS; split <;> simp
@[simp] theorem Strand.setS_idx (st : Strand) (n : Nat) (v : DWord) : (st.setS n v).idx = st.idx := by
  unfold Strand.setS; split <;> simp
@[simp] theorem Strand.setS_replica (st : Strand) (n : Nat) (v : DWord) : (st.setS n v).replica = st.replica := by
  unfold Strand.setS; split <;> simp
@[simp] theorem Strand.setS_sched (st : Strand) (n : Nat) (v : DWord) : (st.setS n v).sched = st.sched := by
  unfold Strand.setS; split <;> simp
@[simp] theorem Strand.setS_slotNo (st : Strand) (n : Nat) (v : DWord) : (st.setS n v).slotNo = st.slotNo := by
  unfold Strand.setS; split <;> simp
@[simp] theorem Strand.setS_sel (st : Strand) (n : Nat) (v : DWord) : (st.setS n v).sel = st.sel := by
  unfold Strand.setS; split <;> simp
@[simp] theorem Strand.setS_pc (st : Strand) (n : Nat) (v : DWord) : (st.setS n v).pc = st.pc := by
  unfold Strand.setS; split <;> simp
@[simp] theorem Strand.setS_flags (st : Strand) (n : Nat) (v : DWord) : (st.setS n v).flags = st.flags := by
  unfold Strand.setS; split <;> simp
@[simp] theorem Strand.setS_trapcause (st : Strand) (n : Nat) (v : DWord) : (st.setS n v).trapcause = st.trapcause := by
  unfold Strand.setS; split <;> simp
@[simp] theorem Strand.setS_trappc (st : Strand) (n : Nat) (v : DWord) : (st.setS n v).trappc = st.trappc := by
  unfold Strand.setS; split <;> simp
@[simp] theorem Strand.setS_trapaddr (st : Strand) (n : Nat) (v : DWord) : (st.setS n v).trapaddr = st.trapaddr := by
  unfold Strand.setS; split <;> simp
@[simp] theorem Strand.setS_trapinfo (st : Strand) (n : Nat) (v : DWord) : (st.setS n v).trapinfo = st.trapinfo := by
  unfold Strand.setS; split <;> simp
@[simp] theorem Strand.setS_epc (st : Strand) (n : Nat) (v : DWord) : (st.setS n v).epc = st.epc := by
  unfold Strand.setS; split <;> simp
@[simp] theorem Strand.setS_trapvec (st : Strand) (n : Nat) (v : DWord) : (st.setS n v).trapvec = st.trapvec := by
  unfold Strand.setS; split <;> simp
@[simp] theorem Strand.setS_timer (st : Strand) (n : Nat) (v : DWord) : (st.setS n v).timer = st.timer := by
  unfold Strand.setS; split <;> simp
@[simp] theorem Strand.setS_timerDue (st : Strand) (n : Nat) (v : DWord) : (st.setS n v).timerDue = st.timerDue := by
  unfold Strand.setS; split <;> simp
@[simp] theorem Strand.setS_cyc (st : Strand) (n : Nat) (v : DWord) : (st.setS n v).cyc = st.cyc := by
  unfold Strand.setS; split <;> simp
@[simp] theorem Strand.setS_crit (st : Strand) (n : Nat) (v : DWord) : (st.setS n v).crit = st.crit := by
  unfold Strand.setS; split <;> simp
@[simp] theorem Strand.setS_promoted (st : Strand) (n : Nat) (v : DWord) : (st.setS n v).promoted = st.promoted := by
  unfold Strand.setS; split <;> simp
@[simp] theorem Strand.setS_age (st : Strand) (n : Nat) (v : DWord) : (st.setS n v).age = st.age := by
  unfold Strand.setS; split <;> simp
@[simp] theorem Strand.setS_readyFor (st : Strand) (n : Nat) (v : DWord) : (st.setS n v).readyFor = st.readyFor := by
  unfold Strand.setS; split <;> simp
@[simp] theorem Strand.setS_wait (st : Strand) (n : Nat) (v : DWord) : (st.setS n v).wait = st.wait := by
  unfold Strand.setS; split <;> simp
@[simp] theorem Strand.setS_flip (st : Strand) (n : Nat) (v : DWord) : (st.setS n v).flip = st.flip := by
  unfold Strand.setS; split <;> simp
@[simp] theorem Strand.setS_run (st : Strand) (n : Nat) (v : DWord) : (st.setS n v).run = st.run := by
  unfold Strand.setS; split <;> simp
@[simp] theorem Strand.setS_nodes (st : Strand) (n : Nat) (v : DWord) : (st.setS n v).nodes = st.nodes := by
  unfold Strand.setS; split <;> simp
@[simp] theorem Strand.setS_nextNode (st : Strand) (n : Nat) (v : DWord) : (st.setS n v).nextNode = st.nextNode := by
  unfold Strand.setS; split <;> simp
@[simp] theorem Strand.setS_batch (st : Strand) (n : Nat) (v : DWord) : (st.setS n v).batch = st.batch := by
  unfold Strand.setS; split <;> simp
@[simp] theorem Strand.setS_arrivals (st : Strand) (n : Nat) (v : DWord) : (st.setS n v).arrivals = st.arrivals := by
  unfold Strand.setS; split <;> simp
@[simp] theorem Strand.setS_sig (st : Strand) (n : Nat) (v : DWord) : (st.setS n v).sig = st.sig := by
  unfold Strand.setS; split <;> simp
@[simp] theorem Strand.setS_ropeseq (st : Strand) (n : Nat) (v : DWord) : (st.setS n v).ropeseq = st.ropeseq := by
  unfold Strand.setS; split <;> simp
@[simp] theorem Strand.setS_buffer (st : Strand) (n : Nat) (v : DWord) : (st.setS n v).buffer = st.buffer := by
  unfold Strand.setS; split <;> simp
@[simp] theorem Strand.setS_values (st : Strand) (n : Nat) (v : DWord) : (st.setS n v).values = st.values := by
  unfold Strand.setS; split <;> simp
@[simp] theorem Strand.setS_presented (st : Strand) (n : Nat) (v : DWord) : (st.setS n v).presented = st.presented := by
  unfold Strand.setS; split <;> simp
@[simp] theorem Strand.setS_committed (st : Strand) (n : Nat) (v : DWord) : (st.setS n v).committed = st.committed := by
  unfold Strand.setS; split <;> simp
@[simp] theorem Strand.setS_issued (st : Strand) (n : Nat) (v : DWord) : (st.setS n v).issued = st.issued := by
  unfold Strand.setS; split <;> simp
@[simp] theorem Strand.setS_handled (st : Strand) (n : Nat) (v : DWord) : (st.setS n v).handled = st.handled := by
  unfold Strand.setS; split <;> simp
@[simp] theorem Strand.setS_tstDone (st : Strand) (n : Nat) (v : DWord) : (st.setS n v).tstDone = st.tstDone := by
  unfold Strand.setS; split <;> simp
@[simp] theorem Strand.setS_save (st : Strand) (n : Nat) (v : DWord) : (st.setS n v).save = st.save := by
  unfold Strand.setS; split <;> simp
@[simp] theorem Strand.setS_peerLines (st : Strand) (n : Nat) (v : DWord) : (st.setS n v).peerLines = st.peerLines := by
  unfold Strand.setS; split <;> simp
@[simp] theorem Strand.setS_peerDone (st : Strand) (n : Nat) (v : DWord) : (st.setS n v).peerDone = st.peerDone := by
  unfold Strand.setS; split <;> simp
@[simp] theorem Strand.setS_copied (st : Strand) (n : Nat) (v : DWord) : (st.setS n v).copied = st.copied := by
  unfold Strand.setS; split <;> simp
@[simp] theorem Strand.setS_staging (st : Strand) (n : Nat) (v : DWord) : (st.setS n v).staging = st.staging := by
  unfold Strand.setS; split <;> simp

@[simp] theorem Strand.setV_team (st : Strand) (n : Nat) (v : VReg) : (st.setV n v).team = st.team := Strand.withSlot_team st _
@[simp] theorem Strand.setV_idx (st : Strand) (n : Nat) (v : VReg) : (st.setV n v).idx = st.idx := Strand.withSlot_idx st _
@[simp] theorem Strand.setV_replica (st : Strand) (n : Nat) (v : VReg) : (st.setV n v).replica = st.replica := Strand.withSlot_replica st _
@[simp] theorem Strand.setV_sched (st : Strand) (n : Nat) (v : VReg) : (st.setV n v).sched = st.sched := Strand.withSlot_sched st _
@[simp] theorem Strand.setV_slotNo (st : Strand) (n : Nat) (v : VReg) : (st.setV n v).slotNo = st.slotNo := Strand.withSlot_slotNo st _
@[simp] theorem Strand.setV_sel (st : Strand) (n : Nat) (v : VReg) : (st.setV n v).sel = st.sel := Strand.withSlot_sel st _
@[simp] theorem Strand.setV_pc (st : Strand) (n : Nat) (v : VReg) : (st.setV n v).pc = st.pc := Strand.withSlot_pc st _
@[simp] theorem Strand.setV_flags (st : Strand) (n : Nat) (v : VReg) : (st.setV n v).flags = st.flags := Strand.withSlot_flags st _
@[simp] theorem Strand.setV_trapcause (st : Strand) (n : Nat) (v : VReg) : (st.setV n v).trapcause = st.trapcause := Strand.withSlot_trapcause st _
@[simp] theorem Strand.setV_trappc (st : Strand) (n : Nat) (v : VReg) : (st.setV n v).trappc = st.trappc := Strand.withSlot_trappc st _
@[simp] theorem Strand.setV_trapaddr (st : Strand) (n : Nat) (v : VReg) : (st.setV n v).trapaddr = st.trapaddr := Strand.withSlot_trapaddr st _
@[simp] theorem Strand.setV_trapinfo (st : Strand) (n : Nat) (v : VReg) : (st.setV n v).trapinfo = st.trapinfo := Strand.withSlot_trapinfo st _
@[simp] theorem Strand.setV_epc (st : Strand) (n : Nat) (v : VReg) : (st.setV n v).epc = st.epc := Strand.withSlot_epc st _
@[simp] theorem Strand.setV_trapvec (st : Strand) (n : Nat) (v : VReg) : (st.setV n v).trapvec = st.trapvec := Strand.withSlot_trapvec st _
@[simp] theorem Strand.setV_timer (st : Strand) (n : Nat) (v : VReg) : (st.setV n v).timer = st.timer := Strand.withSlot_timer st _
@[simp] theorem Strand.setV_timerDue (st : Strand) (n : Nat) (v : VReg) : (st.setV n v).timerDue = st.timerDue := Strand.withSlot_timerDue st _
@[simp] theorem Strand.setV_cyc (st : Strand) (n : Nat) (v : VReg) : (st.setV n v).cyc = st.cyc := Strand.withSlot_cyc st _
@[simp] theorem Strand.setV_crit (st : Strand) (n : Nat) (v : VReg) : (st.setV n v).crit = st.crit := Strand.withSlot_crit st _
@[simp] theorem Strand.setV_promoted (st : Strand) (n : Nat) (v : VReg) : (st.setV n v).promoted = st.promoted := Strand.withSlot_promoted st _
@[simp] theorem Strand.setV_age (st : Strand) (n : Nat) (v : VReg) : (st.setV n v).age = st.age := Strand.withSlot_age st _
@[simp] theorem Strand.setV_readyFor (st : Strand) (n : Nat) (v : VReg) : (st.setV n v).readyFor = st.readyFor := Strand.withSlot_readyFor st _
@[simp] theorem Strand.setV_wait (st : Strand) (n : Nat) (v : VReg) : (st.setV n v).wait = st.wait := Strand.withSlot_wait st _
@[simp] theorem Strand.setV_flip (st : Strand) (n : Nat) (v : VReg) : (st.setV n v).flip = st.flip := Strand.withSlot_flip st _
@[simp] theorem Strand.setV_run (st : Strand) (n : Nat) (v : VReg) : (st.setV n v).run = st.run := Strand.withSlot_run st _
@[simp] theorem Strand.setV_nodes (st : Strand) (n : Nat) (v : VReg) : (st.setV n v).nodes = st.nodes := Strand.withSlot_nodes st _
@[simp] theorem Strand.setV_nextNode (st : Strand) (n : Nat) (v : VReg) : (st.setV n v).nextNode = st.nextNode := Strand.withSlot_nextNode st _
@[simp] theorem Strand.setV_batch (st : Strand) (n : Nat) (v : VReg) : (st.setV n v).batch = st.batch := Strand.withSlot_batch st _
@[simp] theorem Strand.setV_arrivals (st : Strand) (n : Nat) (v : VReg) : (st.setV n v).arrivals = st.arrivals := Strand.withSlot_arrivals st _
@[simp] theorem Strand.setV_sig (st : Strand) (n : Nat) (v : VReg) : (st.setV n v).sig = st.sig := Strand.withSlot_sig st _
@[simp] theorem Strand.setV_ropeseq (st : Strand) (n : Nat) (v : VReg) : (st.setV n v).ropeseq = st.ropeseq := Strand.withSlot_ropeseq st _
@[simp] theorem Strand.setV_buffer (st : Strand) (n : Nat) (v : VReg) : (st.setV n v).buffer = st.buffer := Strand.withSlot_buffer st _
@[simp] theorem Strand.setV_values (st : Strand) (n : Nat) (v : VReg) : (st.setV n v).values = st.values := Strand.withSlot_values st _
@[simp] theorem Strand.setV_presented (st : Strand) (n : Nat) (v : VReg) : (st.setV n v).presented = st.presented := Strand.withSlot_presented st _
@[simp] theorem Strand.setV_committed (st : Strand) (n : Nat) (v : VReg) : (st.setV n v).committed = st.committed := Strand.withSlot_committed st _
@[simp] theorem Strand.setV_issued (st : Strand) (n : Nat) (v : VReg) : (st.setV n v).issued = st.issued := Strand.withSlot_issued st _
@[simp] theorem Strand.setV_handled (st : Strand) (n : Nat) (v : VReg) : (st.setV n v).handled = st.handled := Strand.withSlot_handled st _
@[simp] theorem Strand.setV_tstDone (st : Strand) (n : Nat) (v : VReg) : (st.setV n v).tstDone = st.tstDone := Strand.withSlot_tstDone st _
@[simp] theorem Strand.setV_save (st : Strand) (n : Nat) (v : VReg) : (st.setV n v).save = st.save := Strand.withSlot_save st _
@[simp] theorem Strand.setV_peerLines (st : Strand) (n : Nat) (v : VReg) : (st.setV n v).peerLines = st.peerLines := Strand.withSlot_peerLines st _
@[simp] theorem Strand.setV_peerDone (st : Strand) (n : Nat) (v : VReg) : (st.setV n v).peerDone = st.peerDone := Strand.withSlot_peerDone st _
@[simp] theorem Strand.setV_copied (st : Strand) (n : Nat) (v : VReg) : (st.setV n v).copied = st.copied := Strand.withSlot_copied st _
@[simp] theorem Strand.setV_staging (st : Strand) (n : Nat) (v : VReg) : (st.setV n v).staging = st.staging := Strand.staging_withSlot st _

@[simp] theorem Strand.setP_team (st : Strand) (n : Nat) (v : Word) : (st.setP n v).team = st.team := Strand.withSlot_team st _
@[simp] theorem Strand.setP_idx (st : Strand) (n : Nat) (v : Word) : (st.setP n v).idx = st.idx := Strand.withSlot_idx st _
@[simp] theorem Strand.setP_replica (st : Strand) (n : Nat) (v : Word) : (st.setP n v).replica = st.replica := Strand.withSlot_replica st _
@[simp] theorem Strand.setP_sched (st : Strand) (n : Nat) (v : Word) : (st.setP n v).sched = st.sched := Strand.withSlot_sched st _
@[simp] theorem Strand.setP_slotNo (st : Strand) (n : Nat) (v : Word) : (st.setP n v).slotNo = st.slotNo := Strand.withSlot_slotNo st _
@[simp] theorem Strand.setP_sel (st : Strand) (n : Nat) (v : Word) : (st.setP n v).sel = st.sel := Strand.withSlot_sel st _
@[simp] theorem Strand.setP_pc (st : Strand) (n : Nat) (v : Word) : (st.setP n v).pc = st.pc := Strand.withSlot_pc st _
@[simp] theorem Strand.setP_flags (st : Strand) (n : Nat) (v : Word) : (st.setP n v).flags = st.flags := Strand.withSlot_flags st _
@[simp] theorem Strand.setP_trapcause (st : Strand) (n : Nat) (v : Word) : (st.setP n v).trapcause = st.trapcause := Strand.withSlot_trapcause st _
@[simp] theorem Strand.setP_trappc (st : Strand) (n : Nat) (v : Word) : (st.setP n v).trappc = st.trappc := Strand.withSlot_trappc st _
@[simp] theorem Strand.setP_trapaddr (st : Strand) (n : Nat) (v : Word) : (st.setP n v).trapaddr = st.trapaddr := Strand.withSlot_trapaddr st _
@[simp] theorem Strand.setP_trapinfo (st : Strand) (n : Nat) (v : Word) : (st.setP n v).trapinfo = st.trapinfo := Strand.withSlot_trapinfo st _
@[simp] theorem Strand.setP_epc (st : Strand) (n : Nat) (v : Word) : (st.setP n v).epc = st.epc := Strand.withSlot_epc st _
@[simp] theorem Strand.setP_trapvec (st : Strand) (n : Nat) (v : Word) : (st.setP n v).trapvec = st.trapvec := Strand.withSlot_trapvec st _
@[simp] theorem Strand.setP_timer (st : Strand) (n : Nat) (v : Word) : (st.setP n v).timer = st.timer := Strand.withSlot_timer st _
@[simp] theorem Strand.setP_timerDue (st : Strand) (n : Nat) (v : Word) : (st.setP n v).timerDue = st.timerDue := Strand.withSlot_timerDue st _
@[simp] theorem Strand.setP_cyc (st : Strand) (n : Nat) (v : Word) : (st.setP n v).cyc = st.cyc := Strand.withSlot_cyc st _
@[simp] theorem Strand.setP_crit (st : Strand) (n : Nat) (v : Word) : (st.setP n v).crit = st.crit := Strand.withSlot_crit st _
@[simp] theorem Strand.setP_promoted (st : Strand) (n : Nat) (v : Word) : (st.setP n v).promoted = st.promoted := Strand.withSlot_promoted st _
@[simp] theorem Strand.setP_age (st : Strand) (n : Nat) (v : Word) : (st.setP n v).age = st.age := Strand.withSlot_age st _
@[simp] theorem Strand.setP_readyFor (st : Strand) (n : Nat) (v : Word) : (st.setP n v).readyFor = st.readyFor := Strand.withSlot_readyFor st _
@[simp] theorem Strand.setP_wait (st : Strand) (n : Nat) (v : Word) : (st.setP n v).wait = st.wait := Strand.withSlot_wait st _
@[simp] theorem Strand.setP_flip (st : Strand) (n : Nat) (v : Word) : (st.setP n v).flip = st.flip := Strand.withSlot_flip st _
@[simp] theorem Strand.setP_run (st : Strand) (n : Nat) (v : Word) : (st.setP n v).run = st.run := Strand.withSlot_run st _
@[simp] theorem Strand.setP_nodes (st : Strand) (n : Nat) (v : Word) : (st.setP n v).nodes = st.nodes := Strand.withSlot_nodes st _
@[simp] theorem Strand.setP_nextNode (st : Strand) (n : Nat) (v : Word) : (st.setP n v).nextNode = st.nextNode := Strand.withSlot_nextNode st _
@[simp] theorem Strand.setP_batch (st : Strand) (n : Nat) (v : Word) : (st.setP n v).batch = st.batch := Strand.withSlot_batch st _
@[simp] theorem Strand.setP_arrivals (st : Strand) (n : Nat) (v : Word) : (st.setP n v).arrivals = st.arrivals := Strand.withSlot_arrivals st _
@[simp] theorem Strand.setP_sig (st : Strand) (n : Nat) (v : Word) : (st.setP n v).sig = st.sig := Strand.withSlot_sig st _
@[simp] theorem Strand.setP_ropeseq (st : Strand) (n : Nat) (v : Word) : (st.setP n v).ropeseq = st.ropeseq := Strand.withSlot_ropeseq st _
@[simp] theorem Strand.setP_buffer (st : Strand) (n : Nat) (v : Word) : (st.setP n v).buffer = st.buffer := Strand.withSlot_buffer st _
@[simp] theorem Strand.setP_values (st : Strand) (n : Nat) (v : Word) : (st.setP n v).values = st.values := Strand.withSlot_values st _
@[simp] theorem Strand.setP_presented (st : Strand) (n : Nat) (v : Word) : (st.setP n v).presented = st.presented := Strand.withSlot_presented st _
@[simp] theorem Strand.setP_committed (st : Strand) (n : Nat) (v : Word) : (st.setP n v).committed = st.committed := Strand.withSlot_committed st _
@[simp] theorem Strand.setP_issued (st : Strand) (n : Nat) (v : Word) : (st.setP n v).issued = st.issued := Strand.withSlot_issued st _
@[simp] theorem Strand.setP_handled (st : Strand) (n : Nat) (v : Word) : (st.setP n v).handled = st.handled := Strand.withSlot_handled st _
@[simp] theorem Strand.setP_tstDone (st : Strand) (n : Nat) (v : Word) : (st.setP n v).tstDone = st.tstDone := Strand.withSlot_tstDone st _
@[simp] theorem Strand.setP_save (st : Strand) (n : Nat) (v : Word) : (st.setP n v).save = st.save := Strand.withSlot_save st _
@[simp] theorem Strand.setP_peerLines (st : Strand) (n : Nat) (v : Word) : (st.setP n v).peerLines = st.peerLines := Strand.withSlot_peerLines st _
@[simp] theorem Strand.setP_peerDone (st : Strand) (n : Nat) (v : Word) : (st.setP n v).peerDone = st.peerDone := Strand.withSlot_peerDone st _
@[simp] theorem Strand.setP_copied (st : Strand) (n : Nat) (v : Word) : (st.setP n v).copied = st.copied := Strand.withSlot_copied st _
@[simp] theorem Strand.setP_staging (st : Strand) (n : Nat) (v : Word) : (st.setP n v).staging = st.staging := Strand.staging_withSlot st _

@[simp] theorem Strand.setMode_team (st : Strand) (m : Half) : (st.setMode m).team = st.team := Strand.withSlot_team st _
@[simp] theorem Strand.setMode_idx (st : Strand) (m : Half) : (st.setMode m).idx = st.idx := Strand.withSlot_idx st _
@[simp] theorem Strand.setMode_replica (st : Strand) (m : Half) : (st.setMode m).replica = st.replica := Strand.withSlot_replica st _
@[simp] theorem Strand.setMode_sched (st : Strand) (m : Half) : (st.setMode m).sched = st.sched := Strand.withSlot_sched st _
@[simp] theorem Strand.setMode_slotNo (st : Strand) (m : Half) : (st.setMode m).slotNo = st.slotNo := Strand.withSlot_slotNo st _
@[simp] theorem Strand.setMode_sel (st : Strand) (m : Half) : (st.setMode m).sel = st.sel := Strand.withSlot_sel st _
@[simp] theorem Strand.setMode_pc (st : Strand) (m : Half) : (st.setMode m).pc = st.pc := Strand.withSlot_pc st _
@[simp] theorem Strand.setMode_flags (st : Strand) (m : Half) : (st.setMode m).flags = st.flags := Strand.withSlot_flags st _
@[simp] theorem Strand.setMode_trapcause (st : Strand) (m : Half) : (st.setMode m).trapcause = st.trapcause := Strand.withSlot_trapcause st _
@[simp] theorem Strand.setMode_trappc (st : Strand) (m : Half) : (st.setMode m).trappc = st.trappc := Strand.withSlot_trappc st _
@[simp] theorem Strand.setMode_trapaddr (st : Strand) (m : Half) : (st.setMode m).trapaddr = st.trapaddr := Strand.withSlot_trapaddr st _
@[simp] theorem Strand.setMode_trapinfo (st : Strand) (m : Half) : (st.setMode m).trapinfo = st.trapinfo := Strand.withSlot_trapinfo st _
@[simp] theorem Strand.setMode_epc (st : Strand) (m : Half) : (st.setMode m).epc = st.epc := Strand.withSlot_epc st _
@[simp] theorem Strand.setMode_trapvec (st : Strand) (m : Half) : (st.setMode m).trapvec = st.trapvec := Strand.withSlot_trapvec st _
@[simp] theorem Strand.setMode_timer (st : Strand) (m : Half) : (st.setMode m).timer = st.timer := Strand.withSlot_timer st _
@[simp] theorem Strand.setMode_timerDue (st : Strand) (m : Half) : (st.setMode m).timerDue = st.timerDue := Strand.withSlot_timerDue st _
@[simp] theorem Strand.setMode_cyc (st : Strand) (m : Half) : (st.setMode m).cyc = st.cyc := Strand.withSlot_cyc st _
@[simp] theorem Strand.setMode_crit (st : Strand) (m : Half) : (st.setMode m).crit = st.crit := Strand.withSlot_crit st _
@[simp] theorem Strand.setMode_promoted (st : Strand) (m : Half) : (st.setMode m).promoted = st.promoted := Strand.withSlot_promoted st _
@[simp] theorem Strand.setMode_age (st : Strand) (m : Half) : (st.setMode m).age = st.age := Strand.withSlot_age st _
@[simp] theorem Strand.setMode_readyFor (st : Strand) (m : Half) : (st.setMode m).readyFor = st.readyFor := Strand.withSlot_readyFor st _
@[simp] theorem Strand.setMode_wait (st : Strand) (m : Half) : (st.setMode m).wait = st.wait := Strand.withSlot_wait st _
@[simp] theorem Strand.setMode_flip (st : Strand) (m : Half) : (st.setMode m).flip = st.flip := Strand.withSlot_flip st _
@[simp] theorem Strand.setMode_run (st : Strand) (m : Half) : (st.setMode m).run = st.run := Strand.withSlot_run st _
@[simp] theorem Strand.setMode_nodes (st : Strand) (m : Half) : (st.setMode m).nodes = st.nodes := Strand.withSlot_nodes st _
@[simp] theorem Strand.setMode_nextNode (st : Strand) (m : Half) : (st.setMode m).nextNode = st.nextNode := Strand.withSlot_nextNode st _
@[simp] theorem Strand.setMode_batch (st : Strand) (m : Half) : (st.setMode m).batch = st.batch := Strand.withSlot_batch st _
@[simp] theorem Strand.setMode_arrivals (st : Strand) (m : Half) : (st.setMode m).arrivals = st.arrivals := Strand.withSlot_arrivals st _
@[simp] theorem Strand.setMode_sig (st : Strand) (m : Half) : (st.setMode m).sig = st.sig := Strand.withSlot_sig st _
@[simp] theorem Strand.setMode_ropeseq (st : Strand) (m : Half) : (st.setMode m).ropeseq = st.ropeseq := Strand.withSlot_ropeseq st _
@[simp] theorem Strand.setMode_buffer (st : Strand) (m : Half) : (st.setMode m).buffer = st.buffer := Strand.withSlot_buffer st _
@[simp] theorem Strand.setMode_values (st : Strand) (m : Half) : (st.setMode m).values = st.values := Strand.withSlot_values st _
@[simp] theorem Strand.setMode_presented (st : Strand) (m : Half) : (st.setMode m).presented = st.presented := Strand.withSlot_presented st _
@[simp] theorem Strand.setMode_committed (st : Strand) (m : Half) : (st.setMode m).committed = st.committed := Strand.withSlot_committed st _
@[simp] theorem Strand.setMode_issued (st : Strand) (m : Half) : (st.setMode m).issued = st.issued := Strand.withSlot_issued st _
@[simp] theorem Strand.setMode_handled (st : Strand) (m : Half) : (st.setMode m).handled = st.handled := Strand.withSlot_handled st _
@[simp] theorem Strand.setMode_tstDone (st : Strand) (m : Half) : (st.setMode m).tstDone = st.tstDone := Strand.withSlot_tstDone st _
@[simp] theorem Strand.setMode_save (st : Strand) (m : Half) : (st.setMode m).save = st.save := Strand.withSlot_save st _
@[simp] theorem Strand.setMode_peerLines (st : Strand) (m : Half) : (st.setMode m).peerLines = st.peerLines := Strand.withSlot_peerLines st _
@[simp] theorem Strand.setMode_peerDone (st : Strand) (m : Half) : (st.setMode m).peerDone = st.peerDone := Strand.withSlot_peerDone st _
@[simp] theorem Strand.setMode_copied (st : Strand) (m : Half) : (st.setMode m).copied = st.copied := Strand.withSlot_copied st _
@[simp] theorem Strand.setMode_staging (st : Strand) (m : Half) : (st.setMode m).staging = st.staging := Strand.staging_withSlot st _

@[simp] theorem Strand.setEm_team (st : Strand) (m : Word) : (st.setEm m).team = st.team := Strand.withSlot_team st _
@[simp] theorem Strand.setEm_idx (st : Strand) (m : Word) : (st.setEm m).idx = st.idx := Strand.withSlot_idx st _
@[simp] theorem Strand.setEm_replica (st : Strand) (m : Word) : (st.setEm m).replica = st.replica := Strand.withSlot_replica st _
@[simp] theorem Strand.setEm_sched (st : Strand) (m : Word) : (st.setEm m).sched = st.sched := Strand.withSlot_sched st _
@[simp] theorem Strand.setEm_slotNo (st : Strand) (m : Word) : (st.setEm m).slotNo = st.slotNo := Strand.withSlot_slotNo st _
@[simp] theorem Strand.setEm_sel (st : Strand) (m : Word) : (st.setEm m).sel = st.sel := Strand.withSlot_sel st _
@[simp] theorem Strand.setEm_pc (st : Strand) (m : Word) : (st.setEm m).pc = st.pc := Strand.withSlot_pc st _
@[simp] theorem Strand.setEm_flags (st : Strand) (m : Word) : (st.setEm m).flags = st.flags := Strand.withSlot_flags st _
@[simp] theorem Strand.setEm_trapcause (st : Strand) (m : Word) : (st.setEm m).trapcause = st.trapcause := Strand.withSlot_trapcause st _
@[simp] theorem Strand.setEm_trappc (st : Strand) (m : Word) : (st.setEm m).trappc = st.trappc := Strand.withSlot_trappc st _
@[simp] theorem Strand.setEm_trapaddr (st : Strand) (m : Word) : (st.setEm m).trapaddr = st.trapaddr := Strand.withSlot_trapaddr st _
@[simp] theorem Strand.setEm_trapinfo (st : Strand) (m : Word) : (st.setEm m).trapinfo = st.trapinfo := Strand.withSlot_trapinfo st _
@[simp] theorem Strand.setEm_epc (st : Strand) (m : Word) : (st.setEm m).epc = st.epc := Strand.withSlot_epc st _
@[simp] theorem Strand.setEm_trapvec (st : Strand) (m : Word) : (st.setEm m).trapvec = st.trapvec := Strand.withSlot_trapvec st _
@[simp] theorem Strand.setEm_timer (st : Strand) (m : Word) : (st.setEm m).timer = st.timer := Strand.withSlot_timer st _
@[simp] theorem Strand.setEm_timerDue (st : Strand) (m : Word) : (st.setEm m).timerDue = st.timerDue := Strand.withSlot_timerDue st _
@[simp] theorem Strand.setEm_cyc (st : Strand) (m : Word) : (st.setEm m).cyc = st.cyc := Strand.withSlot_cyc st _
@[simp] theorem Strand.setEm_crit (st : Strand) (m : Word) : (st.setEm m).crit = st.crit := Strand.withSlot_crit st _
@[simp] theorem Strand.setEm_promoted (st : Strand) (m : Word) : (st.setEm m).promoted = st.promoted := Strand.withSlot_promoted st _
@[simp] theorem Strand.setEm_age (st : Strand) (m : Word) : (st.setEm m).age = st.age := Strand.withSlot_age st _
@[simp] theorem Strand.setEm_readyFor (st : Strand) (m : Word) : (st.setEm m).readyFor = st.readyFor := Strand.withSlot_readyFor st _
@[simp] theorem Strand.setEm_wait (st : Strand) (m : Word) : (st.setEm m).wait = st.wait := Strand.withSlot_wait st _
@[simp] theorem Strand.setEm_flip (st : Strand) (m : Word) : (st.setEm m).flip = st.flip := Strand.withSlot_flip st _
@[simp] theorem Strand.setEm_run (st : Strand) (m : Word) : (st.setEm m).run = st.run := Strand.withSlot_run st _
@[simp] theorem Strand.setEm_nodes (st : Strand) (m : Word) : (st.setEm m).nodes = st.nodes := Strand.withSlot_nodes st _
@[simp] theorem Strand.setEm_nextNode (st : Strand) (m : Word) : (st.setEm m).nextNode = st.nextNode := Strand.withSlot_nextNode st _
@[simp] theorem Strand.setEm_batch (st : Strand) (m : Word) : (st.setEm m).batch = st.batch := Strand.withSlot_batch st _
@[simp] theorem Strand.setEm_arrivals (st : Strand) (m : Word) : (st.setEm m).arrivals = st.arrivals := Strand.withSlot_arrivals st _
@[simp] theorem Strand.setEm_sig (st : Strand) (m : Word) : (st.setEm m).sig = st.sig := Strand.withSlot_sig st _
@[simp] theorem Strand.setEm_ropeseq (st : Strand) (m : Word) : (st.setEm m).ropeseq = st.ropeseq := Strand.withSlot_ropeseq st _
@[simp] theorem Strand.setEm_buffer (st : Strand) (m : Word) : (st.setEm m).buffer = st.buffer := Strand.withSlot_buffer st _
@[simp] theorem Strand.setEm_values (st : Strand) (m : Word) : (st.setEm m).values = st.values := Strand.withSlot_values st _
@[simp] theorem Strand.setEm_presented (st : Strand) (m : Word) : (st.setEm m).presented = st.presented := Strand.withSlot_presented st _
@[simp] theorem Strand.setEm_committed (st : Strand) (m : Word) : (st.setEm m).committed = st.committed := Strand.withSlot_committed st _
@[simp] theorem Strand.setEm_issued (st : Strand) (m : Word) : (st.setEm m).issued = st.issued := Strand.withSlot_issued st _
@[simp] theorem Strand.setEm_handled (st : Strand) (m : Word) : (st.setEm m).handled = st.handled := Strand.withSlot_handled st _
@[simp] theorem Strand.setEm_tstDone (st : Strand) (m : Word) : (st.setEm m).tstDone = st.tstDone := Strand.withSlot_tstDone st _
@[simp] theorem Strand.setEm_save (st : Strand) (m : Word) : (st.setEm m).save = st.save := Strand.withSlot_save st _
@[simp] theorem Strand.setEm_peerLines (st : Strand) (m : Word) : (st.setEm m).peerLines = st.peerLines := Strand.withSlot_peerLines st _
@[simp] theorem Strand.setEm_peerDone (st : Strand) (m : Word) : (st.setEm m).peerDone = st.peerDone := Strand.withSlot_peerDone st _
@[simp] theorem Strand.setEm_copied (st : Strand) (m : Word) : (st.setEm m).copied = st.copied := Strand.withSlot_copied st _
@[simp] theorem Strand.setEm_staging (st : Strand) (m : Word) : (st.setEm m).staging = st.staging := Strand.staging_withSlot st _

@[simp] theorem Strand.setLog_team (st : Strand) (l : List LogEntry) : (st.setLog l).team = st.team := Strand.withSlot_team st _
@[simp] theorem Strand.setLog_idx (st : Strand) (l : List LogEntry) : (st.setLog l).idx = st.idx := Strand.withSlot_idx st _
@[simp] theorem Strand.setLog_replica (st : Strand) (l : List LogEntry) : (st.setLog l).replica = st.replica := Strand.withSlot_replica st _
@[simp] theorem Strand.setLog_sched (st : Strand) (l : List LogEntry) : (st.setLog l).sched = st.sched := Strand.withSlot_sched st _
@[simp] theorem Strand.setLog_slotNo (st : Strand) (l : List LogEntry) : (st.setLog l).slotNo = st.slotNo := Strand.withSlot_slotNo st _
@[simp] theorem Strand.setLog_sel (st : Strand) (l : List LogEntry) : (st.setLog l).sel = st.sel := Strand.withSlot_sel st _
@[simp] theorem Strand.setLog_pc (st : Strand) (l : List LogEntry) : (st.setLog l).pc = st.pc := Strand.withSlot_pc st _
@[simp] theorem Strand.setLog_flags (st : Strand) (l : List LogEntry) : (st.setLog l).flags = st.flags := Strand.withSlot_flags st _
@[simp] theorem Strand.setLog_trapcause (st : Strand) (l : List LogEntry) : (st.setLog l).trapcause = st.trapcause := Strand.withSlot_trapcause st _
@[simp] theorem Strand.setLog_trappc (st : Strand) (l : List LogEntry) : (st.setLog l).trappc = st.trappc := Strand.withSlot_trappc st _
@[simp] theorem Strand.setLog_trapaddr (st : Strand) (l : List LogEntry) : (st.setLog l).trapaddr = st.trapaddr := Strand.withSlot_trapaddr st _
@[simp] theorem Strand.setLog_trapinfo (st : Strand) (l : List LogEntry) : (st.setLog l).trapinfo = st.trapinfo := Strand.withSlot_trapinfo st _
@[simp] theorem Strand.setLog_epc (st : Strand) (l : List LogEntry) : (st.setLog l).epc = st.epc := Strand.withSlot_epc st _
@[simp] theorem Strand.setLog_trapvec (st : Strand) (l : List LogEntry) : (st.setLog l).trapvec = st.trapvec := Strand.withSlot_trapvec st _
@[simp] theorem Strand.setLog_timer (st : Strand) (l : List LogEntry) : (st.setLog l).timer = st.timer := Strand.withSlot_timer st _
@[simp] theorem Strand.setLog_timerDue (st : Strand) (l : List LogEntry) : (st.setLog l).timerDue = st.timerDue := Strand.withSlot_timerDue st _
@[simp] theorem Strand.setLog_cyc (st : Strand) (l : List LogEntry) : (st.setLog l).cyc = st.cyc := Strand.withSlot_cyc st _
@[simp] theorem Strand.setLog_crit (st : Strand) (l : List LogEntry) : (st.setLog l).crit = st.crit := Strand.withSlot_crit st _
@[simp] theorem Strand.setLog_promoted (st : Strand) (l : List LogEntry) : (st.setLog l).promoted = st.promoted := Strand.withSlot_promoted st _
@[simp] theorem Strand.setLog_age (st : Strand) (l : List LogEntry) : (st.setLog l).age = st.age := Strand.withSlot_age st _
@[simp] theorem Strand.setLog_readyFor (st : Strand) (l : List LogEntry) : (st.setLog l).readyFor = st.readyFor := Strand.withSlot_readyFor st _
@[simp] theorem Strand.setLog_wait (st : Strand) (l : List LogEntry) : (st.setLog l).wait = st.wait := Strand.withSlot_wait st _
@[simp] theorem Strand.setLog_flip (st : Strand) (l : List LogEntry) : (st.setLog l).flip = st.flip := Strand.withSlot_flip st _
@[simp] theorem Strand.setLog_run (st : Strand) (l : List LogEntry) : (st.setLog l).run = st.run := Strand.withSlot_run st _
@[simp] theorem Strand.setLog_nodes (st : Strand) (l : List LogEntry) : (st.setLog l).nodes = st.nodes := Strand.withSlot_nodes st _
@[simp] theorem Strand.setLog_nextNode (st : Strand) (l : List LogEntry) : (st.setLog l).nextNode = st.nextNode := Strand.withSlot_nextNode st _
@[simp] theorem Strand.setLog_batch (st : Strand) (l : List LogEntry) : (st.setLog l).batch = st.batch := Strand.withSlot_batch st _
@[simp] theorem Strand.setLog_arrivals (st : Strand) (l : List LogEntry) : (st.setLog l).arrivals = st.arrivals := Strand.withSlot_arrivals st _
@[simp] theorem Strand.setLog_sig (st : Strand) (l : List LogEntry) : (st.setLog l).sig = st.sig := Strand.withSlot_sig st _
@[simp] theorem Strand.setLog_ropeseq (st : Strand) (l : List LogEntry) : (st.setLog l).ropeseq = st.ropeseq := Strand.withSlot_ropeseq st _
@[simp] theorem Strand.setLog_buffer (st : Strand) (l : List LogEntry) : (st.setLog l).buffer = st.buffer := Strand.withSlot_buffer st _
@[simp] theorem Strand.setLog_values (st : Strand) (l : List LogEntry) : (st.setLog l).values = st.values := Strand.withSlot_values st _
@[simp] theorem Strand.setLog_presented (st : Strand) (l : List LogEntry) : (st.setLog l).presented = st.presented := Strand.withSlot_presented st _
@[simp] theorem Strand.setLog_committed (st : Strand) (l : List LogEntry) : (st.setLog l).committed = st.committed := Strand.withSlot_committed st _
@[simp] theorem Strand.setLog_issued (st : Strand) (l : List LogEntry) : (st.setLog l).issued = st.issued := Strand.withSlot_issued st _
@[simp] theorem Strand.setLog_handled (st : Strand) (l : List LogEntry) : (st.setLog l).handled = st.handled := Strand.withSlot_handled st _
@[simp] theorem Strand.setLog_tstDone (st : Strand) (l : List LogEntry) : (st.setLog l).tstDone = st.tstDone := Strand.withSlot_tstDone st _
@[simp] theorem Strand.setLog_save (st : Strand) (l : List LogEntry) : (st.setLog l).save = st.save := Strand.withSlot_save st _
@[simp] theorem Strand.setLog_peerLines (st : Strand) (l : List LogEntry) : (st.setLog l).peerLines = st.peerLines := Strand.withSlot_peerLines st _
@[simp] theorem Strand.setLog_peerDone (st : Strand) (l : List LogEntry) : (st.setLog l).peerDone = st.peerDone := Strand.withSlot_peerDone st _
@[simp] theorem Strand.setLog_copied (st : Strand) (l : List LogEntry) : (st.setLog l).copied = st.copied := Strand.withSlot_copied st _
@[simp] theorem Strand.setLog_staging (st : Strand) (l : List LogEntry) : (st.setLog l).staging = st.staging := Strand.staging_withSlot st _

@[simp] theorem Strand.setT_team (st : Strand) (t : Nat) (x : Tile) : (st.setT t x).team = st.team := Strand.withSlot_team st _
@[simp] theorem Strand.setT_idx (st : Strand) (t : Nat) (x : Tile) : (st.setT t x).idx = st.idx := Strand.withSlot_idx st _
@[simp] theorem Strand.setT_replica (st : Strand) (t : Nat) (x : Tile) : (st.setT t x).replica = st.replica := Strand.withSlot_replica st _
@[simp] theorem Strand.setT_sched (st : Strand) (t : Nat) (x : Tile) : (st.setT t x).sched = st.sched := Strand.withSlot_sched st _
@[simp] theorem Strand.setT_slotNo (st : Strand) (t : Nat) (x : Tile) : (st.setT t x).slotNo = st.slotNo := Strand.withSlot_slotNo st _
@[simp] theorem Strand.setT_sel (st : Strand) (t : Nat) (x : Tile) : (st.setT t x).sel = st.sel := Strand.withSlot_sel st _
@[simp] theorem Strand.setT_pc (st : Strand) (t : Nat) (x : Tile) : (st.setT t x).pc = st.pc := Strand.withSlot_pc st _
@[simp] theorem Strand.setT_flags (st : Strand) (t : Nat) (x : Tile) : (st.setT t x).flags = st.flags := Strand.withSlot_flags st _
@[simp] theorem Strand.setT_trapcause (st : Strand) (t : Nat) (x : Tile) : (st.setT t x).trapcause = st.trapcause := Strand.withSlot_trapcause st _
@[simp] theorem Strand.setT_trappc (st : Strand) (t : Nat) (x : Tile) : (st.setT t x).trappc = st.trappc := Strand.withSlot_trappc st _
@[simp] theorem Strand.setT_trapaddr (st : Strand) (t : Nat) (x : Tile) : (st.setT t x).trapaddr = st.trapaddr := Strand.withSlot_trapaddr st _
@[simp] theorem Strand.setT_trapinfo (st : Strand) (t : Nat) (x : Tile) : (st.setT t x).trapinfo = st.trapinfo := Strand.withSlot_trapinfo st _
@[simp] theorem Strand.setT_epc (st : Strand) (t : Nat) (x : Tile) : (st.setT t x).epc = st.epc := Strand.withSlot_epc st _
@[simp] theorem Strand.setT_trapvec (st : Strand) (t : Nat) (x : Tile) : (st.setT t x).trapvec = st.trapvec := Strand.withSlot_trapvec st _
@[simp] theorem Strand.setT_timer (st : Strand) (t : Nat) (x : Tile) : (st.setT t x).timer = st.timer := Strand.withSlot_timer st _
@[simp] theorem Strand.setT_timerDue (st : Strand) (t : Nat) (x : Tile) : (st.setT t x).timerDue = st.timerDue := Strand.withSlot_timerDue st _
@[simp] theorem Strand.setT_cyc (st : Strand) (t : Nat) (x : Tile) : (st.setT t x).cyc = st.cyc := Strand.withSlot_cyc st _
@[simp] theorem Strand.setT_crit (st : Strand) (t : Nat) (x : Tile) : (st.setT t x).crit = st.crit := Strand.withSlot_crit st _
@[simp] theorem Strand.setT_promoted (st : Strand) (t : Nat) (x : Tile) : (st.setT t x).promoted = st.promoted := Strand.withSlot_promoted st _
@[simp] theorem Strand.setT_age (st : Strand) (t : Nat) (x : Tile) : (st.setT t x).age = st.age := Strand.withSlot_age st _
@[simp] theorem Strand.setT_readyFor (st : Strand) (t : Nat) (x : Tile) : (st.setT t x).readyFor = st.readyFor := Strand.withSlot_readyFor st _
@[simp] theorem Strand.setT_wait (st : Strand) (t : Nat) (x : Tile) : (st.setT t x).wait = st.wait := Strand.withSlot_wait st _
@[simp] theorem Strand.setT_flip (st : Strand) (t : Nat) (x : Tile) : (st.setT t x).flip = st.flip := Strand.withSlot_flip st _
@[simp] theorem Strand.setT_run (st : Strand) (t : Nat) (x : Tile) : (st.setT t x).run = st.run := Strand.withSlot_run st _
@[simp] theorem Strand.setT_nodes (st : Strand) (t : Nat) (x : Tile) : (st.setT t x).nodes = st.nodes := Strand.withSlot_nodes st _
@[simp] theorem Strand.setT_nextNode (st : Strand) (t : Nat) (x : Tile) : (st.setT t x).nextNode = st.nextNode := Strand.withSlot_nextNode st _
@[simp] theorem Strand.setT_batch (st : Strand) (t : Nat) (x : Tile) : (st.setT t x).batch = st.batch := Strand.withSlot_batch st _
@[simp] theorem Strand.setT_arrivals (st : Strand) (t : Nat) (x : Tile) : (st.setT t x).arrivals = st.arrivals := Strand.withSlot_arrivals st _
@[simp] theorem Strand.setT_sig (st : Strand) (t : Nat) (x : Tile) : (st.setT t x).sig = st.sig := Strand.withSlot_sig st _
@[simp] theorem Strand.setT_ropeseq (st : Strand) (t : Nat) (x : Tile) : (st.setT t x).ropeseq = st.ropeseq := Strand.withSlot_ropeseq st _
@[simp] theorem Strand.setT_buffer (st : Strand) (t : Nat) (x : Tile) : (st.setT t x).buffer = st.buffer := Strand.withSlot_buffer st _
@[simp] theorem Strand.setT_values (st : Strand) (t : Nat) (x : Tile) : (st.setT t x).values = st.values := Strand.withSlot_values st _
@[simp] theorem Strand.setT_presented (st : Strand) (t : Nat) (x : Tile) : (st.setT t x).presented = st.presented := Strand.withSlot_presented st _
@[simp] theorem Strand.setT_committed (st : Strand) (t : Nat) (x : Tile) : (st.setT t x).committed = st.committed := Strand.withSlot_committed st _
@[simp] theorem Strand.setT_issued (st : Strand) (t : Nat) (x : Tile) : (st.setT t x).issued = st.issued := Strand.withSlot_issued st _
@[simp] theorem Strand.setT_handled (st : Strand) (t : Nat) (x : Tile) : (st.setT t x).handled = st.handled := Strand.withSlot_handled st _
@[simp] theorem Strand.setT_tstDone (st : Strand) (t : Nat) (x : Tile) : (st.setT t x).tstDone = st.tstDone := Strand.withSlot_tstDone st _
@[simp] theorem Strand.setT_save (st : Strand) (t : Nat) (x : Tile) : (st.setT t x).save = st.save := Strand.withSlot_save st _
@[simp] theorem Strand.setT_peerLines (st : Strand) (t : Nat) (x : Tile) : (st.setT t x).peerLines = st.peerLines := Strand.withSlot_peerLines st _
@[simp] theorem Strand.setT_peerDone (st : Strand) (t : Nat) (x : Tile) : (st.setT t x).peerDone = st.peerDone := Strand.withSlot_peerDone st _
@[simp] theorem Strand.setT_copied (st : Strand) (t : Nat) (x : Tile) : (st.setT t x).copied = st.copied := Strand.withSlot_copied st _
@[simp] theorem Strand.setT_staging (st : Strand) (t : Nat) (x : Tile) : (st.setT t x).staging = st.staging := Strand.staging_withSlot st _

/-- Scalar `n` read after scalar `k` is written; a write to s0 is discarded. -/
theorem Strand.getS_setS (st : Strand) (k : Nat) (v : DWord) (n : Nat) :
    (st.setS k v).getS n = if n = k ∧ k ≠ 0 then v else st.getS n := by
  unfold Strand.setS
  by_cases hk : k = 0
  · simp [hk]
  · by_cases hn : n = 0
    · simp [Strand.getS, hk, hn, Ne.symm hk]
    · simp [Strand.getS, hk, hn, cget_cset]

@[simp] theorem Strand.getS_zero (st : Strand) : st.getS 0 = 0 := rfl

/-- Vector register `n` read after `k` is written. -/
theorem Strand.getV_setV (st : Strand) (k : Nat) (v : VReg) (n : Nat) :
    (st.setV k v).getV n = if n = k then v else st.getV n := by
  simp [Strand.getV, Strand.setV, cget_cset]

/-- Predicate `n` read after `k` is written. -/
theorem Strand.getP_setP (st : Strand) (k : Nat) (v : Word) (n : Nat) :
    (st.setP k v).getP n = if n = k then v else st.getP n := by
  simp [Strand.getP, Strand.setP, cget_cset]

/-- Tile `n` read after `k` is written. -/
theorem Strand.getT_setT (st : Strand) (k : Nat) (x : Tile) (n : Nat) :
    (st.setT k x).getT n = if n = k then x else st.getT n := by
  simp only [Strand.getT, Strand.setT, Strand.slot_withSlot, cfind_cput]
  split <;> rfl

@[simp] theorem Strand.getV_setS (st : Strand) (k : Nat) (v : DWord) (n : Nat) : (st.setS k v).getV n = st.getV n := by
  unfold Strand.setS; split <;> simp [Strand.getV]
@[simp] theorem Strand.getP_setS (st : Strand) (k : Nat) (v : DWord) (n : Nat) : (st.setS k v).getP n = st.getP n := by
  unfold Strand.setS; split <;> simp [Strand.getP]
@[simp] theorem Strand.getT_setS (st : Strand) (k : Nat) (v : DWord) (n : Nat) : (st.setS k v).getT n = st.getT n := by
  unfold Strand.setS; split <;> simp [Strand.getT]
@[simp] theorem Strand.mode_setS (st : Strand) (k : Nat) (v : DWord) : (st.setS k v).mode = st.mode := by
  unfold Strand.setS; split <;> simp [Strand.mode]
@[simp] theorem Strand.em_setS (st : Strand) (k : Nat) (v : DWord) : (st.setS k v).em = st.em := by
  unfold Strand.setS; split <;> simp [Strand.em]
@[simp] theorem Strand.log_setS (st : Strand) (k : Nat) (v : DWord) : (st.setS k v).log = st.log := by
  unfold Strand.setS; split <;> simp [Strand.log]
@[simp] theorem Strand.getS_setV (st : Strand) (k : Nat) (v : VReg) (n : Nat) : (st.setV k v).getS n = st.getS n := by
  simp [Strand.setV, Strand.getS]
@[simp] theorem Strand.getP_setV (st : Strand) (k : Nat) (v : VReg) (n : Nat) : (st.setV k v).getP n = st.getP n := by
  simp [Strand.setV, Strand.getP]
@[simp] theorem Strand.getT_setV (st : Strand) (k : Nat) (v : VReg) (n : Nat) : (st.setV k v).getT n = st.getT n := by
  simp [Strand.setV, Strand.getT]
@[simp] theorem Strand.mode_setV (st : Strand) (k : Nat) (v : VReg) : (st.setV k v).mode = st.mode := by
  simp [Strand.setV, Strand.mode]
@[simp] theorem Strand.em_setV (st : Strand) (k : Nat) (v : VReg) : (st.setV k v).em = st.em := by
  simp [Strand.setV, Strand.em]
@[simp] theorem Strand.log_setV (st : Strand) (k : Nat) (v : VReg) : (st.setV k v).log = st.log := by
  simp [Strand.setV, Strand.log]
@[simp] theorem Strand.getS_setP (st : Strand) (k : Nat) (v : Word) (n : Nat) : (st.setP k v).getS n = st.getS n := by
  simp [Strand.setP, Strand.getS]
@[simp] theorem Strand.getV_setP (st : Strand) (k : Nat) (v : Word) (n : Nat) : (st.setP k v).getV n = st.getV n := by
  simp [Strand.setP, Strand.getV]
@[simp] theorem Strand.getT_setP (st : Strand) (k : Nat) (v : Word) (n : Nat) : (st.setP k v).getT n = st.getT n := by
  simp [Strand.setP, Strand.getT]
@[simp] theorem Strand.mode_setP (st : Strand) (k : Nat) (v : Word) : (st.setP k v).mode = st.mode := by
  simp [Strand.setP, Strand.mode]
@[simp] theorem Strand.em_setP (st : Strand) (k : Nat) (v : Word) : (st.setP k v).em = st.em := by
  simp [Strand.setP, Strand.em]
@[simp] theorem Strand.log_setP (st : Strand) (k : Nat) (v : Word) : (st.setP k v).log = st.log := by
  simp [Strand.setP, Strand.log]
@[simp] theorem Strand.getS_setMode (st : Strand) (m : Half) (n : Nat) : (st.setMode m).getS n = st.getS n := by
  simp [Strand.setMode, Strand.getS]
@[simp] theorem Strand.getV_setMode (st : Strand) (m : Half) (n : Nat) : (st.setMode m).getV n = st.getV n := by
  simp [Strand.setMode, Strand.getV]
@[simp] theorem Strand.getP_setMode (st : Strand) (m : Half) (n : Nat) : (st.setMode m).getP n = st.getP n := by
  simp [Strand.setMode, Strand.getP]
@[simp] theorem Strand.getT_setMode (st : Strand) (m : Half) (n : Nat) : (st.setMode m).getT n = st.getT n := by
  simp [Strand.setMode, Strand.getT]
@[simp] theorem Strand.em_setMode (st : Strand) (m : Half) : (st.setMode m).em = st.em := by
  simp [Strand.setMode, Strand.em]
@[simp] theorem Strand.log_setMode (st : Strand) (m : Half) : (st.setMode m).log = st.log := by
  simp [Strand.setMode, Strand.log]
@[simp] theorem Strand.getS_setEm (st : Strand) (m : Word) (n : Nat) : (st.setEm m).getS n = st.getS n := by
  simp [Strand.setEm, Strand.getS]
@[simp] theorem Strand.getV_setEm (st : Strand) (m : Word) (n : Nat) : (st.setEm m).getV n = st.getV n := by
  simp [Strand.setEm, Strand.getV]
@[simp] theorem Strand.getP_setEm (st : Strand) (m : Word) (n : Nat) : (st.setEm m).getP n = st.getP n := by
  simp [Strand.setEm, Strand.getP]
@[simp] theorem Strand.getT_setEm (st : Strand) (m : Word) (n : Nat) : (st.setEm m).getT n = st.getT n := by
  simp [Strand.setEm, Strand.getT]
@[simp] theorem Strand.mode_setEm (st : Strand) (m : Word) : (st.setEm m).mode = st.mode := by
  simp [Strand.setEm, Strand.mode]
@[simp] theorem Strand.log_setEm (st : Strand) (m : Word) : (st.setEm m).log = st.log := by
  simp [Strand.setEm, Strand.log]
@[simp] theorem Strand.getS_setLog (st : Strand) (l : List LogEntry) (n : Nat) : (st.setLog l).getS n = st.getS n := by
  simp [Strand.setLog, Strand.getS]
@[simp] theorem Strand.getV_setLog (st : Strand) (l : List LogEntry) (n : Nat) : (st.setLog l).getV n = st.getV n := by
  simp [Strand.setLog, Strand.getV]
@[simp] theorem Strand.getP_setLog (st : Strand) (l : List LogEntry) (n : Nat) : (st.setLog l).getP n = st.getP n := by
  simp [Strand.setLog, Strand.getP]
@[simp] theorem Strand.getT_setLog (st : Strand) (l : List LogEntry) (n : Nat) : (st.setLog l).getT n = st.getT n := by
  simp [Strand.setLog, Strand.getT]
@[simp] theorem Strand.mode_setLog (st : Strand) (l : List LogEntry) : (st.setLog l).mode = st.mode := by
  simp [Strand.setLog, Strand.mode]
@[simp] theorem Strand.em_setLog (st : Strand) (l : List LogEntry) : (st.setLog l).em = st.em := by
  simp [Strand.setLog, Strand.em]
@[simp] theorem Strand.getS_setT (st : Strand) (t : Nat) (x : Tile) (n : Nat) : (st.setT t x).getS n = st.getS n := by
  simp [Strand.setT, Strand.getS]
@[simp] theorem Strand.getV_setT (st : Strand) (t : Nat) (x : Tile) (n : Nat) : (st.setT t x).getV n = st.getV n := by
  simp [Strand.setT, Strand.getV]
@[simp] theorem Strand.getP_setT (st : Strand) (t : Nat) (x : Tile) (n : Nat) : (st.setT t x).getP n = st.getP n := by
  simp [Strand.setT, Strand.getP]
@[simp] theorem Strand.mode_setT (st : Strand) (t : Nat) (x : Tile) : (st.setT t x).mode = st.mode := by
  simp [Strand.setT, Strand.mode]
@[simp] theorem Strand.em_setT (st : Strand) (t : Nat) (x : Tile) : (st.setT t x).em = st.em := by
  simp [Strand.setT, Strand.em]
@[simp] theorem Strand.log_setT (st : Strand) (t : Nat) (x : Tile) : (st.setT t x).log = st.log := by
  simp [Strand.setT, Strand.log]
@[simp] theorem Strand.mode_setMode (st : Strand) (m : Half) : (st.setMode m).mode = m := by simp [Strand.setMode, Strand.mode]
@[simp] theorem Strand.em_setEm (st : Strand) (m : Word) : (st.setEm m).em = m := by simp [Strand.setEm, Strand.em]
@[simp] theorem Strand.log_setLog (st : Strand) (l : List LogEntry) : (st.setLog l).log = l := by simp [Strand.setLog, Strand.log]

end Sys2Proof.Machine
end

