-- ==== Sys2Proof/Laws/Memory.lean ====
section
/-!
SUPPORT. Home memory: what each operation of the memory system leaves of it, and that every one keeps its canonical form.
-/
namespace Sys2Proof.Machine

set_option Elab.async false

/-- Memory after reset is in its canonical form. -/
theorem reset_mem : State.reset.mem = [] := rfl

/-- A fold of steps that keep the invariant keeps it. -/
theorem Inv_foldl {β : Type} (f : State → β → State) (l : List β) (s : State) (hs : s.Inv)
    (hf : ∀ t b, t.Inv → (f t b).Inv) : (l.foldl f s).Inv := by
  induction l generalizing s with
  | nil => exact hs
  | cons b t ih => exact ih (f s b) (hf s b hs)

/-- A fold of steps that leave memory alone leaves it alone. -/
theorem mem_foldl {β : Type} (f : State → β → State) (l : List β) (s : State)
    (hf : ∀ t b, (f t b).mem = t.mem) : (l.foldl f s).mem = s.mem := by
  induction l generalizing s with
  | nil => rfl
  | cons b t ih => exact (ih (f s b)).trans (hf s b)

/-- The invariant speaks of memory alone. -/
theorem Inv_of_mem {s t : State} (h : t.mem = s.mem) (hs : s.Inv) : t.Inv := by
  unfold State.Inv
  rw [h]
  exact hs

/-! ### What writes home memory -/

/-- A line's masked bytes written at home keep the canonical form. -/
theorem State.homeLine_Inv {s : State} (line : Nat) (mask : BitVec 128) (words : Nat → Word) (h : s.Inv) :
    (s.homeLine line mask words).Inv := by
  unfold State.homeLine State.Inv
  have : ∀ (l : List Nat) (m : Bytes), Memory.wf m = true → Memory.wf (l.foldl (fun m w =>
      let k := BitVec.ofNat 4 (mask.toNat / 2 ^ (4 * w))
      if k = 0 then m else writeWord m (128 * line + 4 * w) (mergeBytes (readWord m (128 * line + 4 * w)) (words w) k)) m) = true := by
    intro l
    induction l with
    | nil => intro m hm; exact hm
    | cons b t ih =>
      intro m hm
      refine ih _ ?_
      dsimp only
      split
      · exact hm
      · exact wf_writeWord _ _ _ hm
  exact this _ _ h

/-- A byte outside the line that is written at home reads as before. -/
theorem State.homeLine_readByte_outside (s : State) (line : Nat) (mask : BitVec 128) (words : Nat → Word) {a : Nat}
    (ha : a / 128 ≠ line) : readByte (s.homeLine line mask words).mem a = readByte s.mem a := by
  unfold State.homeLine
  have : ∀ (l : List Nat) (m : Bytes), (∀ w ∈ l, w < 32) → readByte (l.foldl (fun m w =>
      let k := BitVec.ofNat 4 (mask.toNat / 2 ^ (4 * w))
      if k = 0 then m else writeWord m (128 * line + 4 * w) (mergeBytes (readWord m (128 * line + 4 * w)) (words w) k)) m) a = readByte m a := by
    intro l
    induction l with
    | nil => intro m _; rfl
    | cons b t ih =>
      intro m hl
      have hb : b < 32 := hl b (by simp)
      refine (ih _ (fun w hw => hl w (by simp [hw]))).trans ?_
      dsimp only
      split
      · rfl
      · exact readByte_writeWord_outside _ _ (by omega)
  exact this _ _ (fun w hw => by simpa using hw)

/-- One word's masked bytes written at home keep the canonical form. -/
theorem State.homePut_Inv {s : State} (w : Nat) (mask : BitVec 4) (v : Word) (h : s.Inv) : (s.homePut w mask v).Inv :=
  State.homeLine_Inv _ _ _ h

/-! ### What leaves home memory alone -/

@[simp] theorem State.revokeIn_mem (s : State) (core k w : Nat) : (s.revokeIn core k w).mem = s.mem := rfl
@[simp] theorem State.revoke_mem (s : State) (spared : Nat → Bool) (k w : Nat) : (s.revoke spared k w).mem = s.mem := rfl
@[simp] theorem State.putL2_mem (s : State) (k w : Nat) (x : L2Word) : (s.putL2 k w x).mem = s.mem := rfl
@[simp] theorem State.poisonAt_mem (s : State) (pas : List Nat) : (s.poisonAt pas).mem = s.mem := rfl
@[simp] theorem State.putLine_mem (s : State) (core : Nat) (l : L1Line) : (s.putLine core l).mem = s.mem := rfl
@[simp] theorem State.dropLine_mem (s : State) (core asid vline : Nat) : (s.dropLine core asid vline).mem = s.mem := rfl
@[simp] theorem State.sendPeerOut_mem (s : State) (o : PeerOut) : (s.sendPeerOut o).mem = s.mem := rfl
@[simp] theorem State.sendWrite_mem (s : State) (core : Nat) (o : PeerOut) : (s.sendWrite core o).mem = s.mem := rfl
@[simp] theorem State.overtake_mem (s : State) (core : Nat) (sel : PeerReq → Bool) (by' : Nat) : (s.overtake core sel by').mem = s.mem := rfl
@[simp] theorem State.hubSend_mem (s : State) (use : HubUse) (op : PeerOp) (home asid : Nat) (secure : Bool) (va : Nat) (mask : BitVec 128)
    (words : List Word) (places : List Nat) : (s.hubSend use op home asid secure va mask words places).mem = s.mem := rfl
@[simp] theorem State.renewOwned_mem (s : State) (k w : Nat) : (s.renewOwned k w).mem = s.mem := rfl
@[simp] theorem State.forgetWord_mem (s : State) (core w : Nat) : (s.forgetWord core w).mem = s.mem := rfl

@[simp] theorem State.refreshL2_mem (s : State) (k w : Nat) : (s.refreshL2 k w).mem = s.mem := by
  unfold State.refreshL2
  split <;> rfl

@[simp] theorem State.dropOwner_mem (s : State) (core asid vline word : Nat) : (s.dropOwner core asid vline word).mem = s.mem := by
  unfold State.dropOwner
  split
  · split <;> rfl
  · rfl

@[simp] theorem State.walk_mem (s : State) (a : Agent) (va : Nat) : (s.walk a va).mem = s.mem := by
  unfold State.walk
  split
  · split <;> rfl
  · rfl

/-! ### Every operation of the memory system keeps the canonical form -/

/-- Bytes performed at a home change memory as the home's line does. -/
theorem State.atHome_mem (s : State) (spared : Nat → Bool) (k line : Nat) (mask : BitVec 128) (words : Nat → Word) (bad : List Nat) :
    ∃ t : State, t.mem = s.mem ∧ (s.atHome spared k line mask words bad).mem = (t.homeLine line mask words).mem := by
  unfold State.atHome
  exact ⟨_, mem_foldl (fun t w => t.revoke spared k w) _ s fun _ _ => rfl, mem_foldl _ _ _ fun t w => State.refreshL2_mem t k w⟩

theorem State.atHome_Inv {s : State} (spared : Nat → Bool) (k line : Nat) (mask : BitVec 128) (words : Nat → Word) (bad : List Nat) (h : s.Inv) :
    (s.atHome spared k line mask words bad).Inv := by
  obtain ⟨t, ht, e⟩ := s.atHome_mem spared k line mask words bad
  exact Inv_of_mem e (State.homeLine_Inv _ _ _ (Inv_of_mem ht h))

/-- A byte outside the line that is performed at a home reads as before. -/
theorem State.atHome_readByte_outside (s : State) (spared : Nat → Bool) (k line : Nat) (mask : BitVec 128) (words : Nat → Word) (bad : List Nat)
    {a : Nat} (ha : a / 128 ≠ line) : readByte (s.atHome spared k line mask words bad).mem a = readByte s.mem a := by
  obtain ⟨t, ht, e⟩ := s.atHome_mem spared k line mask words bad
  rw [e, State.homeLine_readByte_outside _ _ _ _ ha, ht]

theorem State.combine_Inv {s : State} (line : Nat) (h : s.Inv) : (s.combine line).Inv := by
  unfold State.combine
  dsimp only
  split
  · exact h
  · refine Inv_foldl _ _ _ h fun t c ht => Inv_foldl _ _ _ ht fun u l hu => ?_
    split
    · refine Inv_foldl _ _ _ hu fun v e hv => ?_
      split
      · exact Inv_of_mem (State.revoke_mem _ _ _ _) (State.homePut_Inv _ _ _ hv)
      · exact hv
    · exact hu

theorem State.l2WriteHome_Inv {s : State} (k : Nat) (sel : Nat → Bool) (h : s.Inv) : (s.l2WriteHome k sel).Inv := by
  unfold State.l2WriteHome
  refine Inv_foldl _ _ _ h fun t e ht => ?_
  dsimp only
  split
  · exact ht
  · exact Inv_foldl _ _ _ (State.atHome_Inv _ _ _ _ _ _ (State.combine_Inv _ ht)) fun u x hu =>
      Inv_of_mem ((State.renewOwned_mem _ _ _).trans (State.refreshL2_mem _ _ _)) hu

@[simp] theorem State.sendLine_mem (s : State) (core home : Nat) (l : L1Line) (scope : Scope) : (s.sendLine core home l scope).mem = s.mem :=
  mem_foldl _ _ _ fun _ _ => rfl

theorem State.writeLineHome_Inv {s : State} (core : Nat) (l : L1Line) (scope : Scope) (h : s.Inv) :
    (s.writeLineHome core l scope).Inv := by
  unfold State.writeLineHome
  dsimp only
  split
  · exact h
  · split
    · exact Inv_of_mem (State.sendLine_mem _ _ _ _ _) h
    · exact State.atHome_Inv _ _ _ _ _ _ (State.l2WriteHome_Inv _ _ (State.combine_Inv _ h))

theorem State.evictL2_Inv {s : State} (k pline : Nat) (h : s.Inv) : (s.evictL2 k pline).Inv :=
  Inv_of_mem (State.onCluster_mem _ _ _) (State.l2WriteHome_Inv _ _ h)

theorem State.trimL2_Inv {s : State} (h : s.Inv) : s.trimL2.Inv := by
  unfold State.trimL2
  refine Inv_foldl _ _ _ h fun t c ht => Inv_foldl _ _ _ ht fun u e hu => ?_
  split
  · exact State.evictL2_Inv _ _ hu
  · exact hu

theorem State.l2Touch_Inv {s : State} (k line rrip : Nat) (quiet : Bool) (h : s.Inv) : (s.l2Touch k line rrip quiet).Inv := by
  unfold State.l2Touch
  split
  · split
    · exact h
    · exact h
  · dsimp only
    split
    · exact h
    · split
      · exact h
      · refine Inv_of_mem (State.onCluster_mem _ _ _) ?_
        split
        · exact State.evictL2_Inv _ _ h
        · exact Inv_of_mem (State.onCluster_mem _ _ _) (State.evictL2_Inv _ _ h)
      · exact h

theorem State.writeLineL2_Inv {s : State} (core level : Nat) (l : L1Line) (h : s.Inv) : (s.writeLineL2 core level l).Inv := by
  unfold State.writeLineL2
  dsimp only
  split
  · exact h
  · split
    · exact State.writeLineHome_Inv _ _ _ h
    · refine Inv_foldl _ _ _ (State.l2Touch_Inv _ _ _ _ (State.combine_Inv _ h)) fun t e ht => ?_
      split
      · exact ht
      · exact ht

theorem State.evict_Inv {s : State} (core asid vline : Nat) (h : s.Inv) : (s.evict core asid vline).Inv := by
  unfold State.evict
  split
  · exact h
  · refine Inv_of_mem (State.dropLine_mem _ _ _ _) ?_
    split
    · exact State.combine_Inv _ h
    · exact State.writeLineHome_Inv _ _ _ h

theorem State.evictToL2_Inv {s : State} (core : Nat) (l : L1Line) (h : s.Inv) : (s.evictToL2 core l).Inv := by
  refine Inv_of_mem (State.dropLine_mem _ _ _ _) ?_
  split
  · exact State.combine_Inv _ h
  · exact State.writeLineL2_Inv _ _ _ h

theorem State.evictAlias_Inv {s : State} (k line asid vline : Nat) (h : s.Inv) : (s.evictAlias k line asid vline).Inv := by
  unfold State.evictAlias
  refine Inv_foldl _ _ _ h fun t c ht => ?_
  split
  · refine Inv_foldl _ _ _ ht fun u l hu => ?_
    split
    · exact State.evictToL2_Inv _ _ hu
    · exact hu
  · exact ht

theorem State.makeRoom_Inv {s : State} (core : Nat) (new : L1Line) (quiet : Bool) (h : s.Inv) : (s.makeRoom core new quiet).2.Inv := by
  unfold State.makeRoom
  split
  · exact h
  · dsimp only
    split
    · exact h
    · split
      · exact State.evict_Inv _ _ _ h
      · exact Inv_of_mem (State.onCore_mem _ _ _) (State.evict_Inv _ _ _ h)
    · exact h

@[simp] theorem State.l2Fetch_mem (s : State) (k line : Nat) : (s.l2Fetch k line).mem = s.mem := by
  unfold State.l2Fetch
  split
  · rfl
  · dsimp only
    split <;> rfl

theorem State.fill_Inv {s : State} (a : Agent) (va pa : Nat) (rd wr : Bool) (reuse : Nat) (quiet : Bool) (h : s.Inv) :
    (s.fill a va pa rd wr reuse quiet).Inv := by
  unfold State.fill
  extract_lets line k s0 s1 s2 r copy words
  have h0 : s0.Inv := State.evictAlias_Inv _ _ _ _ (State.combine_Inv _ h)
  have h1 : s1.Inv := by
    simp only [s1]
    split
    · exact h0
    · exact State.l2Touch_Inv _ _ _ _ h0
  exact Inv_of_mem (State.putLine_mem _ _ _)
    (State.makeRoom_Inv _ _ _ (Inv_of_mem (State.l2Fetch_mem _ _ _) (State.l2Touch_Inv _ _ _ _ h1)))

theorem State.loadLine_Inv {s : State} (a : Agent) (vas : List Nat) (n va pa : Nat) (rd wr : Bool) (reuse : Nat) (h : s.Inv) :
    (s.loadLine a vas n va pa rd wr reuse).Inv := by
  unfold State.loadLine
  split
  · split
    · refine Inv_of_mem (State.putLine_mem _ _ _) ?_
      split
      · exact State.combine_Inv _ h
      · exact h
    · exact State.fill_Inv _ _ _ _ _ _ _ h
  · exact State.fill_Inv _ _ _ _ _ _ _ h

theorem State.storeLine_Inv {s : State} (a : Agent) (va pa : Nat) (peer : Option Nat) (rd wr : Bool) (bytes : List (Nat × Byte))
    (h : s.Inv) : (s.storeLine a va pa peer rd wr bytes).Inv := by
  unfold State.storeLine
  extract_lets line s0 hit r words
  have h0 : s0.Inv := by
    simp only [s0]
    split
    · exact h
    · refine State.evictAlias_Inv _ _ _ _ ?_
      split
      · split
        · exact State.combine_Inv _ h
        · exact h
      · exact h
  exact Inv_of_mem (State.putLine_mem _ _ _) (State.makeRoom_Inv _ _ _ h0)

theorem State.dropPage_Inv {s : State} (p : Page) (h : s.Inv) : (s.dropPage p).Inv := by
  unfold State.dropPage
  extract_lets s1 here s2
  have h1 : s1.Inv := by
    refine Inv_foldl _ _ _ h fun t c ht => Inv_foldl _ _ _ ht fun u l hu => ?_
    split
    · exact State.evict_Inv _ _ _ hu
    · exact hu
  clear_value s1
  have h2 : s2.Inv := by
    refine Inv_foldl (fun (t : State) k => (t.l2WriteHome k (fun w => here (w / 32))).onCluster k (fun c =>
      { c with l2 := c.l2.filter (fun e => !(here e.1)) })) (List.range 8) s1 h1 fun t k ht => ?_
    exact Inv_of_mem (State.onCluster_mem _ _ _) (State.l2WriteHome_Inv k _ ht)
  clear_value s2
  exact h2

theorem State.release_Inv {s : State} (core : Nat) (scope : Scope) (h : s.Inv) : (s.release core scope).Inv := by
  unfold State.release
  dsimp only
  split
  · exact h
  · refine Inv_of_mem (State.onCore_mem _ _ _) (Inv_foldl _ _ _ ?_ fun t l ht => ?_)
    · split
      · exact State.l2WriteHome_Inv _ _ h
      · exact h
    · split
      · exact State.combine_Inv _ ht
      · split
        · exact State.writeLineL2_Inv _ _ _ ht
        · exact State.writeLineHome_Inv _ _ _ ht

theorem State.acquire_Inv {s : State} (core : Nat) (scope : Scope) (h : s.Inv) : (s.acquire core scope).Inv := by
  unfold State.acquire
  dsimp only
  split
  · exact h
  · exact Inv_of_mem (State.onCluster_mem _ _ _) (State.l2WriteHome_Inv _ _ h)

theorem State.flushWord_Inv {s : State} (core w : Nat) (h : s.Inv) : (s.flushWord core w).Inv := by
  unfold State.flushWord
  dsimp only
  refine Inv_of_mem (State.onCore_mem _ _ _) (Inv_foldl _ _ _ (State.l2WriteHome_Inv _ _ (State.combine_Inv _ h)) fun t l ht => ?_)
  split
  · split
    · exact ht
    · exact State.atHome_Inv _ _ _ _ _ _ ht
  · exact ht

theorem State.shedWord_Inv {s : State} (core w : Nat) (h : s.Inv) : (s.shedWord core w).Inv := by
  unfold State.shedWord
  dsimp only
  split
  · exact State.flushWord_Inv _ _ h
  · exact h

theorem State.performHome_Inv {s : State} (core w : Nat) (mask : BitVec 4) (v : Word) (h : s.Inv) :
    (s.performHome core w mask v).Inv :=
  Inv_of_mem (State.forgetWord_mem _ _ _) (State.atHome_Inv _ _ _ _ _ _ h)

theorem State.homeRead_Inv {s : State} (w : Nat) (h : s.Inv) : (s.homeRead w).2.Inv := State.combine_Inv _ h

theorem State.homeBytes_Inv {s : State} (k : Nat) (ws : List (Nat × Byte)) (bad : List Nat) (h : s.Inv) : (s.homeBytes k ws bad).Inv := by
  unfold State.homeBytes
  split
  · exact h
  · exact State.atHome_Inv _ _ _ _ _ _ (State.l2WriteHome_Inv _ _ (State.combine_Inv _ h))

theorem State.homeStore_Inv {s : State} (pa : Nat) (bs : List Byte) (h : s.Inv) : (s.homeStore pa bs).Inv := by
  unfold State.homeStore
  exact Inv_foldl _ _ _ h fun t line ht => State.homeBytes_Inv _ _ _ ht

theorem State.homeLoad_Inv {s : State} (pa n : Nat) (h : s.Inv) : (s.homeLoad pa n).2.Inv :=
  Inv_foldl _ _ _ h fun _ _ ht => State.combine_Inv _ ht

theorem State.hubRead_Inv {s t : State} {user asid : Nat} {secure : Bool} {va n : Nat} {bs : List Byte} (h : s.Inv)
    (hr : s.hubRead user asid secure va n = .ok (bs, t)) : t.Inv := by
  unfold State.hubRead at hr
  split at hr
  · cases hr
  · dsimp only at hr
    split at hr
    · cases hr
    · cases hr
      exact Inv_foldl _ _ _ h fun _ _ ht => State.combine_Inv _ ht

theorem State.hubWrite_Inv {s t : State} {use : HubUse} {asid : Nat} {secure : Bool} {va : Nat} {bs : List Byte} (h : s.Inv)
    (hr : s.hubWrite use asid secure va bs = .ok t) : t.Inv := by
  unfold State.hubWrite at hr
  split at hr
  · cases hr
    exact h
  · split at hr
    · cases hr
    · cases hr
      split
      · exact h
      · exact State.homeStore_Inv _ _ h

/-! ### A frame copied (R247) -/

/-- A frame's contents copied keep the canonical form. -/
theorem State.copyFrame_Inv {s : State} (src dst size : Nat) (h : s.Inv) : (s.copyFrame src dst size).Inv := by
  unfold State.copyFrame
  extract_lets inside lines t moved
  have ht : t.Inv := Inv_foldl _ _ _ h fun _ _ hu => State.combine_Inv _ hu
  clear_value t
  obtain ⟨hp, hd⟩ := (canonical_iff unlistedByte t.mem).mp ht
  refine (canonical_iff unlistedByte _).mpr ⟨?_, fun e he => ?_⟩
  · refine List.pairwise_append.mpr ⟨hp.filter _, List.pairwise_append.mpr ⟨List.pairwise_map.mpr ?_, hp.filter _, ?_⟩, ?_⟩
    · refine (hp.filter _).imp_of_mem fun {x y} hx hy hxy => ?_
      simp only [List.mem_filter, inside, Bool.and_eq_true, decide_eq_true_eq] at hx hy
      simp only [moved]
      omega
    · simp only [List.mem_map, List.mem_filter, inside, moved, Bool.and_eq_true, decide_eq_true_eq]
      rintro x ⟨y, ⟨_, hy⟩, rfl⟩ z ⟨_, hz⟩
      simp only
      omega
    · simp only [List.mem_append, List.mem_map, List.mem_filter, inside, moved, Bool.and_eq_true, decide_eq_true_eq]
      rintro x ⟨_, hx⟩ z (⟨y, ⟨_, hy⟩, rfl⟩ | ⟨_, hz⟩)
      · simp only
        omega
      · omega
  · simp only [List.mem_append, List.mem_map, List.mem_filter] at he
    rcases he with ⟨he, _⟩ | ⟨y, ⟨hy, _⟩, rfl⟩ | ⟨he, _⟩
    · exact hd e he
    · exact hd y hy
    · exact hd e he

end Sys2Proof.Machine
end

