-- ==== Sys2Proof/Laws/Ops.lean ====
section
/-!
SUPPORT. What each shared operation of a meaning can do: acting for the current strand, completing, trapping, jumping; and
what barriers, ends of strands and tear-downs leave of home memory.
-/
namespace Sys2Proof.Machine

set_option Elab.async false

/-! ### Acting for the current strand -/

/-- With a current strand, a meaning is what it does for it. -/
theorem onCur_eq {s : State} {st : Strand} (h : s.strand? = some st) (f : Strand → Out) : onCur s f = f st := by
  unfold onCur
  rw [h]

/-- Without a current strand, a meaning faults. -/
theorem onCur_none {s : State} (h : s.strand? = none) (f : Strand → Out) : onCur s f = .fault .noStrand := by
  unfold onCur
  rw [h]

/-- A meaning answers a next state only for a current strand. -/
theorem onCur_next {s t : State} {f : Strand → Out} (h : onCur s f = .next t) : ∃ st, s.strand? = some st ∧ f st = .next t := by
  unfold onCur at h
  split at h
  · exact ⟨_, ‹_›, h⟩
  · cases h

/-- The current strand stands at `cur` in the table. -/
theorem strandAt_cur {s : State} {st : Strand} (h : s.strand? = some st) : s.strandAt s.cur = some st := h

/-! ### Completing (R66) -/

/-- Where no raised flag traps, an instruction that completes is done. -/
theorem finish_done {s : State} {st : Strand} {fl : IFlags} (h : fl &&& (s.headerOf st).trapen = 0) :
    finish s st fl = .next (s.done st fl) := by
  unfold finish State.complete
  rw [if_pos h]
  rfl

/-- An instruction that raises no flag and completes is done. -/
theorem finish_zero (s : State) (st : Strand) : finish s st 0 = .next (s.done st 0) := finish_done (by simp)

/-- The instruction of a completed strand leaves the strand at the next word. -/
theorem done_strand (s : State) (st : Strand) (fl : IFlags) :
    (s.done st fl).strand? = some { st with flags := st.flags ||| fl, wait := .none, pc := st.pc + 4 } := by
  unfold State.done
  exact State.strand?_putStrand _ _

@[simp] theorem done_mem (s : State) (st : Strand) (fl : IFlags) : (s.done st fl).mem = s.mem := rfl

/-- A completed instruction changes the executing strand alone. -/
theorem done_strandOnly (s : State) (st : Strand) (fl : IFlags) : s.StrandOnly (s.done st fl) :=
  ⟨rfl, fun _ h => State.strandAt_putStrand_ne _ _ h⟩

/-! ### Traps (R70–R73) -/

@[simp] theorem leaveCritWait_mem (s : State) (i : Nat) (st : Strand) : (s.leaveCritWait i st).mem = s.mem := by
  unfold State.leaveCritWait
  split <;> rfl

@[simp] theorem leaveCritWait_cur (s : State) (i : Nat) (st : Strand) : (s.leaveCritWait i st).cur = s.cur := by
  unfold State.leaveCritWait
  split <;> rfl

@[simp] theorem leaveCritWait_strands (s : State) (i : Nat) (st : Strand) : (s.leaveCritWait i st).strands = s.strands := by
  unfold State.leaveCritWait
  split <;> rfl

/-- A strand that does not wait for a critical slot leaves no waiting list. -/
theorem leaveCritWait_eq (s : State) (i : Nat) {st : Strand} (h : st.wait ≠ .crit) : s.leaveCritWait i st = s := by
  unfold State.leaveCritWait
  rw [if_pos (by simpa using h)]

/-- R73: a trap enters the handler of a strand that can trap. -/
theorem takeTrap_enters {s : State} {i : Nat} {st : Strand} (h : s.strandAt i = some st) (hc : st.CanTrap) (t : Trap) :
    s.takeTrap i t = (s.leaveCritWait i st).putStrandAt i (st.enterTrap t) := by
  obtain ⟨h1, h2⟩ := hc
  have h2' : ¬ st.trapvec = 4294967295#64 := h2
  unfold State.takeTrap
  rw [h]
  simp [h1, h2']

/-- R73, R23, R285: everything a trap can do. -/
theorem takeTrap_cases {s : State} {i : Nat} {st : Strand} (h : s.strandAt i = some st) (t : Trap) :
    (st.active? = true ∧ t.cause = 0x08 ∧ s.takeTrap i t = s.putStrandAt i { st with timerDue := true }) ∨
    ((st.active? = true ∧ t.cause ≠ 0x08 ∨ st.active? = false ∧ st.trapvec = 0xFFFFFFFF) ∧ s.level st = 0 ∧
      s.takeTrap i t = s.killStrand i .strandKilled t.cause t.app t.addr) ∨
    ((st.active? = true ∧ t.cause ≠ 0x08 ∨ st.active? = false ∧ st.trapvec = 0xFFFFFFFF) ∧ s.level st ≠ 0 ∧
      s.takeTrap i t =
        s.putStrandAt i { st with wait := .release, presented := some (.cause t.cause t.pc t.app t.addr), committed := false }) ∨
    (st.CanTrap ∧ s.takeTrap i t = (s.leaveCritWait i st).putStrandAt i (st.enterTrap t)) := by
  unfold State.takeTrap Strand.CanTrap
  rw [h]
  by_cases ha : st.active? = true
  · by_cases hc : t.cause = 0x08
    · simp [ha, hc]
    · by_cases hl : s.level st = 0
      · simp [ha, hc, hl]
      · simp [ha, hc, hl]
  · have ha' : st.active? = false := by simpa using ha
    by_cases hv : st.trapvec = 0xFFFFFFFF
    · by_cases hl : s.level st = 0
      · simp [ha', hv, hl]
      · simp [ha', hv, hl]
    · have hv' : ¬ st.trapvec = 4294967295#64 := hv
      simp [ha', hv']

/-- R57, R70: the trap of the current strand at issue. -/
theorem trapCur_enters {s : State} {st : Strand} (h : s.strand? = some st) (hc : st.CanTrap) (t : Trap) :
    trapCur s t = .next ((s.leaveCritWait s.cur st).putStrand (st.enterTrap t)) := by
  unfold trapCur
  rw [takeTrap_enters (strandAt_cur h) hc]
  unfold State.putStrand
  rw [leaveCritWait_cur]

/-- R57: an ILLEGAL at issue enters the handler. -/
theorem illegal_enters {s : State} {st : Strand} (h : s.strand? = some st) (hc : st.CanTrap) (addr : DWord) :
    illegal s st addr = .next ((s.leaveCritWait s.cur st).putStrand (st.enterTrap (Trap.atIssue st 0x01 0 addr))) :=
  trapCur_enters h hc _

/-- R57, R70: a FORMAT at issue enters the handler. -/
theorem formatTrap_enters {s : State} {st : Strand} (h : s.strand? = some st) (hc : st.CanTrap) (b : Bad) :
    formatTrap s st b = .next ((s.leaveCritWait s.cur st).putStrand (st.enterTrap (Trap.atIssue st 0x03 b.detail 0))) :=
  trapCur_enters h hc _

/-- R57: an ALIGN at issue enters the handler. -/
theorem alignTrap_enters {s : State} {st : Strand} (h : s.strand? = some st) (hc : st.CanTrap) (addr : DWord) :
    alignTrap s st addr = .next ((s.leaveCritWait s.cur st).putStrand (st.enterTrap (Trap.atIssue st 0x04 0 addr))) :=
  trapCur_enters h hc _

/-! ### Transfers of control (R58) -/

/-- R58: a transfer to a target that is in range, and aligned where a register gives it, sets the pc. -/
theorem jumpTo_good {s : State} {st : Strand} {reg : Bool} {t : DWord} (after : Strand → Strand)
    (h : t.toNat < 65536) (ha : reg = true → t.toNat % 4 = 0) :
    jumpTo s st reg t after = .next (s.putStrand { (after st) with pc := t.toNat }) := by
  have h1 : ¬ 65536 ≤ t.toNat := by omega
  unfold jumpTo targetTrap
  cases reg with
  | false => simp [h1]
  | true => simp [h1, ha rfl]

/-- R58: everything a transfer can do. -/
theorem jumpTo_cases (s : State) (st : Strand) (reg : Bool) (t : DWord) (after : Strand → Strand) :
    (reg = true ∧ t.toNat % 4 ≠ 0 ∧ jumpTo s st reg t after = trapCur s (Trap.atIssue st 0x04 0 t)) ∨
    ((reg = true → t.toNat % 4 = 0) ∧ 65536 ≤ t.toNat ∧ jumpTo s st reg t after = trapCur s (Trap.atIssue st 0x01 0 t)) ∨
    ((reg = true → t.toNat % 4 = 0) ∧ t.toNat < 65536 ∧
      jumpTo s st reg t after = .next (s.putStrand { (after st) with pc := t.toNat })) := by
  by_cases h : reg = true ∧ t.toNat % 4 ≠ 0
  · refine .inl ⟨h.1, h.2, ?_⟩
    unfold jumpTo targetTrap
    simp [h.1, h.2]
  · have ha : reg = true → t.toNat % 4 = 0 := fun hr => by
      by_cases e : t.toNat % 4 = 0
      · exact e
      · exact absurd ⟨hr, e⟩ h
    by_cases hb : 65536 ≤ t.toNat
    · refine .inr (.inl ⟨ha, hb, ?_⟩)
      unfold jumpTo targetTrap
      cases reg with
      | false => simp [hb]
      | true => simp [hb, ha rfl]
    · exact .inr (.inr ⟨ha, by omega, jumpTo_good after (by omega) ha⟩)

/-! ### What leaves home memory alone -/

@[simp] theorem onRope_mem (s : State) (i : Nat) (f : Rope → Rope) : (s.onRope i f).mem = s.mem := by
  unfold State.onRope
  split <;> rfl

@[simp] theorem noteSync_mem (s : State) (st : Strand) : (s.noteSync st).mem = s.mem := State.onTeam_mem _ _ _

@[simp] theorem pushValue_mem (s : State) (st : Strand) (v : RopeValue) : (s.pushValue st v).mem = s.mem := by
  unfold State.pushValue
  split
  · rfl
  · exact mem_foldl _ _ _ fun t e => State.onStrandAt_mem _ _ _

@[simp] theorem putBarrier_mem (s : State) (st : Strand) (lv : BarLevel) (n : Nat) (b : Barrier) :
    (s.putBarrier st lv n b).mem = s.mem := by
  unfold State.putBarrier
  split
  · exact State.onTeam_mem _ _ _
  · exact State.onGang_mem _ _ _
  · exact State.onLaunch_mem _ _ _
  · exact State.onLaunch_mem _ _ _

@[simp] theorem barCheck_mem (s : State) (st : Strand) (lv : BarLevel) (n : Nat) : (s.barCheck st lv n).mem = s.mem := by
  unfold State.barCheck
  dsimp only
  split
  · exact putBarrier_mem _ _ _ _ _
  · rfl

/-- A visit to every declared barrier that leaves memory alone at each leaves it alone. -/
theorem eachBar_mem (s : State) (st : Strand) (f : State → BarLevel → Nat → State) (hf : ∀ t lv n, (f t lv n).mem = t.mem) :
    (s.eachBar st f).mem = s.mem := by
  unfold State.eachBar
  exact mem_foldl _ _ _ fun t lv => mem_foldl _ _ _ fun u n => hf u lv n

@[simp] theorem barEnded_mem (s : State) (st : Strand) (killed : Bool) : (s.barEnded st killed).mem = s.mem := by
  unfold State.barEnded
  split
  · rfl
  · refine eachBar_mem _ _ _ fun t lv n => ?_
    extract_lets b t1 b1
    have h1 : t1.mem = t.mem := by
      cases killed
      · rfl
      · exact putBarrier_mem _ _ _ _ _
    split
    · exact h1
    · exact (barCheck_mem _ _ _ _).trans h1

@[simp] theorem leaveKnit_mem (s : State) (tid : Nat) : (s.leaveKnit tid).mem = s.mem := rfl

@[simp] theorem grantCrit_mem (s : State) (core : Nat) (sched : Bool) : (s.grantCrit core sched).mem = s.mem := by
  unfold State.grantCrit
  split
  · rfl
  · split
    · rfl
    · rw [State.onStrandAt_mem, State.onCore_mem]

@[simp] theorem endCrit_mem (s : State) (i : Nat) (st : Strand) : (s.endCrit i st).mem = s.mem := by
  unfold State.endCrit
  rw [grantCrit_mem, State.onStrandAt_mem]

@[simp] theorem abandonReads_mem (s : State) (i : Nat) : (s.abandonReads i).mem = s.mem := by
  unfold State.abandonReads
  split <;> rfl

@[simp] theorem tellParts_mem (s : State) (lid n : Nat) (k : PeerBarrier) : (s.tellParts lid n k).mem = s.mem := by
  unfold State.tellParts
  split <;> rfl

@[simp] theorem tellEnd_mem (s : State) (i : Nat) (st : Strand) (killed : Bool) : (s.tellEnd i st killed).mem = s.mem := by
  unfold State.tellEnd
  dsimp only
  split
  · rfl
  · exact (State.onStrandAt_mem _ _ _).trans (mem_foldl _ _ _ fun _ _ => tellParts_mem _ _ _ _)

@[simp] theorem settleBars_mem (s : State) (k : Nat) : (s.settleBars k).mem = s.mem := by
  unfold State.settleBars
  dsimp only
  split <;> rfl

@[simp] theorem settleSpills_mem (s : State) : s.settleSpills.mem = s.mem := by
  unfold State.settleSpills
  extract_lets t out
  have ht : t.mem = s.mem := mem_foldl _ _ _ settleBars_mem
  clear_value out t
  exact ht

@[simp] theorem unqueue_mem (s : State) (i gang : Nat) : (s.unqueue i gang).mem = s.mem := State.onGang_mem _ _ _

@[simp] theorem endStrand_mem (s : State) (i : Nat) (how : Run) : (s.endStrand i how).mem = s.mem := by
  unfold State.endStrand
  split
  · rfl
  · dsimp only
    rw [barEnded_mem, tellEnd_mem, abandonReads_mem, unqueue_mem, State.onCore_mem, State.onStrandAt_mem]
    split
    · exact endCrit_mem _ _ _
    · rfl

@[simp] theorem removeTeam_mem (s : State) (tid : Nat) : (s.removeTeam tid).mem = s.mem := by
  unfold State.removeTeam
  extract_lets t mine s1 s2 s3 s4 s5 s6
  have h2 : s2.mem = s.mem := by
    refine (mem_foldl _ _ _ fun u e => ?_).trans (leaveKnit_mem s tid)
    split
    · rfl
    · refine eachBar_mem _ _ _ fun u lv n => ?_
      split <;> simp
  have h4 : s4.mem = s.mem := (State.onGang_mem _ _ _).trans h2
  have h5 : s5.mem = s.mem := by
    change (if _ then _ else _ : State).mem = _
    split
    · exact h4
    · exact h4
  have h6 : s6.mem = s.mem := by
    change (if _ then _ else _ : State).mem = _
    split
    · exact h5
    · exact (State.onLaunch_mem _ _ _).trans h5
  exact (settleSpills_mem _).trans h6

@[simp] theorem reap_mem (s : State) (tid : Nat) : (s.reap tid).mem = s.mem := by
  unfold State.reap
  split
  · rfl
  · extract_lets t group s1
    have h1 : s1.mem = s.mem := mem_foldl _ _ _ fun u i => removeTeam_mem u i
    split <;> exact h1

@[simp] theorem killStrand_mem (s : State) (i : Nat) (cls : Cls) (cause pc : Nat) (addr : DWord) :
    (s.killStrand i cls cause pc addr).mem = s.mem := by
  unfold State.killStrand
  split
  · rfl
  · rw [reap_mem, endStrand_mem, State.onLaunch_mem]

/-- R73: a trap leaves home memory alone. -/
@[simp] theorem takeTrap_mem (s : State) (i : Nat) (t : Trap) : (s.takeTrap i t).mem = s.mem := by
  cases h : s.strandAt i with
  | none => unfold State.takeTrap; rw [h]
  | some st =>
    rcases takeTrap_cases h t with ⟨_, _, e⟩ | ⟨_, _, e⟩ | ⟨_, _, e⟩ | ⟨_, e⟩ <;> rw [e]
    · rfl
    · exact killStrand_mem _ _ _ _ _ _
    · rfl
    · rw [State.putStrandAt_mem, leaveCritWait_mem]

/-- R66: a completion leaves home memory alone. -/
@[simp] theorem complete_mem (s : State) (i : Nat) (st : Strand) (fl : IFlags) : (s.complete i st fl).mem = s.mem := by
  unfold State.complete
  dsimp only
  split
  · rfl
  · exact takeTrap_mem _ _ _

/-- R259: what a tear-down does with one L1 line keeps memory in its canonical form. -/
theorem decideLine_Inv {s : State} (lid core : Nat) (l : L1Line) (h : s.Inv) : (s.decideLine lid core l).Inv := by
  unfold State.decideLine
  dsimp only
  split
  · exact h
  · exact Inv_of_mem (State.putLine_mem _ _ _) (State.writeLineHome_Inv _ _ _ h)

/-- R259: a tear-down's choice of words keeps memory in its canonical form. -/
theorem decideWords_Inv {s : State} (lid : Nat) (h : s.Inv) : (s.decideWords lid).Inv := by
  unfold State.decideWords
  extract_lets asid s1 ours s2
  have h1 : s1.Inv := Inv_foldl _ _ _ h fun t c ht => Inv_foldl _ _ _ ht fun u line hu => by
    split
    · exact hu
    · split
      · exact State.combine_Inv _ hu
      · exact decideLine_Inv _ _ _ hu
  have h2 : s2.Inv := by
    change State.Inv (List.foldl _ _ _)
    exact Inv_foldl _ _ _ h1 fun t k ht => State.l2WriteHome_Inv _ _ ht
  clear_value s2
  exact Inv_of_mem (s := s2) rfl h2

/-- R259: a tear-down keeps memory in its canonical form. -/
theorem tearDown_Inv {s : State} (lid : Nat) (e : ErrEvent) (h : s.Inv) : (s.tearDown lid e).Inv := by
  unfold State.tearDown
  split
  · exact Inv_of_mem (State.onLaunch_mem _ _ _) h
  · extract_lets sd mine s0 s2 ids s3 s4
    have hd : sd.Inv := decideWords_Inv _ (Inv_of_mem (State.onLaunch_mem _ _ _) h)
    have h0 : s0.Inv := by
      refine Inv_of_mem (s := sd) ?_ hd
      simp only [s0]
      split
      · exact mem_foldl _ _ _ fun _ _ => tellEnd_mem _ _ _ _
      · rfl
    clear_value s0
    have h2 : s2.mem = s0.mem := mem_foldl _ _ _ fun t i => leaveKnit_mem t i
    clear_value s2
    have h3 : s3.mem = s2.mem := rfl
    clear_value s3
    have h4 : s4.mem = s3.mem := mem_foldl _ _ _ fun t x => grantCrit_mem t _ _
    refine Inv_of_mem (settleSpills_mem _) (Inv_of_mem (State.onLaunch_mem _ _ _) (Inv_of_mem (s := s0) ?_ h0))
    exact h4.trans (h3.trans h2)

theorem diverge_Inv {s : State} (st : Strand) (pc : Nat) (h : s.Inv) : (s.diverge st pc).Inv := by
  unfold State.diverge
  exact tearDown_Inv _ _ h

/-- R281, R282: ordering a rollback keeps memory in its canonical form. -/
@[simp] theorem rollback_Inv {s : State} (st : Strand) (event pc seq : Nat) (sigOf : Nat → DWord) (h : s.Inv) :
    (s.rollback st event pc seq sigOf).Inv := by
  unfold State.rollback
  dsimp only
  split
  · exact h
  · split
    · exact diverge_Inv _ _ h
    · exact Inv_of_mem (onRope_mem _ _ _) h

/-- R281, R282: everything the order of a rollback can do. -/
theorem rollback_cases (s : State) (st : Strand) (event pc seq : Nat) (sigOf : Nat → DWord) :
    ((s.ropeOf st).rolling.isSome = true ∧ s.rollback st event pc seq sigOf = s) ∨
    ((s.ropeOf st).rolling = none ∧ 2 ≤ (s.ropeOf st).retry ∧ s.rollback st event pc seq sigOf = s.diverge st pc) ∨
    ((s.ropeOf st).rolling = none ∧ (s.ropeOf st).retry < 2 ∧
      s.rollback st event pc seq sigOf = s.onRope (s.team st.team).rope (fun r => { r with
        rolling := some { event := event, pc := pc, seq := seq, infos := (s.replicas st).map (fun k => (k, sigOf k)) } })) := by
  unfold State.rollback
  dsimp only
  split
  · exact .inl ⟨‹_›, rfl⟩
  · have hn : (s.ropeOf st).rolling = none := Option.not_isSome_iff_eq_none.mp ‹_›
    split
    · exact .inr (.inl ⟨hn, by omega, rfl⟩)
    · exact .inr (.inr ⟨hn, by omega, rfl⟩)

/-- R282: a rollback leaves home memory alone. -/
@[simp] theorem rollbackNow_mem (s : State) (st : Strand) (h : RopeHalt) : (s.rollbackNow st h).mem = s.mem := by
  unfold State.rollbackNow
  extract_lets rid r ids sa sb s1 s2 s3
  have ha : sa.mem = s.mem := mem_foldl _ _ _ fun u e => by
    split
    · exact endCrit_mem _ _ _
    · rfl
  have hb : sb.mem = sa.mem := mem_foldl _ _ _ fun u e => by rw [abandonReads_mem, unqueue_mem, leaveCritWait_mem]
  have h2 : s2.mem = sb.mem := mem_foldl (s := s1) _ _ fun u i => by
    dsimp only
    rw [State.onLaunch_mem, State.onGang_mem]
  have h3 : s3.mem = s.mem := (onRope_mem _ _ _).trans (h2.trans (hb.trans ha))
  refine (mem_foldl _ _ _ fun u i => ?_).trans h3
  split
  · split <;> rfl
  · rfl

/-- R282: an attempt at a rollback leaves home memory alone. -/
@[simp] theorem rollTry_mem (s : State) (st : Strand) (h : RopeHalt) : (s.rollTry st h).mem = s.mem := by
  unfold State.rollTry
  split
  · exact rollbackNow_mem _ _ _
  · rfl

@[simp] theorem copyOver_mem (s : State) (i : Nat) (odd donor : Strand) : (s.copyOver i odd donor).mem = s.mem := by
  unfold State.copyOver
  dsimp only
  rw [State.putStrandAt_mem, abandonReads_mem]
  split
  · rw [endCrit_mem, leaveCritWait_mem]
  · rw [leaveCritWait_mem]

@[simp] theorem rebuild_mem (s : State) (st : Strand) (odd donor : Nat) : (s.rebuild st odd donor).mem = s.mem := by
  unfold State.rebuild
  extract_lets rs rid s1 teamOf s2
  have h1 : s1.mem = s.mem := mem_foldl _ _ _ fun u e => by
    split
    · rfl
    · split
      · exact copyOver_mem _ _ _ _
      · rfl
  have h2 : s2.mem = s1.mem := by
    simp only [s2]
    split
    · rw [State.onLaunch_mem, State.onTeam_mem]
    · rfl
  exact (onRope_mem _ _ _).trans (h2.trans h1)

@[simp] theorem minority_mem (s : State) (st : Strand) (odd pc seq : Nat) (sig : DWord) :
    (s.minority st odd pc seq sig).mem = s.mem := by
  unfold State.minority
  refine mem_foldl _ _ _ fun u e => ?_
  split
  · split
    · rw [State.putStrandAt_mem, abandonReads_mem]
    · rfl
  · rfl

theorem ropeError_Inv {s : State} (st : Strand) (pc : Nat) (h : s.Inv) : (s.ropeError st pc).Inv := by
  unfold State.ropeError
  dsimp only
  split
  · exact Inv_of_mem (by rw [minority_mem, onRope_mem, rebuild_mem]) h
  · exact rollback_Inv _ _ _ _ _ h

/-- R70, R123, R210, R285: everything a fatal cause can do. -/
theorem fatalAt_cases {s : State} {i : Nat} {st : Strand} (h : s.strandAt i = some st) (code pc app : Nat) (addr : DWord) :
    (code = 0x12 ∧ s.level st = 0 ∧ s.fatalAt i code pc app addr = s.killStrand i .uncorrectable 0x12 app addr) ∨
    (code = 0x12 ∧ s.level st ≠ 0 ∧ s.fatalAt i code pc app addr = (s.onStrandAt i (fun x => { x with committed := false })).ropeError st app) ∨
    (code ≠ 0x12 ∧ s.level st = 0 ∧ s.fatalAt i code pc app addr =
      s.tearDown (s.team st.team).launch (s.errorEvent st (if code = 0x10 then .translation else .permission) code app addr)) ∨
    (code ≠ 0x12 ∧ s.level st ≠ 0 ∧
      s.fatalAt i code pc app addr =
        s.putStrandAt i { st with wait := .release, presented := some (.cause code pc app addr), committed := false }) := by
  unfold State.fatalAt
  rw [h]
  by_cases hc : code = 0x12 <;> by_cases hl : s.level st = 0 <;> simp [hc, hl]

/-- R70: a fatal cause keeps memory in its canonical form. -/
theorem fatalAt_Inv {s : State} (i code pc app : Nat) (addr : DWord) (h : s.Inv) : (s.fatalAt i code pc app addr).Inv := by
  cases hs : s.strandAt i with
  | none => unfold State.fatalAt; rw [hs]; exact h
  | some st =>
    rcases fatalAt_cases hs code pc app addr with ⟨_, _, e⟩ | ⟨_, _, e⟩ | ⟨_, _, e⟩ | ⟨_, _, e⟩ <;> rw [e]
    · exact Inv_of_mem (killStrand_mem _ _ _ _ _ _) h
    · exact ropeError_Inv _ _ (Inv_of_mem (State.onStrandAt_mem _ _ _) h)
    · exact tearDown_Inv _ _ h
    · exact h

theorem fatal_Inv {s : State} (i code pc : Nat) (addr : DWord) (h : s.Inv) : (s.fatal i code pc addr).Inv := fatalAt_Inv _ _ _ _ _ h

end Sys2Proof.Machine
end

