-- ==== Sys2Proof/Laws/PerInstr.lean ====
section
/-!
SUPPORT. For every instruction: decoding the word the encoder gives it gives it back. An event has no word.
-/
namespace Sys2Proof.Laws.Codec

set_option Elab.async false
set_option linter.unusedSimpArgs false

/-- R50: the number of a packed word. -/
theorem packWord_toNat {op d a b : Nat} (ho : op < 256) (hd : d < 256) (ha : a < 256) (hb : b < 256) :
    (packWord op d a b).toNat = op * 16777216 + d * 65536 + a * 256 + b := by
  unfold packWord
  rw [BitVec.toNat_ofNat, show (2:Nat)^24 = 16777216 from rfl, show (2:Nat)^16 = 65536 from rfl, show (2:Nat)^8 = 256 from rfl,
    show (2:Nat)^32 = 4294967296 from rfl]
  omega

/-- A word decodes to what its four fields decode to. -/
theorem decodeWord_of_parts (w : Word) {op d a b : Nat} {i : Instr} (h1 : w.toNat / 16777216 = op)
    (h2 : w.toNat / 65536 % 256 = d) (h3 : w.toNat / 256 % 256 = a) (h4 : w.toNat % 256 = b)
    (hf : decodeFields op d a b = some i) : decodeWord w = .ok i := by
  subst h1 h2 h3 h4
  unfold decodeWord
  simp only []
  rw [show (2:Nat)^24 = 16777216 from rfl, show (2:Nat)^16 = 65536 from rfl, show (2:Nat)^8 = 256 from rfl]
  rw [hf]

/-- A packed word decodes to what its fields decode to. -/
theorem decode_of_fields {op d a b : Nat} {i : Instr} {w : Word} (ho : op < 256) (hd : d < 256) (ha : a < 256)
    (hb : b < 256) (hf : decodeFields op d a b = some i) (hw : some (packWord op d a b) = some w) :
    decodeWord w = .ok i := by
  cases hw
  have h := packWord_toNat ho hd ha hb
  exact decodeWord_of_parts _ (by omega) (by omega) (by omega) (by omega) hf

/-- A 16-bit field is put together from its two bytes. -/
theorem half_ofNat (x : BitVec 16) : BitVec.ofNat 16 (x.toNat / 256 * 256 + x.toNat % 256) = x := by
  apply BitVec.eq_of_toNat_eq
  have := x.isLt
  rw [BitVec.toNat_ofNat]; omega

/-- A 24-bit field is put together from its three bytes. -/
theorem off24_ofNat (x : BitVec 24) :
    BitVec.ofNat 24 (x.toNat / 65536 * 65536 + x.toNat / 256 % 256 * 256 + x.toNat % 256) = x := by
  apply BitVec.eq_of_toNat_eq
  have := x.isLt
  rw [BitVec.toNat_ofNat]; omega

/-- An 8-bit field is its byte. -/
theorem byte_ofNat (x : BitVec 8) : BitVec.ofNat 8 x.toNat = x := by simp

/-- A 6-bit field is its number. -/
theorem off6_ofNat (x : BitVec 6) : BitVec.ofNat 6 (x.toNat % 64) = x := by
  apply BitVec.eq_of_toNat_eq
  have := x.isLt
  rw [BitVec.toNat_ofNat]; omega

/-- A 6-bit field lies below 64. -/
theorem off6_lt (x : BitVec 6) : x.toNat < 64 := x.isLt

/-- R69: the numbers of special registers fit in a byte. -/
theorem specialRegs_lt : ∀ a ∈ Machine.specialRegs, a < 256 := by decide

/-- R24: a tag's code names it. -/
theorem tag_round (t : Tag) (h : Machine.tagValid t = true) :
    Machine.tagOfCode (Machine.tagCode t) = some t ∧ Machine.tagCode t < 256 := by
  cases t with
  | pl hh p =>
    simp only [Machine.tagValid, Bool.and_eq_true, decide_eq_true_eq] at h
    obtain ⟨h1, h2⟩ := h
    have hp : p = 2 ∨ p = 3 ∨ p = 4 ∨ p = 5 ∨ p = 6 ∨ p = 7 ∨ p = 8 := by omega
    rcases hp with rfl | rfl | rfl | rfl | rfl | rfl | rfl <;> cases hh <;> decide
  | _ => decide

/-- R12: a scope's code names it. -/
theorem scope_round (sc : Scope) : Machine.scopeOfCode (Machine.scopeCode sc) = sc ∧ Machine.scopeCode sc < 8 := by
  cases sc <;> decide

/-- R52: a level's code names it. -/
theorem level_round (l : BarLevel) : Machine.levelOfCode (Machine.levelCode l) = l ∧ Machine.levelCode l < 4 := by
  cases l <;> decide

/-- The round trip of one instruction. -/
def Statement (i : Instr) : Prop := i.wellFormed = true → ∀ w, encode i = some w → decodeWord w = .ok i

theorem nop : Statement .nop := by
  intro h w hw
  simp only [Instr.wellFormed, Bool.and_eq_true, decide_eq_true_eq] at h
  refine decode_of_fields (by omega) (by omega) (by omega) (by omega) ?_ hw
  simp [decodeFields, decode0, okIf, h]
theorem br (off : BitVec 24) : Statement (.br off) := by
  intro h w hw
  simp only [Instr.wellFormed, Bool.and_eq_true, decide_eq_true_eq] at h
  have := off.isLt
  refine decode_of_fields (by omega) (by omega) (by omega) (by omega) ?_ hw
  simp [decodeFields, decode0, okIf, h, off24_ofNat]
theorem call (off : BitVec 24) : Statement (.call off) := by
  intro h w hw
  simp only [Instr.wellFormed, Bool.and_eq_true, decide_eq_true_eq] at h
  have := off.isLt
  refine decode_of_fields (by omega) (by omega) (by omega) (by omega) ?_ hw
  simp [decodeFields, decode0, okIf, h, off24_ofNat]
theorem brz (d : Nat) (off : BitVec 16) : Statement (.brz d off) := by
  intro h w hw
  simp only [Instr.wellFormed, Bool.and_eq_true, decide_eq_true_eq] at h
  have := off.isLt
  refine decode_of_fields (by omega) (by omega) (by omega) (by omega) ?_ hw
  simp [decodeFields, decode0, okIf, h, half_ofNat]
theorem brnz (d : Nat) (off : BitVec 16) : Statement (.brnz d off) := by
  intro h w hw
  simp only [Instr.wellFormed, Bool.and_eq_true, decide_eq_true_eq] at h
  have := off.isLt
  refine decode_of_fields (by omega) (by omega) (by omega) (by omega) ?_ hw
  simp [decodeFields, decode0, okIf, h, half_ofNat]
theorem bre (d : Nat) (off : BitVec 16) : Statement (.bre d off) := by
  intro h w hw
  simp only [Instr.wellFormed, Bool.and_eq_true, decide_eq_true_eq] at h
  have := off.isLt
  refine decode_of_fields (by omega) (by omega) (by omega) (by omega) ?_ hw
  simp [decodeFields, decode0, okIf, h, half_ofNat]
theorem brne (d : Nat) (off : BitVec 16) : Statement (.brne d off) := by
  intro h w hw
  simp only [Instr.wellFormed, Bool.and_eq_true, decide_eq_true_eq] at h
  have := off.isLt
  refine decode_of_fields (by omega) (by omega) (by omega) (by omega) ?_ hw
  simp [decodeFields, decode0, okIf, h, half_ofNat]
theorem jr (a : Nat) : Statement (.jr a) := by
  intro h w hw
  simp only [Instr.wellFormed, Bool.and_eq_true, decide_eq_true_eq] at h
  refine decode_of_fields (by omega) (by omega) (by omega) (by omega) ?_ hw
  simp [decodeFields, decode0, okIf, h]
theorem ret : Statement .ret := by
  intro h w hw
  simp only [Instr.wellFormed, Bool.and_eq_true, decide_eq_true_eq] at h
  refine decode_of_fields (by omega) (by omega) (by omega) (by omega) ?_ hw
  simp [decodeFields, decode0, okIf, h]
theorem trap (imm : BitVec 16) : Statement (.trap imm) := by
  intro h w hw
  simp only [Instr.wellFormed, Bool.and_eq_true, decide_eq_true_eq] at h
  have := imm.isLt
  refine decode_of_fields (by omega) (by omega) (by omega) (by omega) ?_ hw
  simp [decodeFields, decode0, okIf, h, half_ofNat]
theorem eret : Statement .eret := by
  intro h w hw
  simp only [Instr.wellFormed, Bool.and_eq_true, decide_eq_true_eq] at h
  refine decode_of_fields (by omega) (by omega) (by omega) (by omega) ?_ hw
  simp [decodeFields, decode0, okIf, h]
theorem exit : Statement .exit := by
  intro h w hw
  simp only [Instr.wellFormed, Bool.and_eq_true, decide_eq_true_eq] at h
  refine decode_of_fields (by omega) (by omega) (by omega) (by omega) ?_ hw
  simp [decodeFields, decode0, okIf, h]
theorem bkpt (imm : BitVec 16) : Statement (.bkpt imm) := by
  intro h w hw
  simp only [Instr.wellFormed, Bool.and_eq_true, decide_eq_true_eq] at h
  have := imm.isLt
  refine decode_of_fields (by omega) (by omega) (by omega) (by omega) ?_ hw
  simp [decodeFields, decode0, okIf, h, half_ofNat]
theorem callr (a : Nat) : Statement (.callr a) := by
  intro h w hw
  simp only [Instr.wellFormed, Bool.and_eq_true, decide_eq_true_eq] at h
  refine decode_of_fields (by omega) (by omega) (by omega) (by omega) ?_ hw
  simp [decodeFields, decode0, okIf, h]
theorem add (d : Nat) (a : Nat) (b : Nat) : Statement (.add d a b) := by
  intro h w hw
  simp only [Instr.wellFormed, Bool.and_eq_true, decide_eq_true_eq] at h
  refine decode_of_fields (by omega) (by omega) (by omega) (by omega) ?_ hw
  simp [decodeFields, decode1, okIf, h]
theorem sub (d : Nat) (a : Nat) (b : Nat) : Statement (.sub d a b) := by
  intro h w hw
  simp only [Instr.wellFormed, Bool.and_eq_true, decide_eq_true_eq] at h
  refine decode_of_fields (by omega) (by omega) (by omega) (by omega) ?_ hw
  simp [decodeFields, decode1, okIf, h]
theorem mul (d : Nat) (a : Nat) (b : Nat) : Statement (.mul d a b) := by
  intro h w hw
  simp only [Instr.wellFormed, Bool.and_eq_true, decide_eq_true_eq] at h
  refine decode_of_fields (by omega) (by omega) (by omega) (by omega) ?_ hw
  simp [decodeFields, decode1, okIf, h]
theorem mulh (d : Nat) (a : Nat) (b : Nat) : Statement (.mulh d a b) := by
  intro h w hw
  simp only [Instr.wellFormed, Bool.and_eq_true, decide_eq_true_eq] at h
  refine decode_of_fields (by omega) (by omega) (by omega) (by omega) ?_ hw
  simp [decodeFields, decode1, okIf, h]
theorem mulhn (d : Nat) (a : Nat) (b : Nat) : Statement (.mulhn d a b) := by
  intro h w hw
  simp only [Instr.wellFormed, Bool.and_eq_true, decide_eq_true_eq] at h
  refine decode_of_fields (by omega) (by omega) (by omega) (by omega) ?_ hw
  simp [decodeFields, decode1, okIf, h]
theorem div (d : Nat) (a : Nat) (b : Nat) : Statement (.div d a b) := by
  intro h w hw
  simp only [Instr.wellFormed, Bool.and_eq_true, decide_eq_true_eq] at h
  refine decode_of_fields (by omega) (by omega) (by omega) (by omega) ?_ hw
  simp [decodeFields, decode1, okIf, h]
theorem divn (d : Nat) (a : Nat) (b : Nat) : Statement (.divn d a b) := by
  intro h w hw
  simp only [Instr.wellFormed, Bool.and_eq_true, decide_eq_true_eq] at h
  refine decode_of_fields (by omega) (by omega) (by omega) (by omega) ?_ hw
  simp [decodeFields, decode1, okIf, h]
theorem rem (d : Nat) (a : Nat) (b : Nat) : Statement (.rem d a b) := by
  intro h w hw
  simp only [Instr.wellFormed, Bool.and_eq_true, decide_eq_true_eq] at h
  refine decode_of_fields (by omega) (by omega) (by omega) (by omega) ?_ hw
  simp [decodeFields, decode1, okIf, h]
theorem remn (d : Nat) (a : Nat) (b : Nat) : Statement (.remn d a b) := by
  intro h w hw
  simp only [Instr.wellFormed, Bool.and_eq_true, decide_eq_true_eq] at h
  refine decode_of_fields (by omega) (by omega) (by omega) (by omega) ?_ hw
  simp [decodeFields, decode1, okIf, h]
theorem and (d : Nat) (a : Nat) (b : Nat) : Statement (.and d a b) := by
  intro h w hw
  simp only [Instr.wellFormed, Bool.and_eq_true, decide_eq_true_eq] at h
  refine decode_of_fields (by omega) (by omega) (by omega) (by omega) ?_ hw
  simp [decodeFields, decode1, okIf, h]
theorem or (d : Nat) (a : Nat) (b : Nat) : Statement (.or d a b) := by
  intro h w hw
  simp only [Instr.wellFormed, Bool.and_eq_true, decide_eq_true_eq] at h
  refine decode_of_fields (by omega) (by omega) (by omega) (by omega) ?_ hw
  simp [decodeFields, decode1, okIf, h]
theorem xor (d : Nat) (a : Nat) (b : Nat) : Statement (.xor d a b) := by
  intro h w hw
  simp only [Instr.wellFormed, Bool.and_eq_true, decide_eq_true_eq] at h
  refine decode_of_fields (by omega) (by omega) (by omega) (by omega) ?_ hw
  simp [decodeFields, decode1, okIf, h]
theorem shl (d : Nat) (a : Nat) (b : Nat) : Statement (.shl d a b) := by
  intro h w hw
  simp only [Instr.wellFormed, Bool.and_eq_true, decide_eq_true_eq] at h
  refine decode_of_fields (by omega) (by omega) (by omega) (by omega) ?_ hw
  simp [decodeFields, decode1, okIf, h]
theorem shr (d : Nat) (a : Nat) (b : Nat) : Statement (.shr d a b) := by
  intro h w hw
  simp only [Instr.wellFormed, Bool.and_eq_true, decide_eq_true_eq] at h
  refine decode_of_fields (by omega) (by omega) (by omega) (by omega) ?_ hw
  simp [decodeFields, decode1, okIf, h]
theorem sra (d : Nat) (a : Nat) (b : Nat) : Statement (.sra d a b) := by
  intro h w hw
  simp only [Instr.wellFormed, Bool.and_eq_true, decide_eq_true_eq] at h
  refine decode_of_fields (by omega) (by omega) (by omega) (by omega) ?_ hw
  simp [decodeFields, decode1, okIf, h]
theorem slt (d : Nat) (a : Nat) (b : Nat) : Statement (.slt d a b) := by
  intro h w hw
  simp only [Instr.wellFormed, Bool.and_eq_true, decide_eq_true_eq] at h
  refine decode_of_fields (by omega) (by omega) (by omega) (by omega) ?_ hw
  simp [decodeFields, decode1, okIf, h]
theorem sltn (d : Nat) (a : Nat) (b : Nat) : Statement (.sltn d a b) := by
  intro h w hw
  simp only [Instr.wellFormed, Bool.and_eq_true, decide_eq_true_eq] at h
  refine decode_of_fields (by omega) (by omega) (by omega) (by omega) ?_ hw
  simp [decodeFields, decode2, okIf, h]
theorem min (d : Nat) (a : Nat) (b : Nat) : Statement (.min d a b) := by
  intro h w hw
  simp only [Instr.wellFormed, Bool.and_eq_true, decide_eq_true_eq] at h
  refine decode_of_fields (by omega) (by omega) (by omega) (by omega) ?_ hw
  simp [decodeFields, decode2, okIf, h]
theorem max (d : Nat) (a : Nat) (b : Nat) : Statement (.max d a b) := by
  intro h w hw
  simp only [Instr.wellFormed, Bool.and_eq_true, decide_eq_true_eq] at h
  refine decode_of_fields (by omega) (by omega) (by omega) (by omega) ?_ hw
  simp [decodeFields, decode2, okIf, h]
theorem minn (d : Nat) (a : Nat) (b : Nat) : Statement (.minn d a b) := by
  intro h w hw
  simp only [Instr.wellFormed, Bool.and_eq_true, decide_eq_true_eq] at h
  refine decode_of_fields (by omega) (by omega) (by omega) (by omega) ?_ hw
  simp [decodeFields, decode2, okIf, h]
theorem maxn (d : Nat) (a : Nat) (b : Nat) : Statement (.maxn d a b) := by
  intro h w hw
  simp only [Instr.wellFormed, Bool.and_eq_true, decide_eq_true_eq] at h
  refine decode_of_fields (by omega) (by omega) (by omega) (by omega) ?_ hw
  simp [decodeFields, decode2, okIf, h]
theorem clz (d : Nat) (a : Nat) : Statement (.clz d a) := by
  intro h w hw
  simp only [Instr.wellFormed, Bool.and_eq_true, decide_eq_true_eq] at h
  refine decode_of_fields (by omega) (by omega) (by omega) (by omega) ?_ hw
  simp [decodeFields, decode2, okIf, h]
theorem popc (d : Nat) (a : Nat) : Statement (.popc d a) := by
  intro h w hw
  simp only [Instr.wellFormed, Bool.and_eq_true, decide_eq_true_eq] at h
  refine decode_of_fields (by omega) (by omega) (by omega) (by omega) ?_ hw
  simp [decodeFields, decode2, okIf, h]
theorem addi (d : Nat) (a : Nat) (imm : BitVec 8) : Statement (.addi d a imm) := by
  intro h w hw
  simp only [Instr.wellFormed, Bool.and_eq_true, decide_eq_true_eq] at h
  have := imm.isLt
  refine decode_of_fields (by omega) (by omega) (by omega) (by omega) ?_ hw
  simp [decodeFields, decode2, okIf, h]
theorem shli (d : Nat) (a : Nat) (sh : Nat) : Statement (.shli d a sh) := by
  intro h w hw
  simp only [Instr.wellFormed, Bool.and_eq_true, decide_eq_true_eq] at h
  refine decode_of_fields (by omega) (by omega) (by omega) (by omega) ?_ hw
  simp [decodeFields, decode2, okIf, h]
theorem shri (d : Nat) (a : Nat) (sh : Nat) : Statement (.shri d a sh) := by
  intro h w hw
  simp only [Instr.wellFormed, Bool.and_eq_true, decide_eq_true_eq] at h
  refine decode_of_fields (by omega) (by omega) (by omega) (by omega) ?_ hw
  simp [decodeFields, decode2, okIf, h]
theorem srai (d : Nat) (a : Nat) (sh : Nat) : Statement (.srai d a sh) := by
  intro h w hw
  simp only [Instr.wellFormed, Bool.and_eq_true, decide_eq_true_eq] at h
  refine decode_of_fields (by omega) (by omega) (by omega) (by omega) ?_ hw
  simp [decodeFields, decode2, okIf, h]
theorem andi (d : Nat) (a : Nat) (imm : BitVec 8) : Statement (.andi d a imm) := by
  intro h w hw
  simp only [Instr.wellFormed, Bool.and_eq_true, decide_eq_true_eq] at h
  have := imm.isLt
  refine decode_of_fields (by omega) (by omega) (by omega) (by omega) ?_ hw
  simp [decodeFields, decode2, okIf, h]
theorem li (d : Nat) (imm : BitVec 16) : Statement (.li d imm) := by
  intro h w hw
  simp only [Instr.wellFormed, Bool.and_eq_true, decide_eq_true_eq] at h
  have := imm.isLt
  refine decode_of_fields (by omega) (by omega) (by omega) (by omega) ?_ hw
  simp [decodeFields, decode2, okIf, h, half_ofNat]
theorem lih (d : Nat) (imm : BitVec 16) : Statement (.lih d imm) := by
  intro h w hw
  simp only [Instr.wellFormed, Bool.and_eq_true, decide_eq_true_eq] at h
  have := imm.isLt
  refine decode_of_fields (by omega) (by omega) (by omega) (by omega) ?_ hw
  simp [decodeFields, decode2, okIf, h, half_ofNat]
theorem mfsr (d : Nat) (a : Nat) : Statement (.mfsr d a) := by
  intro h w hw
  simp only [Instr.wellFormed, Bool.and_eq_true, decide_eq_true_eq] at h
  have := specialRegs_lt a (by simpa using h.2)
  refine decode_of_fields (by omega) (by omega) (by omega) (by omega) ?_ hw
  simp [decodeFields, decode2, okIf, h]
  simpa using h.2
theorem mtsr (d : Nat) (a : Nat) : Statement (.mtsr d a) := by
  intro h w hw
  simp only [Instr.wellFormed, Bool.and_eq_true, decide_eq_true_eq] at h
  have := specialRegs_lt d (by simpa using h.1)
  refine decode_of_fields (by omega) (by omega) (by omega) (by omega) ?_ hw
  simp [decodeFields, decode2, okIf, h]
  simpa using h.1
theorem mode (m : BitVec 16) : Statement (.mode m) := by
  intro h w hw
  simp only [Instr.wellFormed, Bool.and_eq_true, decide_eq_true_eq] at h
  have := m.isLt
  refine decode_of_fields (by omega) (by omega) (by omega) (by omega) ?_ hw
  simp [decodeFields, decode3, okIf, h, half_ofNat]
theorem modes (a : Nat) : Statement (.modes a) := by
  intro h w hw
  simp only [Instr.wellFormed, Bool.and_eq_true, decide_eq_true_eq] at h
  refine decode_of_fields (by omega) (by omega) (by omega) (by omega) ?_ hw
  simp [decodeFields, decode3, okIf, h]
theorem emset (a : Nat) : Statement (.emset a) := by
  intro h w hw
  simp only [Instr.wellFormed, Bool.and_eq_true, decide_eq_true_eq] at h
  refine decode_of_fields (by omega) (by omega) (by omega) (by omega) ?_ hw
  simp [decodeFields, decode3, okIf, h]
theorem emget (d : Nat) : Statement (.emget d) := by
  intro h w hw
  simp only [Instr.wellFormed, Bool.and_eq_true, decide_eq_true_eq] at h
  refine decode_of_fields (by omega) (by omega) (by omega) (by omega) ?_ hw
  simp [decodeFields, decode3, okIf, h]
theorem pand (d : Nat) (a : Nat) (b : Nat) : Statement (.pand d a b) := by
  intro h w hw
  simp only [Instr.wellFormed, Bool.and_eq_true, decide_eq_true_eq] at h
  refine decode_of_fields (by omega) (by omega) (by omega) (by omega) ?_ hw
  simp [decodeFields, decode3, okIf, h]
theorem por (d : Nat) (a : Nat) (b : Nat) : Statement (.por d a b) := by
  intro h w hw
  simp only [Instr.wellFormed, Bool.and_eq_true, decide_eq_true_eq] at h
  refine decode_of_fields (by omega) (by omega) (by omega) (by omega) ?_ hw
  simp [decodeFields, decode3, okIf, h]
theorem pxor (d : Nat) (a : Nat) (b : Nat) : Statement (.pxor d a b) := by
  intro h w hw
  simp only [Instr.wellFormed, Bool.and_eq_true, decide_eq_true_eq] at h
  refine decode_of_fields (by omega) (by omega) (by omega) (by omega) ?_ hw
  simp [decodeFields, decode3, okIf, h]
theorem pandn (d : Nat) (a : Nat) (b : Nat) : Statement (.pandn d a b) := by
  intro h w hw
  simp only [Instr.wellFormed, Bool.and_eq_true, decide_eq_true_eq] at h
  refine decode_of_fields (by omega) (by omega) (by omega) (by omega) ?_ hw
  simp [decodeFields, decode3, okIf, h]
theorem pnot (d : Nat) (a : Nat) : Statement (.pnot d a) := by
  intro h w hw
  simp only [Instr.wellFormed, Bool.and_eq_true, decide_eq_true_eq] at h
  refine decode_of_fields (by omega) (by omega) (by omega) (by omega) ?_ hw
  simp [decodeFields, decode3, okIf, h]
theorem ppopc (d : Nat) (a : Nat) : Statement (.ppopc d a) := by
  intro h w hw
  simp only [Instr.wellFormed, Bool.and_eq_true, decide_eq_true_eq] at h
  refine decode_of_fields (by omega) (by omega) (by omega) (by omega) ?_ hw
  simp [decodeFields, decode3, okIf, h]
theorem pffs (d : Nat) (a : Nat) : Statement (.pffs d a) := by
  intro h w hw
  simp only [Instr.wellFormed, Bool.and_eq_true, decide_eq_true_eq] at h
  refine decode_of_fields (by omega) (by omega) (by omega) (by omega) ?_ hw
  simp [decodeFields, decode3, okIf, h]
theorem pfroms (d : Nat) (a : Nat) : Statement (.pfroms d a) := by
  intro h w hw
  simp only [Instr.wellFormed, Bool.and_eq_true, decide_eq_true_eq] at h
  refine decode_of_fields (by omega) (by omega) (by omega) (by omega) ?_ hw
  simp [decodeFields, decode3, okIf, h]
theorem ptos (d : Nat) (a : Nat) : Statement (.ptos d a) := by
  intro h w hw
  simp only [Instr.wellFormed, Bool.and_eq_true, decide_eq_true_eq] at h
  refine decode_of_fields (by omega) (by omega) (by omega) (by omega) ?_ hw
  simp [decodeFields, decode3, okIf, h]
theorem vadd (d : Nat) (a : Nat) (b : Nat) : Statement (.vadd d a b) := by
  intro h w hw
  simp only [Instr.wellFormed, Bool.and_eq_true, decide_eq_true_eq] at h
  refine decode_of_fields (by omega) (by omega) (by omega) (by omega) ?_ hw
  simp [decodeFields, decode4, okIf, h]
theorem vsub (d : Nat) (a : Nat) (b : Nat) : Statement (.vsub d a b) := by
  intro h w hw
  simp only [Instr.wellFormed, Bool.and_eq_true, decide_eq_true_eq] at h
  refine decode_of_fields (by omega) (by omega) (by omega) (by omega) ?_ hw
  simp [decodeFields, decode4, okIf, h]
theorem vmul (d : Nat) (a : Nat) (b : Nat) : Statement (.vmul d a b) := by
  intro h w hw
  simp only [Instr.wellFormed, Bool.and_eq_true, decide_eq_true_eq] at h
  refine decode_of_fields (by omega) (by omega) (by omega) (by omega) ?_ hw
  simp [decodeFields, decode4, okIf, h]
theorem vmad (d : Nat) (a : Nat) (b : Nat) : Statement (.vmad d a b) := by
  intro h w hw
  simp only [Instr.wellFormed, Bool.and_eq_true, decide_eq_true_eq] at h
  refine decode_of_fields (by omega) (by omega) (by omega) (by omega) ?_ hw
  simp [decodeFields, decode4, okIf, h]
theorem vmin (d : Nat) (a : Nat) (b : Nat) : Statement (.vmin d a b) := by
  intro h w hw
  simp only [Instr.wellFormed, Bool.and_eq_true, decide_eq_true_eq] at h
  refine decode_of_fields (by omega) (by omega) (by omega) (by omega) ?_ hw
  simp [decodeFields, decode4, okIf, h]
theorem vmax (d : Nat) (a : Nat) (b : Nat) : Statement (.vmax d a b) := by
  intro h w hw
  simp only [Instr.wellFormed, Bool.and_eq_true, decide_eq_true_eq] at h
  refine decode_of_fields (by omega) (by omega) (by omega) (by omega) ?_ hw
  simp [decodeFields, decode4, okIf, h]
theorem vabs (d : Nat) (a : Nat) : Statement (.vabs d a) := by
  intro h w hw
  simp only [Instr.wellFormed, Bool.and_eq_true, decide_eq_true_eq] at h
  refine decode_of_fields (by omega) (by omega) (by omega) (by omega) ?_ hw
  simp [decodeFields, decode4, okIf, h]
theorem vneg (d : Nat) (a : Nat) : Statement (.vneg d a) := by
  intro h w hw
  simp only [Instr.wellFormed, Bool.and_eq_true, decide_eq_true_eq] at h
  refine decode_of_fields (by omega) (by omega) (by omega) (by omega) ?_ hw
  simp [decodeFields, decode4, okIf, h]
theorem vdiv (d : Nat) (a : Nat) (b : Nat) : Statement (.vdiv d a b) := by
  intro h w hw
  simp only [Instr.wellFormed, Bool.and_eq_true, decide_eq_true_eq] at h
  refine decode_of_fields (by omega) (by omega) (by omega) (by omega) ?_ hw
  simp [decodeFields, decode4, okIf, h]
theorem vrcp (d : Nat) (a : Nat) : Statement (.vrcp d a) := by
  intro h w hw
  simp only [Instr.wellFormed, Bool.and_eq_true, decide_eq_true_eq] at h
  refine decode_of_fields (by omega) (by omega) (by omega) (by omega) ?_ hw
  simp [decodeFields, decode4, okIf, h]
theorem vrsq (d : Nat) (a : Nat) : Statement (.vrsq d a) := by
  intro h w hw
  simp only [Instr.wellFormed, Bool.and_eq_true, decide_eq_true_eq] at h
  refine decode_of_fields (by omega) (by omega) (by omega) (by omega) ?_ hw
  simp [decodeFields, decode4, okIf, h]
theorem vsqrt (d : Nat) (a : Nat) : Statement (.vsqrt d a) := by
  intro h w hw
  simp only [Instr.wellFormed, Bool.and_eq_true, decide_eq_true_eq] at h
  refine decode_of_fields (by omega) (by omega) (by omega) (by omega) ?_ hw
  simp [decodeFields, decode4, okIf, h]
theorem vexp2 (d : Nat) (a : Nat) : Statement (.vexp2 d a) := by
  intro h w hw
  simp only [Instr.wellFormed, Bool.and_eq_true, decide_eq_true_eq] at h
  refine decode_of_fields (by omega) (by omega) (by omega) (by omega) ?_ hw
  simp [decodeFields, decode4, okIf, h]
theorem vlog2 (d : Nat) (a : Nat) : Statement (.vlog2 d a) := by
  intro h w hw
  simp only [Instr.wellFormed, Bool.and_eq_true, decide_eq_true_eq] at h
  refine decode_of_fields (by omega) (by omega) (by omega) (by omega) ?_ hw
  simp [decodeFields, decode4, okIf, h]
theorem vrnd (d : Nat) (a : Nat) : Statement (.vrnd d a) := by
  intro h w hw
  simp only [Instr.wellFormed, Bool.and_eq_true, decide_eq_true_eq] at h
  refine decode_of_fields (by omega) (by omega) (by omega) (by omega) ?_ hw
  simp [decodeFields, decode4, okIf, h]
theorem vmulh (d : Nat) (a : Nat) (b : Nat) : Statement (.vmulh d a b) := by
  intro h w hw
  simp only [Instr.wellFormed, Bool.and_eq_true, decide_eq_true_eq] at h
  refine decode_of_fields (by omega) (by omega) (by omega) (by omega) ?_ hw
  simp [decodeFields, decode4, okIf, h]
theorem vand (d : Nat) (a : Nat) (b : Nat) : Statement (.vand d a b) := by
  intro h w hw
  simp only [Instr.wellFormed, Bool.and_eq_true, decide_eq_true_eq] at h
  refine decode_of_fields (by omega) (by omega) (by omega) (by omega) ?_ hw
  simp [decodeFields, decode5, okIf, h]
theorem vor (d : Nat) (a : Nat) (b : Nat) : Statement (.vor d a b) := by
  intro h w hw
  simp only [Instr.wellFormed, Bool.and_eq_true, decide_eq_true_eq] at h
  refine decode_of_fields (by omega) (by omega) (by omega) (by omega) ?_ hw
  simp [decodeFields, decode5, okIf, h]
theorem vxor (d : Nat) (a : Nat) (b : Nat) : Statement (.vxor d a b) := by
  intro h w hw
  simp only [Instr.wellFormed, Bool.and_eq_true, decide_eq_true_eq] at h
  refine decode_of_fields (by omega) (by omega) (by omega) (by omega) ?_ hw
  simp [decodeFields, decode5, okIf, h]
theorem vnot (d : Nat) (a : Nat) : Statement (.vnot d a) := by
  intro h w hw
  simp only [Instr.wellFormed, Bool.and_eq_true, decide_eq_true_eq] at h
  refine decode_of_fields (by omega) (by omega) (by omega) (by omega) ?_ hw
  simp [decodeFields, decode5, okIf, h]
theorem vshl (d : Nat) (a : Nat) (b : Nat) : Statement (.vshl d a b) := by
  intro h w hw
  simp only [Instr.wellFormed, Bool.and_eq_true, decide_eq_true_eq] at h
  refine decode_of_fields (by omega) (by omega) (by omega) (by omega) ?_ hw
  simp [decodeFields, decode5, okIf, h]
theorem vshr (d : Nat) (a : Nat) (b : Nat) : Statement (.vshr d a b) := by
  intro h w hw
  simp only [Instr.wellFormed, Bool.and_eq_true, decide_eq_true_eq] at h
  refine decode_of_fields (by omega) (by omega) (by omega) (by omega) ?_ hw
  simp [decodeFields, decode5, okIf, h]
theorem vclz (d : Nat) (a : Nat) : Statement (.vclz d a) := by
  intro h w hw
  simp only [Instr.wellFormed, Bool.and_eq_true, decide_eq_true_eq] at h
  refine decode_of_fields (by omega) (by omega) (by omega) (by omega) ?_ hw
  simp [decodeFields, decode5, okIf, h]
theorem vpopc (d : Nat) (a : Nat) : Statement (.vpopc d a) := by
  intro h w hw
  simp only [Instr.wellFormed, Bool.and_eq_true, decide_eq_true_eq] at h
  refine decode_of_fields (by omega) (by omega) (by omega) (by omega) ?_ hw
  simp [decodeFields, decode5, okIf, h]
theorem vceq (d : Nat) (a : Nat) (b : Nat) : Statement (.vceq d a b) := by
  intro h w hw
  simp only [Instr.wellFormed, Bool.and_eq_true, decide_eq_true_eq] at h
  refine decode_of_fields (by omega) (by omega) (by omega) (by omega) ?_ hw
  simp [decodeFields, decode5, okIf, h]
theorem vcne (d : Nat) (a : Nat) (b : Nat) : Statement (.vcne d a b) := by
  intro h w hw
  simp only [Instr.wellFormed, Bool.and_eq_true, decide_eq_true_eq] at h
  refine decode_of_fields (by omega) (by omega) (by omega) (by omega) ?_ hw
  simp [decodeFields, decode5, okIf, h]
theorem vclt (d : Nat) (a : Nat) (b : Nat) : Statement (.vclt d a b) := by
  intro h w hw
  simp only [Instr.wellFormed, Bool.and_eq_true, decide_eq_true_eq] at h
  refine decode_of_fields (by omega) (by omega) (by omega) (by omega) ?_ hw
  simp [decodeFields, decode5, okIf, h]
theorem vcle (d : Nat) (a : Nat) (b : Nat) : Statement (.vcle d a b) := by
  intro h w hw
  simp only [Instr.wellFormed, Bool.and_eq_true, decide_eq_true_eq] at h
  refine decode_of_fields (by omega) (by omega) (by omega) (by omega) ?_ hw
  simp [decodeFields, decode5, okIf, h]
theorem vsel (d : Nat) (a : Nat) (b : Nat) : Statement (.vsel d a b) := by
  intro h w hw
  simp only [Instr.wellFormed, Bool.and_eq_true, decide_eq_true_eq] at h
  refine decode_of_fields (by omega) (by omega) (by omega) (by omega) ?_ hw
  simp [decodeFields, decode5, okIf, h]
theorem vbcst (d : Nat) (a : Nat) : Statement (.vbcst d a) := by
  intro h w hw
  simp only [Instr.wellFormed, Bool.and_eq_true, decide_eq_true_eq] at h
  refine decode_of_fields (by omega) (by omega) (by omega) (by omega) ?_ hw
  simp [decodeFields, decode5, okIf, h]
theorem vtos (d : Nat) (a : Nat) (lane : Nat) : Statement (.vtos d a lane) := by
  intro h w hw
  simp only [Instr.wellFormed, Bool.and_eq_true, decide_eq_true_eq] at h
  refine decode_of_fields (by omega) (by omega) (by omega) (by omega) ?_ hw
  simp [decodeFields, decode5, okIf, h]
theorem vsetl (d : Nat) (a : Nat) (lane : Nat) : Statement (.vsetl d a lane) := by
  intro h w hw
  simp only [Instr.wellFormed, Bool.and_eq_true, decide_eq_true_eq] at h
  refine decode_of_fields (by omega) (by omega) (by omega) (by omega) ?_ hw
  simp [decodeFields, decode5, okIf, h]
theorem vshuf (d : Nat) (a : Nat) (b : Nat) : Statement (.vshuf d a b) := by
  intro h w hw
  simp only [Instr.wellFormed, Bool.and_eq_true, decide_eq_true_eq] at h
  refine decode_of_fields (by omega) (by omega) (by omega) (by omega) ?_ hw
  simp [decodeFields, decode6, okIf, h]
theorem vlane (d : Nat) (a : Nat) (b : Nat) : Statement (.vlane d a b) := by
  intro h w hw
  simp only [Instr.wellFormed, Bool.and_eq_true, decide_eq_true_eq] at h
  refine decode_of_fields (by omega) (by omega) (by omega) (by omega) ?_ hw
  simp [decodeFields, decode6, okIf, h]
theorem vprefix (d : Nat) (a : Nat) : Statement (.vprefix d a) := by
  intro h w hw
  simp only [Instr.wellFormed, Bool.and_eq_true, decide_eq_true_eq] at h
  refine decode_of_fields (by omega) (by omega) (by omega) (by omega) ?_ hw
  simp [decodeFields, decode6, okIf, h]
theorem vmatch (d : Nat) (a : Nat) : Statement (.vmatch d a) := by
  intro h w hw
  simp only [Instr.wellFormed, Bool.and_eq_true, decide_eq_true_eq] at h
  refine decode_of_fields (by omega) (by omega) (by omega) (by omega) ?_ hw
  simp [decodeFields, decode6, okIf, h]
theorem vballot (d : Nat) (a : Nat) : Statement (.vballot d a) := by
  intro h w hw
  simp only [Instr.wellFormed, Bool.and_eq_true, decide_eq_true_eq] at h
  refine decode_of_fields (by omega) (by omega) (by omega) (by omega) ?_ hw
  simp [decodeFields, decode6, okIf, h]
theorem vredadd (d : Nat) (a : Nat) : Statement (.vredadd d a) := by
  intro h w hw
  simp only [Instr.wellFormed, Bool.and_eq_true, decide_eq_true_eq] at h
  refine decode_of_fields (by omega) (by omega) (by omega) (by omega) ?_ hw
  simp [decodeFields, decode6, okIf, h]
theorem vredmin (d : Nat) (a : Nat) : Statement (.vredmin d a) := by
  intro h w hw
  simp only [Instr.wellFormed, Bool.and_eq_true, decide_eq_true_eq] at h
  refine decode_of_fields (by omega) (by omega) (by omega) (by omega) ?_ hw
  simp [decodeFields, decode6, okIf, h]
theorem vredmax (d : Nat) (a : Nat) : Statement (.vredmax d a) := by
  intro h w hw
  simp only [Instr.wellFormed, Bool.and_eq_true, decide_eq_true_eq] at h
  refine decode_of_fields (by omega) (by omega) (by omega) (by omega) ?_ hw
  simp [decodeFields, decode6, okIf, h]
theorem vscan (d : Nat) (a : Nat) : Statement (.vscan d a) := by
  intro h w hw
  simp only [Instr.wellFormed, Bool.and_eq_true, decide_eq_true_eq] at h
  refine decode_of_fields (by omega) (by omega) (by omega) (by omega) ?_ hw
  simp [decodeFields, decode6, okIf, h]
theorem vcvt (d : Nat) (a : Nat) : Statement (.vcvt d a) := by
  intro h w hw
  simp only [Instr.wellFormed, Bool.and_eq_true, decide_eq_true_eq] at h
  refine decode_of_fields (by omega) (by omega) (by omega) (by omega) ?_ hw
  simp [decodeFields, decode6, okIf, h]
theorem vcvth (d : Nat) (a : Nat) (b : Nat) : Statement (.vcvth d a b) := by
  intro h w hw
  simp only [Instr.wellFormed, Bool.and_eq_true, decide_eq_true_eq] at h
  refine decode_of_fields (by omega) (by omega) (by omega) (by omega) ?_ hw
  simp [decodeFields, decode6, okIf, h]
theorem vpack (d : Nat) (a : Nat) (b : Nat) : Statement (.vpack d a b) := by
  intro h w hw
  simp only [Instr.wellFormed, Bool.and_eq_true, decide_eq_true_eq] at h
  refine decode_of_fields (by omega) (by omega) (by omega) (by omega) ?_ hw
  simp [decodeFields, decode6, okIf, h]
theorem vunpk (d : Nat) (a : Nat) (sel : Nat) : Statement (.vunpk d a sel) := by
  intro h w hw
  simp only [Instr.wellFormed, Bool.and_eq_true, decide_eq_true_eq] at h
  refine decode_of_fields (by omega) (by omega) (by omega) (by omega) ?_ hw
  simp [decodeFields, decode6, okIf, h]
theorem vretag (d : Nat) (a : Nat) (tag : Tag) : Statement (.vretag d a tag) := by
  intro h w hw
  simp only [Instr.wellFormed, Bool.and_eq_true, decide_eq_true_eq] at h
  have ht := tag_round tag h.2
  refine decode_of_fields (by omega) (by omega) (by omega) (by omega) ?_ hw
  simp [decodeFields, decode6, okIf, h, ht]
theorem vgettag (d : Nat) (a : Nat) : Statement (.vgettag d a) := by
  intro h w hw
  simp only [Instr.wellFormed, Bool.and_eq_true, decide_eq_true_eq] at h
  refine decode_of_fields (by omega) (by omega) (by omega) (by omega) ?_ hw
  simp [decodeFields, decode6, okIf, h]
theorem ldb (d : Nat) (a : Nat) (reuse : Nat) (off : BitVec 6) : Statement (.ldb d a reuse off) := by
  intro h w hw
  simp only [Instr.wellFormed, Bool.and_eq_true, decide_eq_true_eq] at h
  have := off.isLt
  refine decode_of_fields (by omega) (by omega) (by omega) (by omega) ?_ hw
  simp [decodeFields, decode7, okIf, h, off6_ofNat, off6_lt]
  omega
theorem ldh (d : Nat) (a : Nat) (reuse : Nat) (off : BitVec 6) : Statement (.ldh d a reuse off) := by
  intro h w hw
  simp only [Instr.wellFormed, Bool.and_eq_true, decide_eq_true_eq] at h
  have := off.isLt
  refine decode_of_fields (by omega) (by omega) (by omega) (by omega) ?_ hw
  simp [decodeFields, decode7, okIf, h, off6_ofNat, off6_lt]
  omega
theorem ldw (d : Nat) (a : Nat) (reuse : Nat) (off : BitVec 6) : Statement (.ldw d a reuse off) := by
  intro h w hw
  simp only [Instr.wellFormed, Bool.and_eq_true, decide_eq_true_eq] at h
  have := off.isLt
  refine decode_of_fields (by omega) (by omega) (by omega) (by omega) ?_ hw
  simp [decodeFields, decode7, okIf, h, off6_ofNat, off6_lt]
  omega
theorem ldd (d : Nat) (a : Nat) (reuse : Nat) (off : BitVec 6) : Statement (.ldd d a reuse off) := by
  intro h w hw
  simp only [Instr.wellFormed, Bool.and_eq_true, decide_eq_true_eq] at h
  have := off.isLt
  refine decode_of_fields (by omega) (by omega) (by omega) (by omega) ?_ hw
  simp [decodeFields, decode7, okIf, h, off6_ofNat, off6_lt]
  omega
theorem stb (d : Nat) (a : Nat) (off : BitVec 6) : Statement (.stb d a off) := by
  intro h w hw
  simp only [Instr.wellFormed, Bool.and_eq_true, decide_eq_true_eq] at h
  have := off.isLt
  refine decode_of_fields (by omega) (by omega) (by omega) (by omega) ?_ hw
  simp [decodeFields, decode7, okIf, h, off6_ofNat, off6_lt]
theorem sth (d : Nat) (a : Nat) (off : BitVec 6) : Statement (.sth d a off) := by
  intro h w hw
  simp only [Instr.wellFormed, Bool.and_eq_true, decide_eq_true_eq] at h
  have := off.isLt
  refine decode_of_fields (by omega) (by omega) (by omega) (by omega) ?_ hw
  simp [decodeFields, decode7, okIf, h, off6_ofNat, off6_lt]
theorem stw (d : Nat) (a : Nat) (off : BitVec 6) : Statement (.stw d a off) := by
  intro h w hw
  simp only [Instr.wellFormed, Bool.and_eq_true, decide_eq_true_eq] at h
  have := off.isLt
  refine decode_of_fields (by omega) (by omega) (by omega) (by omega) ?_ hw
  simp [decodeFields, decode7, okIf, h, off6_ofNat, off6_lt]
theorem std (d : Nat) (a : Nat) (off : BitVec 6) : Statement (.std d a off) := by
  intro h w hw
  simp only [Instr.wellFormed, Bool.and_eq_true, decide_eq_true_eq] at h
  have := off.isLt
  refine decode_of_fields (by omega) (by omega) (by omega) (by omega) ?_ hw
  simp [decodeFields, decode7, okIf, h, off6_ofNat, off6_lt]
theorem vld (d : Nat) (a : Nat) (reuse3 : Bool) (b : Nat) : Statement (.vld d a reuse3 b) := by
  intro h w hw
  simp only [Instr.wellFormed, Bool.and_eq_true, decide_eq_true_eq] at h
  cases reuse3
  · refine decode_of_fields (by omega) (by omega) (by omega) (by simp; omega) ?_ hw
    simp [decodeFields, decode7, okIf, h]
  · refine decode_of_fields (by omega) (by omega) (by omega) (by simp; omega) ?_ hw
    simp [decodeFields, decode7, okIf, h]
theorem vst (d : Nat) (a : Nat) (b : Nat) : Statement (.vst d a b) := by
  intro h w hw
  simp only [Instr.wellFormed, Bool.and_eq_true, decide_eq_true_eq] at h
  refine decode_of_fields (by omega) (by omega) (by omega) (by omega) ?_ hw
  simp [decodeFields, decode7, okIf, h]
theorem vldc (d : Nat) (a : Nat) (reuse : Nat) (off : BitVec 6) : Statement (.vldc d a reuse off) := by
  intro h w hw
  simp only [Instr.wellFormed, Bool.and_eq_true, decide_eq_true_eq] at h
  have := off.isLt
  refine decode_of_fields (by omega) (by omega) (by omega) (by omega) ?_ hw
  simp [decodeFields, decode7, okIf, h, off6_ofNat, off6_lt]
  omega
theorem vstc (d : Nat) (a : Nat) (off : BitVec 6) : Statement (.vstc d a off) := by
  intro h w hw
  simp only [Instr.wellFormed, Bool.and_eq_true, decide_eq_true_eq] at h
  have := off.isLt
  refine decode_of_fields (by omega) (by omega) (by omega) (by omega) ?_ hw
  simp [decodeFields, decode7, okIf, h, off6_ofNat, off6_lt]
theorem pref (a : Nat) (reuse : Nat) (off : BitVec 6) : Statement (.pref a reuse off) := by
  intro h w hw
  simp only [Instr.wellFormed, Bool.and_eq_true, decide_eq_true_eq] at h
  have := off.isLt
  refine decode_of_fields (by omega) (by omega) (by omega) (by omega) ?_ hw
  simp [decodeFields, decode7, okIf, h, off6_ofNat, off6_lt]
  omega
theorem spld (d : Nat) (a : Nat) (b : Nat) : Statement (.spld d a b) := by
  intro h w hw
  simp only [Instr.wellFormed, Bool.and_eq_true, decide_eq_true_eq] at h
  refine decode_of_fields (by omega) (by omega) (by omega) (by omega) ?_ hw
  simp [decodeFields, decode7, okIf, h]
theorem spst (d : Nat) (a : Nat) (b : Nat) : Statement (.spst d a b) := by
  intro h w hw
  simp only [Instr.wellFormed, Bool.and_eq_true, decide_eq_true_eq] at h
  refine decode_of_fields (by omega) (by omega) (by omega) (by omega) ?_ hw
  simp [decodeFields, decode7, okIf, h]
theorem spldc (d : Nat) (a : Nat) (imm : BitVec 8) : Statement (.spldc d a imm) := by
  intro h w hw
  simp only [Instr.wellFormed, Bool.and_eq_true, decide_eq_true_eq] at h
  have := imm.isLt
  refine decode_of_fields (by omega) (by omega) (by omega) (by omega) ?_ hw
  simp [decodeFields, decode7, okIf, h]
theorem spstc (d : Nat) (a : Nat) (imm : BitVec 8) : Statement (.spstc d a imm) := by
  intro h w hw
  simp only [Instr.wellFormed, Bool.and_eq_true, decide_eq_true_eq] at h
  have := imm.isLt
  refine decode_of_fields (by omega) (by omega) (by omega) (by omega) ?_ hw
  simp [decodeFields, decode8, okIf, h]
theorem spaadd (d : Nat) (a : Nat) (b : Nat) : Statement (.spaadd d a b) := by
  intro h w hw
  simp only [Instr.wellFormed, Bool.and_eq_true, decide_eq_true_eq] at h
  refine decode_of_fields (by omega) (by omega) (by omega) (by omega) ?_ hw
  simp [decodeFields, decode8, okIf, h]
theorem spacas (d : Nat) (a : Nat) (b : Nat) : Statement (.spacas d a b) := by
  intro h w hw
  simp only [Instr.wellFormed, Bool.and_eq_true, decide_eq_true_eq] at h
  refine decode_of_fields (by omega) (by omega) (by omega) (by omega) ?_ hw
  simp [decodeFields, decode8, okIf, h]
theorem aadd (d : Nat) (a : Nat) (b : Nat) : Statement (.aadd d a b) := by
  intro h w hw
  simp only [Instr.wellFormed, Bool.and_eq_true, decide_eq_true_eq] at h
  refine decode_of_fields (by omega) (by omega) (by omega) (by omega) ?_ hw
  simp [decodeFields, decode8, okIf, h]
theorem amin (d : Nat) (a : Nat) (b : Nat) : Statement (.amin d a b) := by
  intro h w hw
  simp only [Instr.wellFormed, Bool.and_eq_true, decide_eq_true_eq] at h
  refine decode_of_fields (by omega) (by omega) (by omega) (by omega) ?_ hw
  simp [decodeFields, decode8, okIf, h]
theorem amax (d : Nat) (a : Nat) (b : Nat) : Statement (.amax d a b) := by
  intro h w hw
  simp only [Instr.wellFormed, Bool.and_eq_true, decide_eq_true_eq] at h
  refine decode_of_fields (by omega) (by omega) (by omega) (by omega) ?_ hw
  simp [decodeFields, decode8, okIf, h]
theorem aand (d : Nat) (a : Nat) (b : Nat) : Statement (.aand d a b) := by
  intro h w hw
  simp only [Instr.wellFormed, Bool.and_eq_true, decide_eq_true_eq] at h
  refine decode_of_fields (by omega) (by omega) (by omega) (by omega) ?_ hw
  simp [decodeFields, decode8, okIf, h]
theorem aor (d : Nat) (a : Nat) (b : Nat) : Statement (.aor d a b) := by
  intro h w hw
  simp only [Instr.wellFormed, Bool.and_eq_true, decide_eq_true_eq] at h
  refine decode_of_fields (by omega) (by omega) (by omega) (by omega) ?_ hw
  simp [decodeFields, decode8, okIf, h]
theorem axor (d : Nat) (a : Nat) (b : Nat) : Statement (.axor d a b) := by
  intro h w hw
  simp only [Instr.wellFormed, Bool.and_eq_true, decide_eq_true_eq] at h
  refine decode_of_fields (by omega) (by omega) (by omega) (by omega) ?_ hw
  simp [decodeFields, decode8, okIf, h]
theorem axch (d : Nat) (a : Nat) (b : Nat) : Statement (.axch d a b) := by
  intro h w hw
  simp only [Instr.wellFormed, Bool.and_eq_true, decide_eq_true_eq] at h
  refine decode_of_fields (by omega) (by omega) (by omega) (by omega) ?_ hw
  simp [decodeFields, decode8, okIf, h]
theorem acas (d : Nat) (a : Nat) (b : Nat) : Statement (.acas d a b) := by
  intro h w hw
  simp only [Instr.wellFormed, Bool.and_eq_true, decide_eq_true_eq] at h
  refine decode_of_fields (by omega) (by omega) (by omega) (by omega) ?_ hw
  simp [decodeFields, decode8, okIf, h]
theorem afadd (d : Nat) (a : Nat) (b : Nat) : Statement (.afadd d a b) := by
  intro h w hw
  simp only [Instr.wellFormed, Bool.and_eq_true, decide_eq_true_eq] at h
  refine decode_of_fields (by omega) (by omega) (by omega) (by omega) ?_ hw
  simp [decodeFields, decode8, okIf, h]
theorem redadd (a : Nat) (b : Nat) : Statement (.redadd a b) := by
  intro h w hw
  simp only [Instr.wellFormed, Bool.and_eq_true, decide_eq_true_eq] at h
  refine decode_of_fields (by omega) (by omega) (by omega) (by omega) ?_ hw
  simp [decodeFields, decode8, okIf, h]
theorem redfadd (a : Nat) (b : Nat) : Statement (.redfadd a b) := by
  intro h w hw
  simp only [Instr.wellFormed, Bool.and_eq_true, decide_eq_true_eq] at h
  refine decode_of_fields (by omega) (by omega) (by omega) (by omega) ?_ hw
  simp [decodeFields, decode8, okIf, h]
theorem fence (scope : Scope) (kind : FenceKind) : Statement (.fence scope kind) := by
  intro h w hw
  have hs := scope_round scope
  have hk : ∃ k, Machine.kindCode kind = k ∧ k < 4 ∧ Machine.kindOfCode k = some kind := by
    cases kind <;> exact ⟨_, rfl, by decide, rfl⟩
  obtain ⟨k, hk, hk4, hko⟩ := hk
  have e1 : (k * 8 + Machine.scopeCode scope) / 8 = k := by omega
  have e2 : (k * 8 + Machine.scopeCode scope) % 8 = Machine.scopeCode scope := by omega
  refine decode_of_fields (by omega) (by omega) (by omega) (by omega) ?_ hw
  simp only [decodeFields, decode9, hk, e1, e2, hko, hs.1]
  rfl
theorem ldacq (d : Nat) (a : Nat) (size : Nat) (scope : Scope) : Statement (.ldacq d a size scope) := by
  intro h w hw
  simp only [Instr.wellFormed, Bool.and_eq_true, decide_eq_true_eq] at h
  have hs := scope_round scope
  have e1 : (size * 16 + Machine.scopeCode scope) % 8 = Machine.scopeCode scope := by omega
  refine decode_of_fields (by omega) (by omega) (by omega) (by omega) ?_ hw
  simp [decodeFields, decode9, okIf, h, e1, hs]
  omega
theorem strel (d : Nat) (a : Nat) (size : Nat) (scope : Scope) : Statement (.strel d a size scope) := by
  intro h w hw
  simp only [Instr.wellFormed, Bool.and_eq_true, decide_eq_true_eq] at h
  have hs := scope_round scope
  have e1 : (size * 16 + Machine.scopeCode scope) % 8 = Machine.scopeCode scope := by omega
  refine decode_of_fields (by omega) (by omega) (by omega) (by omega) ?_ hw
  simp [decodeFields, decode9, okIf, h, e1, hs]
  omega
theorem arrive (level : BarLevel) (n : Nat) : Statement (.arrive level n) := by
  intro h w hw
  simp only [Instr.wellFormed, Bool.and_eq_true, decide_eq_true_eq] at h
  have hl := level_round level
  have e1 : (Machine.levelCode level * 64 + n) / 64 = Machine.levelCode level := by omega
  refine decode_of_fields (by omega) (by omega) (by omega) (by omega) ?_ hw
  simp [decodeFields, decode9, okIf, h, e1, hl]
  omega
theorem await (d : Nat) (level : BarLevel) (n : Nat) : Statement (.await d level n) := by
  intro h w hw
  simp only [Instr.wellFormed, Bool.and_eq_true, decide_eq_true_eq] at h
  have hl := level_round level
  have e1 : (Machine.levelCode level * 64 + n) / 64 = Machine.levelCode level := by omega
  refine decode_of_fields (by omega) (by omega) (by omega) (by omega) ?_ hw
  simp [decodeFields, decode9, okIf, h, e1, hl]
  omega
theorem meet (d : Nat) (level : BarLevel) (n : Nat) : Statement (.meet d level n) := by
  intro h w hw
  simp only [Instr.wellFormed, Bool.and_eq_true, decide_eq_true_eq] at h
  have hl := level_round level
  have e1 : (Machine.levelCode level * 64 + n) / 64 = Machine.levelCode level := by omega
  refine decode_of_fields (by omega) (by omega) (by omega) (by omega) ?_ hw
  simp [decodeFields, decode9, okIf, h, e1, hl]
  omega
theorem crit : Statement .crit := by
  intro h w hw
  simp only [Instr.wellFormed, Bool.and_eq_true, decide_eq_true_eq] at h
  refine decode_of_fields (by omega) (by omega) (by omega) (by omega) ?_ hw
  simp [decodeFields, decode9, okIf, h]
theorem uncrit : Statement .uncrit := by
  intro h w hw
  simp only [Instr.wellFormed, Bool.and_eq_true, decide_eq_true_eq] at h
  refine decode_of_fields (by omega) (by omega) (by omega) (by omega) ?_ hw
  simp [decodeFields, decode9, okIf, h]
theorem kjoin (d : Nat) (a : Nat) : Statement (.kjoin d a) := by
  intro h w hw
  simp only [Instr.wellFormed, Bool.and_eq_true, decide_eq_true_eq] at h
  refine decode_of_fields (by omega) (by omega) (by omega) (by omega) ?_ hw
  simp [decodeFields, decode9, okIf, h]
theorem kleave : Statement .kleave := by
  intro h w hw
  simp only [Instr.wellFormed, Bool.and_eq_true, decide_eq_true_eq] at h
  refine decode_of_fields (by omega) (by omega) (by omega) (by omega) ?_ hw
  simp [decodeFields, decode9, okIf, h]
theorem kinfo (d : Nat) (sel : Nat) : Statement (.kinfo d sel) := by
  intro h w hw
  simp only [Instr.wellFormed, Bool.and_eq_true, decide_eq_true_eq] at h
  refine decode_of_fields (by omega) (by omega) (by omega) (by omega) ?_ hw
  simp [decodeFields, decode9, okIf, h]
theorem cbwait (d : Nat) (n : Nat) : Statement (.cbwait d n) := by
  intro h w hw
  simp only [Instr.wellFormed, Bool.and_eq_true, decide_eq_true_eq] at h
  refine decode_of_fields (by omega) (by omega) (by omega) (by omega) ?_ hw
  simp [decodeFields, decodeA, okIf, h]
theorem cbpop (n : Nat) : Statement (.cbpop n) := by
  intro h w hw
  simp only [Instr.wellFormed, Bool.and_eq_true, decide_eq_true_eq] at h
  refine decode_of_fields (by omega) (by omega) (by omega) (by omega) ?_ hw
  simp [decodeFields, decodeA, okIf, h]
theorem cbpush (n : Nat) : Statement (.cbpush n) := by
  intro h w hw
  simp only [Instr.wellFormed, Bool.and_eq_true, decide_eq_true_eq] at h
  refine decode_of_fields (by omega) (by omega) (by omega) (by omega) ?_ hw
  simp [decodeFields, decodeA, okIf, h]
theorem cbinfo (d : Nat) (n : Nat) : Statement (.cbinfo d n) := by
  intro h w hw
  simp only [Instr.wellFormed, Bool.and_eq_true, decide_eq_true_eq] at h
  refine decode_of_fields (by omega) (by omega) (by omega) (by omega) ?_ hw
  simp [decodeFields, decodeA, okIf, h]
theorem qpush (d : Nat) (n : Nat) : Statement (.qpush d n) := by
  intro h w hw
  simp only [Instr.wellFormed, Bool.and_eq_true, decide_eq_true_eq] at h
  refine decode_of_fields (by omega) (by omega) (by omega) (by omega) ?_ hw
  simp [decodeFields, decodeA, okIf, h]
theorem qpop (d : Nat) (n : Nat) : Statement (.qpop d n) := by
  intro h w hw
  simp only [Instr.wellFormed, Bool.and_eq_true, decide_eq_true_eq] at h
  refine decode_of_fields (by omega) (by omega) (by omega) (by omega) ?_ hw
  simp [decodeFields, decodeA, okIf, h]
theorem launch (d : Nat) (a : Nat) : Statement (.launch d a) := by
  intro h w hw
  simp only [Instr.wellFormed, Bool.and_eq_true, decide_eq_true_eq] at h
  refine decode_of_fields (by omega) (by omega) (by omega) (by omega) ?_ hw
  simp [decodeFields, decodeA, okIf, h]
theorem signal (a : Nat) (b : Nat) : Statement (.signal a b) := by
  intro h w hw
  simp only [Instr.wellFormed, Bool.and_eq_true, decide_eq_true_eq] at h
  refine decode_of_fields (by omega) (by omega) (by omega) (by omega) ?_ hw
  simp [decodeFields, decodeA, okIf, h]
theorem flip (scope : FlipScope) (a : Nat) : Statement (.flip scope a) := by
  intro h w hw
  cases scope <;> simp only [Instr.wellFormed, decide_eq_true_eq, reduceCtorEq, if_true, if_false] at h <;>
    refine decode_of_fields (by omega) (by omega) (by omega) (by decide) ?_ hw <;>
    simp [decodeFields, decodeB, okIf, h, Machine.flipCode, Machine.flipOfCode]
theorem flipx (scope : FlipScope) (a : Nat) : Statement (.flipx scope a) := by
  intro h w hw
  cases scope <;> simp only [Instr.wellFormed, decide_eq_true_eq, reduceCtorEq, if_true, if_false] at h <;>
    refine decode_of_fields (by omega) (by omega) (by omega) (by decide) ?_ hw <;>
    simp [decodeFields, decodeB, okIf, h, Machine.flipCode, Machine.flipOfCode]
theorem flipc (scope : FlipScope) (a : Nat) : Statement (.flipc scope a) := by
  intro h w hw
  cases scope <;> simp only [Instr.wellFormed, decide_eq_true_eq, reduceCtorEq, if_true, if_false] at h <;>
    refine decode_of_fields (by omega) (by omega) (by omega) (by decide) ?_ hw <;>
    simp [decodeFields, decodeB, okIf, h, Machine.flipCode, Machine.flipOfCode]
theorem xfer (d : Nat) (a : Nat) : Statement (.xfer d a) := by
  intro h w hw
  simp only [Instr.wellFormed, Bool.and_eq_true, decide_eq_true_eq] at h
  refine decode_of_fields (by omega) (by omega) (by omega) (by omega) ?_ hw
  simp [decodeFields, decodeB, okIf, h]
theorem xwait (d : Nat) (a : Nat) : Statement (.xwait d a) := by
  intro h w hw
  simp only [Instr.wellFormed, Bool.and_eq_true, decide_eq_true_eq] at h
  refine decode_of_fields (by omega) (by omega) (by omega) (by omega) ?_ hw
  simp [decodeFields, decodeB, okIf, h]
theorem xstat (d : Nat) (a : Nat) : Statement (.xstat d a) := by
  intro h w hw
  simp only [Instr.wellFormed, Bool.and_eq_true, decide_eq_true_eq] at h
  refine decode_of_fields (by omega) (by omega) (by omega) (by omega) ?_ hw
  simp [decodeFields, decodeB, okIf, h]
theorem tld (d : Nat) (a : Nat) : Statement (.tld d a) := by
  intro h w hw
  simp only [Instr.wellFormed, Bool.and_eq_true, decide_eq_true_eq] at h
  refine decode_of_fields (by omega) (by omega) (by omega) (by omega) ?_ hw
  simp [decodeFields, decodeC, okIf, h]
theorem tst (d : Nat) (a : Nat) : Statement (.tst d a) := by
  intro h w hw
  simp only [Instr.wellFormed, Bool.and_eq_true, decide_eq_true_eq] at h
  refine decode_of_fields (by omega) (by omega) (by omega) (by omega) ?_ hw
  simp [decodeFields, decodeC, okIf, h]
theorem tzero (d : Nat) : Statement (.tzero d) := by
  intro h w hw
  simp only [Instr.wellFormed, Bool.and_eq_true, decide_eq_true_eq] at h
  refine decode_of_fields (by omega) (by omega) (by omega) (by omega) ?_ hw
  simp [decodeFields, decodeC, okIf, h]
theorem tmmaTile (d : Nat) (a : Nat) (b : Nat) : Statement (.tmmaTile d a b) := by
  intro h w hw
  simp only [Instr.wellFormed, Bool.and_eq_true, decide_eq_true_eq] at h
  refine decode_of_fields (by omega) (by omega) (by omega) (by omega) ?_ hw
  simp [decodeFields, decodeC, okIf, h]
theorem tmmaDesc (d : Nat) (a : Nat) (b : Nat) : Statement (.tmmaDesc d a b) := by
  intro h w hw
  simp only [Instr.wellFormed, Bool.and_eq_true, decide_eq_true_eq] at h
  have e1 : ¬ 128 + a < 8 := by omega
  have e2 : 128 + a < 192 := by omega
  refine decode_of_fields (by omega) (by omega) (by omega) (by omega) ?_ hw
  simp [decodeFields, decodeC, okIf, h, e1, e2]
theorem tsoft (d : Nat) (a : Nat) (b : Nat) : Statement (.tsoft d a b) := by
  intro h w hw
  simp only [Instr.wellFormed, Bool.and_eq_true, decide_eq_true_eq] at h
  refine decode_of_fields (by omega) (by omega) (by omega) (by omega) ?_ hw
  simp [decodeFields, decodeC, okIf, h]
theorem tadd (d : Nat) (a : Nat) (b : Nat) : Statement (.tadd d a b) := by
  intro h w hw
  simp only [Instr.wellFormed, Bool.and_eq_true, decide_eq_true_eq] at h
  refine decode_of_fields (by omega) (by omega) (by omega) (by omega) ?_ hw
  simp [decodeFields, decodeC, okIf, h]
theorem tmul (d : Nat) (a : Nat) (b : Nat) : Statement (.tmul d a b) := by
  intro h w hw
  simp only [Instr.wellFormed, Bool.and_eq_true, decide_eq_true_eq] at h
  refine decode_of_fields (by omega) (by omega) (by omega) (by omega) ?_ hw
  simp [decodeFields, decodeC, okIf, h]
theorem tscl (d : Nat) : Statement (.tscl d) := by
  intro h w hw
  simp only [Instr.wellFormed, Bool.and_eq_true, decide_eq_true_eq] at h
  refine decode_of_fields (by omega) (by omega) (by omega) (by omega) ?_ hw
  simp [decodeFields, decodeC, okIf, h]
theorem texp2 (d : Nat) (a : Nat) : Statement (.texp2 d a) := by
  intro h w hw
  simp only [Instr.wellFormed, Bool.and_eq_true, decide_eq_true_eq] at h
  refine decode_of_fields (by omega) (by omega) (by omega) (by omega) ?_ hw
  simp [decodeFields, decodeC, okIf, h]
theorem tcvt (d : Nat) (a : Nat) : Statement (.tcvt d a) := by
  intro h w hw
  simp only [Instr.wellFormed, Bool.and_eq_true, decide_eq_true_eq] at h
  refine decode_of_fields (by omega) (by omega) (by omega) (by omega) ?_ hw
  simp [decodeFields, decodeC, okIf, h]
theorem tmax (d : Nat) (a : Nat) (b : Nat) : Statement (.tmax d a b) := by
  intro h w hw
  simp only [Instr.wellFormed, Bool.and_eq_true, decide_eq_true_eq] at h
  refine decode_of_fields (by omega) (by omega) (by omega) (by omega) ?_ hw
  simp [decodeFields, decodeC, okIf, h]
theorem trowred (d : Nat) (a : Nat) (kind : Nat) : Statement (.trowred d a kind) := by
  intro h w hw
  simp only [Instr.wellFormed, Bool.and_eq_true, decide_eq_true_eq] at h
  refine decode_of_fields (by omega) (by omega) (by omega) (by omega) ?_ hw
  simp [decodeFields, decodeC, okIf, h]
theorem tfence (d : Nat) : Statement (.tfence d) := by
  intro h w hw
  simp only [Instr.wellFormed, Bool.and_eq_true, decide_eq_true_eq] at h
  refine decode_of_fields (by omega) (by omega) (by omega) (by omega) ?_ hw
  simp [decodeFields, decodeC, okIf, h]
theorem twait (a : Nat) : Statement (.twait a) := by
  intro h w hw
  simp only [Instr.wellFormed, Bool.and_eq_true, decide_eq_true_eq] at h
  refine decode_of_fields (by omega) (by omega) (by omega) (by omega) ?_ hw
  simp [decodeFields, decodeC, okIf, h]
theorem force (d : Nat) (mask : BitVec 4) : Statement (.force d mask) := by
  intro h w hw
  simp only [Instr.wellFormed, Bool.and_eq_true, decide_eq_true_eq] at h
  have := mask.isLt
  refine decode_of_fields (by omega) (by omega) (by omega) (by omega) ?_ hw
  simp [decodeFields, decodeC, okIf, h]
  omega
theorem tmap (d : Nat) (a : Nat) (b : Nat) : Statement (.tmap d a b) := by
  intro h w hw
  simp only [Instr.wellFormed, Bool.and_eq_true, decide_eq_true_eq] at h
  refine decode_of_fields (by omega) (by omega) (by omega) (by omega) ?_ hw
  simp [decodeFields, decodeC, okIf, h]
theorem trv (d : Nat) (a : Nat) (quarter : Nat) (row : Nat) : Statement (.trv d a quarter row) := by
  intro h w hw
  simp only [Instr.wellFormed, Bool.and_eq_true, decide_eq_true_eq] at h
  refine decode_of_fields (by omega) (by omega) (by omega) (by omega) ?_ hw
  simp [decodeFields, decodeD, okIf, h]
  omega
theorem tvr (d : Nat) (a : Nat) (quarter : Nat) (row : Nat) : Statement (.tvr d a quarter row) := by
  intro h w hw
  simp only [Instr.wellFormed, Bool.and_eq_true, decide_eq_true_eq] at h
  refine decode_of_fields (by omega) (by omega) (by omega) (by omega) ?_ hw
  simp [decodeFields, decodeD, okIf, h]
  omega
theorem ckpt : Statement .ckpt := by
  intro h w hw
  simp only [Instr.wellFormed, Bool.and_eq_true, decide_eq_true_eq] at h
  refine decode_of_fields (by omega) (by omega) (by omega) (by omega) ?_ hw
  simp [decodeFields, decodeE, okIf, h]
theorem sigchk (d : Nat) : Statement (.sigchk d) := by
  intro h w hw
  simp only [Instr.wellFormed, Bool.and_eq_true, decide_eq_true_eq] at h
  refine decode_of_fields (by omega) (by omega) (by omega) (by omega) ?_ hw
  simp [decodeFields, decodeE, okIf, h]
theorem perf (cls : Nat) : Statement (.perf cls) := by
  intro h w hw
  simp only [Instr.wellFormed, Bool.and_eq_true, decide_eq_true_eq] at h
  refine decode_of_fields (by omega) (by omega) (by omega) (by omega) ?_ hw
  simp [decodeFields, decodeE, okIf, h]
theorem time (d : Nat) : Statement (.time d) := by
  intro h w hw
  simp only [Instr.wellFormed, Bool.and_eq_true, decide_eq_true_eq] at h
  refine decode_of_fields (by omega) (by omega) (by omega) (by omega) ?_ hw
  simp [decodeFields, decodeE, okIf, h]
theorem cyc (d : Nat) : Statement (.cyc d) := by
  intro h w hw
  simp only [Instr.wellFormed, Bool.and_eq_true, decide_eq_true_eq] at h
  refine decode_of_fields (by omega) (by omega) (by omega) (by omega) ?_ hw
  simp [decodeFields, decodeE, okIf, h]
theorem settimer (a : Nat) : Statement (.settimer a) := by
  intro h w hw
  simp only [Instr.wellFormed, Bool.and_eq_true, decide_eq_true_eq] at h
  refine decode_of_fields (by omega) (by omega) (by omega) (by omega) ?_ hw
  simp [decodeFields, decodeE, okIf, h]
theorem idemp : Statement .idemp := by
  intro h w hw
  simp only [Instr.wellFormed, Bool.and_eq_true, decide_eq_true_eq] at h
  refine decode_of_fields (by omega) (by omega) (by omega) (by omega) ?_ hw
  simp [decodeFields, decodeE, okIf, h]
theorem sysrd (d : Nat) (a : Nat) : Statement (.sysrd d a) := by
  intro h w hw
  simp only [Instr.wellFormed, Bool.and_eq_true, decide_eq_true_eq] at h
  refine decode_of_fields (by omega) (by omega) (by omega) (by omega) ?_ hw
  simp [decodeFields, decodeF, okIf, h]
theorem syswr (d : Nat) (a : Nat) : Statement (.syswr d a) := by
  intro h w hw
  simp only [Instr.wellFormed, Bool.and_eq_true, decide_eq_true_eq] at h
  refine decode_of_fields (by omega) (by omega) (by omega) (by omega) ?_ hw
  simp [decodeFields, decodeF, okIf, h]
theorem pflip : Statement .pflip := by
  intro h w hw
  simp only [Instr.wellFormed, Bool.and_eq_true, decide_eq_true_eq] at h
  refine decode_of_fields (by omega) (by omega) (by omega) (by omega) ?_ hw
  simp [decodeFields, decodeF, okIf, h]
theorem haltc (a : Nat) : Statement (.haltc a) := by
  intro h w hw
  simp only [Instr.wellFormed, Bool.and_eq_true, decide_eq_true_eq] at h
  refine decode_of_fields (by omega) (by omega) (by omega) (by omega) ?_ hw
  simp [decodeFields, decodeF, okIf, h]
theorem tlbinv (a : Nat) (b : Nat) : Statement (.tlbinv a b) := by
  intro h w hw
  simp only [Instr.wellFormed, Bool.and_eq_true, decide_eq_true_eq] at h
  refine decode_of_fields (by omega) (by omega) (by omega) (by omega) ?_ hw
  simp [decodeFields, decodeF, okIf, h]
theorem flipTakesEffect (strand : Nat) : Statement (.flipTakesEffect strand) := by
  intro _ w hw; cases hw
theorem operandLogReplay (strand : Nat) : Statement (.operandLogReplay strand) := by
  intro _ w hw; cases hw
theorem timerExpiry (strand : Nat) : Statement (.timerExpiry strand) := by
  intro _ w hw; cases hw
theorem strandPromotion (strand : Nat) : Statement (.strandPromotion strand) := by
  intro _ w hw; cases hw
theorem critDeferralExpiry (core : Nat) : Statement (.critDeferralExpiry core) := by
  intro _ w hw; cases hw
theorem transferStart (team : Nat) (id : Nat) : Statement (.transferStart team id) := by
  intro _ w hw; cases hw
theorem walkerBeat (team : Nat) (id : Nat) : Statement (.walkerBeat team id) := by
  intro _ w hw; cases hw
theorem gangPlacement : Statement .gangPlacement := by
  intro _ w hw; cases hw
theorem launchPassover (launch : Nat) : Statement (.launchPassover launch) := by
  intro _ w hw; cases hw
theorem terminationSample (launch : Nat) (die : Nat) : Statement (.terminationSample launch die) := by
  intro _ w hw; cases hw
theorem notifyWrite (fn : Nat) (ide : Bool) (queue : Nat) (value : Word) : Statement (.notifyWrite fn ide queue value) := by
  intro _ w hw; cases hw
theorem packetRead (queue : Nat) : Statement (.packetRead queue) := by
  intro _ w hw; cases hw
theorem taskReady (task : Nat) : Statement (.taskReady task) := by
  intro _ w hw; cases hw
theorem launchPacket (task : Nat) : Statement (.launchPacket task) := by
  intro _ w hw; cases hw
theorem pinPacket (task : Nat) : Statement (.pinPacket task) := by
  intro _ w hw; cases hw
theorem unpinPacket (task : Nat) : Statement (.unpinPacket task) := by
  intro _ w hw; cases hw
theorem signalPacket (task : Nat) : Statement (.signalPacket task) := by
  intro _ w hw; cases hw
theorem nopPacket (task : Nat) : Statement (.nopPacket task) := by
  intro _ w hw; cases hw
theorem taskRetirement (task : Nat) : Statement (.taskRetirement task) := by
  intro _ w hw; cases hw
theorem commandTimeout (launch : Nat) : Statement (.commandTimeout launch) := by
  intro _ w hw; cases hw
theorem coreError (team : Nat) (retired : Bool) : Statement (.coreError team retired) := by
  intro _ w hw; cases hw
theorem graphPoison (task : Nat) : Statement (.graphPoison task) := by
  intro _ w hw; cases hw
theorem preemption (part : Nat) : Statement (.preemption part) := by
  intro _ w hw; cases hw
theorem hotSpotLimit (core : Nat) : Statement (.hotSpotLimit core) := by
  intro _ w hw; cases hw
theorem migration (gang : Nat) : Statement (.migration gang) := by
  intro _ w hw; cases hw
theorem migrationTransferRebind (gang : Nat) : Statement (.migrationTransferRebind gang) := by
  intro _ w hw; cases hw
theorem thermalClockLimit (cluster : Nat) : Statement (.thermalClockLimit cluster) := by
  intro _ w hw; cases hw
theorem thermalTrip : Statement .thermalTrip := by
  intro _ w hw; cases hw
theorem phaseLoss (die : Nat) : Statement (.phaseLoss die) := by
  intro _ w hw; cases hw
theorem ballast (granule : Nat) (cycles : Nat) : Statement (.ballast granule cycles) := by
  intro _ w hw; cases hw
theorem powerControlTick (uncore : Nat) (duties : List Nat) (clocks : List Nat) : Statement (.powerControlTick uncore duties clocks) := by
  intro _ w hw; cases hw
theorem patrolScrub (sector : Nat) : Statement (.patrolScrub sector) := by
  intro _ w hw; cases hw
theorem ropeCompare (team : Nat) (strand : Nat) : Statement (.ropeCompare team strand) := by
  intro _ w hw; cases hw
theorem logFullCheckpoint (team : Nat) : Statement (.logFullCheckpoint team) := by
  intro _ w hw; cases hw
theorem hostMemoryWrite (fn : Nat) (ide : Bool) (at' : HostAddr) (bytes : List Byte) : Statement (.hostMemoryWrite fn ide at' bytes) := by
  intro _ w hw; cases hw
theorem hostMemoryRead (fn : Nat) (ide : Bool) (at' : HostAddr) (n : Nat) : Statement (.hostMemoryRead fn ide at' n) := by
  intro _ w hw; cases hw
theorem queueRecordWrite (queue : Nat) : Statement (.queueRecordWrite queue) := by
  intro _ w hw; cases hw
theorem queueRecordRead (queue : Nat) : Statement (.queueRecordRead queue) := by
  intro _ w hw; cases hw
theorem spanRecordWrite : Statement .spanRecordWrite := by
  intro _ w hw; cases hw
theorem contextTearDown (part : Nat) (asid : Nat) : Statement (.contextTearDown part asid) := by
  intro _ w hw; cases hw
theorem meventClear (mask : DWord) : Statement (.meventClear mask) := by
  intro _ w hw; cases hw
theorem registerWrite (offset : Nat) (value : DWord) : Statement (.registerWrite offset value) := by
  intro _ w hw; cases hw
theorem moduleReset : Statement .moduleReset := by
  intro _ w hw; cases hw
theorem startTimeout : Statement .startTimeout := by
  intro _ w hw; cases hw
theorem bootRetry : Statement .bootRetry := by
  intro _ w hw; cases hw
theorem spdmRequest (ask : SpdmAsk) : Statement (.spdmRequest ask) := by
  intro _ w hw; cases hw
theorem tdispLock (vf : Nat) : Statement (.tdispLock vf) := by
  intro _ w hw; cases hw
theorem tdispError (vf : Nat) : Statement (.tdispError vf) := by
  intro _ w hw; cases hw
theorem hallCapMessage (bytes : List Byte) : Statement (.hallCapMessage bytes) := by
  intro _ w hw; cases hw
theorem hallCapExpiry : Statement .hallCapExpiry := by
  intro _ w hw; cases hw
theorem ieee1588Message (offset : Int) : Statement (.ieee1588Message offset) := by
  intro _ w hw; cases hw
theorem flitReceive (port : Nat) (flit : List Byte) : Statement (.flitReceive port flit) := by
  intro _ w hw; cases hw
theorem linkRetrainTimeout (port : Nat) : Statement (.linkRetrainTimeout port) := by
  intro _ w hw; cases hw
theorem requestTimeout (tag : Nat) : Statement (.requestTimeout tag) := by
  intro _ w hw; cases hw
theorem peerRequest (req : PeerReq) : Statement (.peerRequest req) := by
  intro _ w hw; cases hw
theorem peerResponse (resp : PeerResp) : Statement (.peerResponse resp) := by
  intro _ w hw; cases hw
theorem timeFlitSend : Statement .timeFlitSend := by
  intro _ w hw; cases hw
theorem timeFlitReceive (port : Nat) (time : Nat) (delay : Nat) : Statement (.timeFlitReceive port time delay) := by
  intro _ w hw; cases hw
theorem spanHashCompare (task : Nat) (hashes : List (Nat × DWord)) : Statement (.spanHashCompare task hashes) := by
  intro _ w hw; cases hw
theorem spanMatchTimeout (task : Nat) : Statement (.spanMatchTimeout task) := by
  intro _ w hw; cases hw
theorem invalidInstructionWord (word : Word) : Statement (.invalidInstructionWord word) := by
  intro _ w hw; cases hw
theorem queueDescriptorError (queue : Nat) : Statement (.queueDescriptorError queue) := by
  intro _ w hw; cases hw
theorem partitionReconfiguration (cfgs : List DWord) : Statement (.partitionReconfiguration cfgs) := by
  intro _ w hw; cases hw
theorem firmwareReady : Statement .firmwareReady := by
  intro _ w hw; cases hw
theorem startStageFailure (reason : Nat) : Statement (.startStageFailure reason) := by
  intro _ w hw; cases hw
theorem newImageWrite (image : Image) : Statement (.newImageWrite image) := by
  intro _ w hw; cases hw
theorem tdispRun (vf : Nat) : Statement (.tdispRun vf) := by
  intro _ w hw; cases hw
theorem tdispConfigUnlocked (vf : Nat) : Statement (.tdispConfigUnlocked vf) := by
  intro _ w hw; cases hw
theorem linkRetrained (port : Nat) : Statement (.linkRetrained port) := by
  intro _ w hw; cases hw
theorem ptmMessage (kind : PtmKind) : Statement (.ptmMessage kind) := by
  intro _ w hw; cases hw
theorem managementPortFrame (kind : FrameKind) : Statement (.managementPortFrame kind) := by
  intro _ w hw; cases hw
theorem thermalLimitRelease (cluster : Nat) : Statement (.thermalLimitRelease cluster) := by
  intro _ w hw; cases hw
theorem peerBarrierArrival (launch : Nat) (number : Nat) (kind : PeerBarrier) : Statement (.peerBarrierArrival launch number kind) := by
  intro _ w hw; cases hw

end Sys2Proof.Laws.Codec
end

