-- ==== Sys2Proof/Tests/Slice0.lean ====
section
/-!
SUPPORT. The model's own tests: ill-formed terms that WellFormed refuses, one word of every row of the opcode table decoded, the spec's
worked examples, and for every statement states and operands that meet its hypotheses.
-/
open Sys2Proof Sys2Proof.Machine
namespace Sys2Proof.Tests

/-! ### Ill-formed terms, each refused by the check it fails -/

theorem test_illFormed_0 : ∀ i ∈ ([
    .brz 64 0, .brnz 64 0, .bre 8 0, .brne 8 0, .jr 64, .callr 64, .add 64 0 0, .add 0 64 0, .add 0 0 64,
    .sub 64 0 0, .sub 0 64 0, .sub 0 0 64, .mul 64 0 0, .mul 0 64 0, .mul 0 0 64, .mulh 64 0 0, .mulh 0 64 0,
    .mulh 0 0 64, .mulhn 64 0 0, .mulhn 0 64 0, .mulhn 0 0 64, .div 64 0 0, .div 0 64 0, .div 0 0 64, .divn 64 0 0,
    .divn 0 64 0, .divn 0 0 64, .rem 64 0 0, .rem 0 64 0, .rem 0 0 64] : List Instr), i.wellFormed = false := by decide

theorem test_illFormed_1 : ∀ i ∈ ([
    .remn 64 0 0, .remn 0 64 0, .remn 0 0 64, .and 64 0 0, .and 0 64 0, .and 0 0 64, .or 64 0 0, .or 0 64 0,
    .or 0 0 64, .xor 64 0 0, .xor 0 64 0, .xor 0 0 64, .shl 64 0 0, .shl 0 64 0, .shl 0 0 64, .shr 64 0 0,
    .shr 0 64 0, .shr 0 0 64, .sra 64 0 0, .sra 0 64 0, .sra 0 0 64, .slt 64 0 0, .slt 0 64 0, .slt 0 0 64,
    .sltn 64 0 0, .sltn 0 64 0, .sltn 0 0 64, .min 64 0 0, .min 0 64 0, .min 0 0 64] : List Instr), i.wellFormed = false := by decide

theorem test_illFormed_2 : ∀ i ∈ ([
    .max 64 0 0, .max 0 64 0, .max 0 0 64, .minn 64 0 0, .minn 0 64 0, .minn 0 0 64, .maxn 64 0 0, .maxn 0 64 0,
    .maxn 0 0 64, .clz 64 0, .clz 0 64, .popc 64 0, .popc 0 64, .addi 64 0 0, .addi 0 64 0, .shli 64 0 0,
    .shli 0 64 0, .shli 0 0 64, .shri 64 0 0, .shri 0 64 0, .shri 0 0 64, .srai 64 0 0, .srai 0 64 0, .srai 0 0 64,
    .andi 64 0 0, .andi 0 64 0, .li 64 0, .lih 64 0, .mfsr 64 1, .mfsr 0 0] : List Instr), i.wellFormed = false := by decide

theorem test_illFormed_3 : ∀ i ∈ ([
    .mtsr 0x18 64, .mtsr 0x0C 0, .mode 0x4000, .modes 64, .emset 8, .emget 8, .pand 8 0 0, .pand 0 8 0,
    .pand 0 0 8, .por 8 0 0, .por 0 8 0, .por 0 0 8, .pxor 8 0 0, .pxor 0 8 0, .pxor 0 0 8, .pandn 8 0 0,
    .pandn 0 8 0, .pandn 0 0 8, .pnot 8 0, .pnot 0 8, .ppopc 64 0, .ppopc 0 8, .pffs 64 0, .pffs 0 8, .pfroms 8 0,
    .pfroms 0 64, .ptos 64 0, .ptos 0 8, .vadd 128 0 0, .vadd 0 128 0] : List Instr), i.wellFormed = false := by decide

theorem test_illFormed_4 : ∀ i ∈ ([
    .vadd 0 0 128, .vsub 128 0 0, .vsub 0 128 0, .vsub 0 0 128, .vmul 128 0 0, .vmul 0 128 0, .vmul 0 0 128,
    .vmad 128 0 0, .vmad 0 128 0, .vmad 0 0 128, .vmin 128 0 0, .vmin 0 128 0, .vmin 0 0 128, .vmax 128 0 0,
    .vmax 0 128 0, .vmax 0 0 128, .vabs 128 0, .vabs 0 128, .vneg 128 0, .vneg 0 128, .vdiv 128 0 0, .vdiv 0 128 0,
    .vdiv 0 0 128, .vrcp 128 0, .vrcp 0 128, .vrsq 128 0, .vrsq 0 128, .vsqrt 128 0, .vsqrt 0 128, .vexp2 128 0] : List Instr), i.wellFormed = false := by decide

theorem test_illFormed_5 : ∀ i ∈ ([
    .vexp2 0 128, .vlog2 128 0, .vlog2 0 128, .vrnd 128 0, .vrnd 0 128, .vmulh 128 0 0, .vmulh 0 128 0,
    .vmulh 0 0 128, .vand 128 0 0, .vand 0 128 0, .vand 0 0 128, .vor 128 0 0, .vor 0 128 0, .vor 0 0 128,
    .vxor 128 0 0, .vxor 0 128 0, .vxor 0 0 128, .vnot 128 0, .vnot 0 128, .vshl 128 0 0, .vshl 0 128 0,
    .vshl 0 0 128, .vshr 128 0 0, .vshr 0 128 0, .vshr 0 0 128, .vclz 128 0, .vclz 0 128, .vpopc 128 0,
    .vpopc 0 128, .vceq 8 0 0] : List Instr), i.wellFormed = false := by decide

theorem test_illFormed_6 : ∀ i ∈ ([
    .vceq 0 128 0, .vceq 0 0 128, .vcne 8 0 0, .vcne 0 128 0, .vcne 0 0 128, .vclt 8 0 0, .vclt 0 128 0,
    .vclt 0 0 128, .vcle 8 0 0, .vcle 0 128 0, .vcle 0 0 128, .vsel 128 0 0, .vsel 0 128 0, .vsel 0 0 128,
    .vbcst 128 0, .vbcst 0 64, .vtos 64 0 0, .vtos 0 128 0, .vtos 0 0 32, .vsetl 128 0 0, .vsetl 0 64 0,
    .vsetl 0 0 32, .vshuf 128 0 0, .vshuf 0 128 0, .vshuf 0 0 128, .vlane 128 0 0, .vlane 0 128 0, .vlane 0 0 64,
    .vprefix 128 0, .vprefix 0 8] : List Instr), i.wellFormed = false := by decide

theorem test_illFormed_7 : ∀ i ∈ ([
    .vmatch 128 0, .vmatch 0 128, .vballot 8 0, .vballot 0 128, .vredadd 64 0, .vredadd 0 128, .vredmin 64 0,
    .vredmin 0 128, .vredmax 64 0, .vredmax 0 128, .vscan 128 0, .vscan 0 128, .vcvt 128 0, .vcvt 0 128,
    .vcvth 128 0 0, .vcvth 0 128 0, .vcvth 0 0 64, .vpack 128 0 0, .vpack 0 128 0, .vpack 0 0 128, .vunpk 128 0 0,
    .vunpk 0 128 0, .vunpk 0 0 4, .vretag 128 0 .raw, .vretag 0 128 .raw, .vretag 0 0 (.pl false 1),
    .vretag 0 0 (.pl true 9), .vgettag 64 0, .vgettag 0 128, .ldb 64 0 0 0] : List Instr), i.wellFormed = false := by decide

theorem test_illFormed_8 : ∀ i ∈ ([
    .ldb 0 64 0 0, .ldb 0 0 4 0, .ldh 64 0 0 0, .ldh 0 64 0 0, .ldh 0 0 4 0, .ldw 64 0 0 0, .ldw 0 64 0 0,
    .ldw 0 0 4 0, .ldd 64 0 0 0, .ldd 0 64 0 0, .ldd 0 0 4 0, .stb 64 0 0, .stb 0 64 0, .sth 64 0 0, .sth 0 64 0,
    .stw 64 0 0, .stw 0 64 0, .std 64 0 0, .std 0 64 0, .vld 128 0 false 0, .vld 0 64 false 0, .vld 0 0 false 128,
    .vst 128 0 0, .vst 0 64 0, .vst 0 0 128, .vldc 128 0 0 0, .vldc 0 64 0 0, .vldc 0 0 4 0, .vstc 128 0 0,
    .vstc 0 64 0] : List Instr), i.wellFormed = false := by decide

theorem test_illFormed_9 : ∀ i ∈ ([
    .pref 64 0 0, .pref 0 4 0, .spld 128 0 0, .spld 0 64 0, .spld 0 0 128, .spst 128 0 0, .spst 0 64 0,
    .spst 0 0 128, .spldc 128 0 0, .spldc 0 64 0, .spstc 128 0 0, .spstc 0 64 0, .spaadd 128 0 0, .spaadd 0 64 0,
    .spaadd 0 0 127, .spacas 128 0 0, .spacas 0 64 0, .spacas 0 0 127, .aadd 128 0 0, .aadd 0 64 0, .aadd 0 0 127,
    .amin 128 0 0, .amin 0 64 0, .amin 0 0 127, .amax 128 0 0, .amax 0 64 0, .amax 0 0 127, .aand 128 0 0,
    .aand 0 64 0, .aand 0 0 127] : List Instr), i.wellFormed = false := by decide

theorem test_illFormed_10 : ∀ i ∈ ([
    .aor 128 0 0, .aor 0 64 0, .aor 0 0 127, .axor 128 0 0, .axor 0 64 0, .axor 0 0 127, .axch 128 0 0,
    .axch 0 64 0, .axch 0 0 127, .acas 128 0 0, .acas 0 64 0, .acas 0 0 127, .afadd 128 0 0, .afadd 0 64 0,
    .afadd 0 0 127, .redadd 64 0, .redadd 0 127, .redfadd 64 0, .redfadd 0 127, .ldacq 64 0 0 .strand,
    .ldacq 0 64 0 .strand, .ldacq 0 0 4 .strand, .strel 64 0 0 .strand, .strel 0 64 0 .strand,
    .strel 0 0 4 .strand, .arrive .team 16, .await 64 .team 0, .await 0 .team 16, .meet 64 .team 0,
    .meet 0 .team 16] : List Instr), i.wellFormed = false := by decide

theorem test_illFormed_11 : ∀ i ∈ ([
    .kjoin 64 0, .kjoin 0 64, .kinfo 64 0, .kinfo 0 4, .cbwait 64 0, .cbwait 0 16, .cbpop 16, .cbpush 16,
    .cbinfo 64 0, .cbinfo 0 16, .qpush 128 0, .qpush 0 8, .qpop 128 0, .qpop 0 8, .launch 64 0, .launch 0 64,
    .signal 64 0, .signal 0 64, .flip .segment 64, .flip .team 1, .flipx .segment 64, .flipx .team 1,
    .flipc .segment 64, .flipc .team 1, .xfer 64 0, .xfer 0 64, .xwait 64 0, .xwait 0 64, .xstat 64 0, .xstat 0 64] : List Instr), i.wellFormed = false := by decide

theorem test_illFormed_12 : ∀ i ∈ ([
    .tld 8 0, .tld 0 64, .tst 8 0, .tst 0 64, .tzero 8, .tmmaTile 8 0 0, .tmmaTile 0 8 0, .tmmaTile 0 0 64,
    .tmmaDesc 8 0 0, .tmmaDesc 0 64 0, .tmmaDesc 0 0 64, .tsoft 8 0 0, .tsoft 0 8 0, .tsoft 0 0 64, .tadd 8 0 0,
    .tadd 0 8 0, .tadd 0 0 8, .tmul 8 0 0, .tmul 0 8 0, .tmul 0 0 8, .tscl 8, .texp2 8 0, .texp2 0 8, .tcvt 8 0,
    .tcvt 0 8, .tmax 8 0 0, .tmax 0 8 0, .tmax 0 0 8, .trowred 8 0 0, .trowred 0 8 0] : List Instr), i.wellFormed = false := by decide

theorem test_illFormed_13 : ∀ i ∈ ([
    .trowred 0 0 2, .tfence 64, .twait 64, .force 8 0, .tmap 8 0 0, .tmap 0 8 0, .tmap 0 0 64, .trv 128 0 0 0,
    .trv 0 8 0 0, .trv 0 0 4 0, .trv 0 0 0 32, .tvr 8 0 0 0, .tvr 0 128 0 0, .tvr 0 0 4 0, .tvr 0 0 0 32,
    .sigchk 64, .perf 4, .time 64, .cyc 64, .settimer 64, .sysrd 64 0, .sysrd 0 64, .syswr 64 0, .syswr 0 64,
    .haltc 64, .tlbinv 64 0, .tlbinv 0 64, .critDeferralExpiry 2048, .terminationSample 0 4,
    .linkRetrainTimeout 16] : List Instr), i.wellFormed = false := by decide

theorem test_illFormed_14 : ∀ i ∈ ([
    .notifyWrite 17 false 0 0, .notifyWrite 0 false 65536 0, .packetRead 65536, .preemption 16, .hotSpotLimit 2048,
    .thermalClockLimit 8, .phaseLoss 4, .ballast 16 0, .hostMemoryWrite 17 false (.bar2 0) [],
    .hostMemoryWrite 0 false (.bar2 0x1FFFFFFFFFF) [0, 0], .hostMemoryRead 17 false (.bar0 0) 0,
    .hostMemoryRead 0 false (.bar2 0x1FFFFFFFFFF) 2, .queueRecordWrite 65536, .queueRecordRead 65536,
    .contextTearDown 16 0, .contextTearDown 0 65536, .registerWrite 256 0, .spdmRequest (.measurement 256 true), .spdmRequest (.ideStart 17), .spdmRequest (.ideStop 17),
    .peerRequest { src := 0, tag := 0, asid := 0, secure := false, op := .read, scope := .hop3, line := 0, mask := 0, words := [], expected := [], places := [32], poison := 0 }, .tdispLock 16,
    .tdispError 16, .flitReceive 16 (List.replicate 64 0), .flitReceive 0 (List.replicate 63 0),
    .timeFlitReceive 16 0 0, .queueDescriptorError 65536, .startStageFailure 9, .tdispRun 16,
    .tdispConfigUnlocked 16, .linkRetrained 16, .thermalLimitRelease 8] : List Instr), i.wellFormed = false := by decide

theorem test_illFormed_15 : (Instr.hostMemoryWrite 0 false (.bar0 0) (List.replicate 513 0)).wellFormed = false := by
  rw [Instr.wellFormed, List.length_replicate]
  rfl

/-! ### Words written from the encodings of R50–R55, and the instructions they stand for -/

theorem test_decode_0 : ∀ x ∈ ([
    (0x01000000, .nop), (0x02800001, .br 0x800001), (0x03800001, .call 0x800001), (0x04018123, .brz 1 0x8123),
    (0x05018123, .brnz 1 0x8123), (0x06018123, .bre 1 0x8123), (0x07018123, .brne 1 0x8123), (0x08000100, .jr 1),
    (0x09000000, .ret), (0x0A008123, .trap 0x8123), (0x0B000000, .eret), (0x0C000000, .exit),
    (0x0D008123, .bkpt 0x8123), (0x0E000100, .callr 1)] : List (Word × Instr)),
    (decodeWord x.1).toOption = some x.2 := by decide

theorem test_decode_1 : ∀ x ∈ ([
    (0x10010203, .add 1 2 3), (0x11010203, .sub 1 2 3), (0x12010203, .mul 1 2 3), (0x13010203, .mulh 1 2 3),
    (0x14010203, .mulhn 1 2 3), (0x15010203, .div 1 2 3), (0x16010203, .divn 1 2 3), (0x17010203, .rem 1 2 3),
    (0x18010203, .remn 1 2 3), (0x19010203, .and 1 2 3), (0x1A010203, .or 1 2 3), (0x1B010203, .xor 1 2 3),
    (0x1C010203, .shl 1 2 3), (0x1D010203, .shr 1 2 3), (0x1E010203, .sra 1 2 3), (0x1F010203, .slt 1 2 3)] : List (Word × Instr)),
    (decodeWord x.1).toOption = some x.2 := by decide

theorem test_decode_2 : ∀ x ∈ ([
    (0x20010203, .sltn 1 2 3), (0x21010203, .min 1 2 3), (0x22010203, .max 1 2 3), (0x23010203, .minn 1 2 3),
    (0x24010203, .maxn 1 2 3), (0x25010200, .clz 1 2), (0x26010200, .popc 1 2), (0x27010285, .addi 1 2 0x85),
    (0x2801023F, .shli 1 2 0x3f), (0x2901023F, .shri 1 2 0x3f), (0x2A01023F, .srai 1 2 0x3f),
    (0x2B010285, .andi 1 2 0x85), (0x2C018123, .li 1 0x8123), (0x2D018123, .lih 1 0x8123),
    (0x2E011A00, .mfsr 1 0x1A), (0x2F1F0200, .mtsr 0x1F 2)] : List (Word × Instr)),
    (decodeWord x.1).toOption = some x.2 := by decide

theorem test_decode_3 : ∀ x ∈ ([
    (0x30000301, .mode 0x0301), (0x31000100, .modes 1), (0x32000100, .emset 1), (0x33010000, .emget 1),
    (0x34010203, .pand 1 2 3), (0x35010203, .por 1 2 3), (0x36010203, .pxor 1 2 3), (0x37010203, .pandn 1 2 3),
    (0x38010200, .pnot 1 2), (0x39010200, .ppopc 1 2), (0x3A010200, .pffs 1 2), (0x3B010200, .pfroms 1 2),
    (0x3C010200, .ptos 1 2)] : List (Word × Instr)),
    (decodeWord x.1).toOption = some x.2 := by decide

theorem test_decode_4 : ∀ x ∈ ([
    (0x40010203, .vadd 1 2 3), (0x41010203, .vsub 1 2 3), (0x42010203, .vmul 1 2 3), (0x43010203, .vmad 1 2 3),
    (0x44010203, .vmin 1 2 3), (0x45010203, .vmax 1 2 3), (0x46010200, .vabs 1 2), (0x47010200, .vneg 1 2),
    (0x48010203, .vdiv 1 2 3), (0x49010200, .vrcp 1 2), (0x4A010200, .vrsq 1 2), (0x4B010200, .vsqrt 1 2),
    (0x4C010200, .vexp2 1 2), (0x4D010200, .vlog2 1 2), (0x4E010200, .vrnd 1 2), (0x4F010203, .vmulh 1 2 3)] : List (Word × Instr)),
    (decodeWord x.1).toOption = some x.2 := by decide

theorem test_decode_5 : ∀ x ∈ ([
    (0x50010203, .vand 1 2 3), (0x51010203, .vor 1 2 3), (0x52010203, .vxor 1 2 3), (0x53010200, .vnot 1 2),
    (0x54010203, .vshl 1 2 3), (0x55010203, .vshr 1 2 3), (0x56010200, .vclz 1 2), (0x57010200, .vpopc 1 2),
    (0x58010203, .vceq 1 2 3), (0x59010203, .vcne 1 2 3), (0x5A010203, .vclt 1 2 3), (0x5B010203, .vcle 1 2 3),
    (0x5C010203, .vsel 1 2 3), (0x5D010200, .vbcst 1 2), (0x5E01021D, .vtos 1 2 0x1d), (0x5F01021D, .vsetl 1 2 0x1d)] : List (Word × Instr)),
    (decodeWord x.1).toOption = some x.2 := by decide

theorem test_decode_6 : ∀ x ∈ ([
    (0x60010203, .vshuf 1 2 3), (0x61010203, .vlane 1 2 3), (0x62010200, .vprefix 1 2), (0x63010200, .vmatch 1 2),
    (0x64010200, .vballot 1 2), (0x65010200, .vredadd 1 2), (0x66010200, .vredmin 1 2), (0x67010200, .vredmax 1 2),
    (0x68010200, .vscan 1 2), (0x69010200, .vcvt 1 2), (0x6A010203, .vcvth 1 2 3), (0x6B010203, .vpack 1 2 3),
    (0x6C010202, .vunpk 1 2 2), (0x6D010208, .vretag 1 2 .f32), (0x6E010200, .vgettag 1 2)] : List (Word × Instr)),
    (decodeWord x.1).toOption = some x.2 := by decide

theorem test_decode_7 : ∀ x ∈ ([
    (0x700102A1, .ldb 1 2 2 0x21), (0x710102A1, .ldh 1 2 2 0x21), (0x720102A1, .ldw 1 2 2 0x21),
    (0x730102A1, .ldd 1 2 2 0x21), (0x74010221, .stb 1 2 0x21), (0x75010221, .sth 1 2 0x21),
    (0x76010221, .stw 1 2 0x21), (0x77010221, .std 1 2 0x21), (0x78010283, .vld 1 2 true 3),
    (0x79010203, .vst 1 2 3), (0x7A0102A1, .vldc 1 2 2 0x21), (0x7B010221, .vstc 1 2 0x21),
    (0x7C0001A1, .pref 1 2 0x21), (0x7D010203, .spld 1 2 3), (0x7E010203, .spst 1 2 3),
    (0x7F010285, .spldc 1 2 0x85)] : List (Word × Instr)),
    (decodeWord x.1).toOption = some x.2 := by decide

theorem test_decode_8 : ∀ x ∈ ([
    (0x80010285, .spstc 1 2 0x85), (0x81010203, .spaadd 1 2 3), (0x82010203, .spacas 1 2 3),
    (0x83010203, .aadd 1 2 3), (0x84010203, .amin 1 2 3), (0x85010203, .amax 1 2 3), (0x86010203, .aand 1 2 3),
    (0x87010203, .aor 1 2 3), (0x88010203, .axor 1 2 3), (0x89010203, .axch 1 2 3), (0x8A010203, .acas 1 2 3),
    (0x8B010203, .afadd 1 2 3), (0x8C000102, .redadd 1 2), (0x8D000102, .redfadd 1 2)] : List (Word × Instr)),
    (decodeWord x.1).toOption = some x.2 := by decide

theorem test_decode_9 : ∀ x ∈ ([
    (0x90000013, .fence .die .rel), (0x91010234, .ldacq 1 2 3 .pkg), (0x92010222, .strel 1 2 2 .cluster),
    (0x93000045, .arrive .gang 5), (0x94010085, .await 1 .range 5), (0x950100CF, .meet 1 .launch 15),
    (0x96000000, .crit), (0x97000000, .uncrit), (0x98010200, .kjoin 1 2), (0x99000000, .kleave),
    (0x9A010002, .kinfo 1 2)] : List (Word × Instr)),
    (decodeWord x.1).toOption = some x.2 := by decide

theorem test_decode_A : ∀ x ∈ ([
    (0xA0010005, .cbwait 1 5), (0xA1000005, .cbpop 5), (0xA2000005, .cbpush 5), (0xA3010005, .cbinfo 1 5),
    (0xA4010005, .qpush 1 5), (0xA5010005, .qpop 1 5), (0xA6010200, .launch 1 2), (0xA7000102, .signal 1 2)] : List (Word × Instr)),
    (decodeWord x.1).toOption = some x.2 := by decide

theorem test_decode_B : ∀ x ∈ ([
    (0xB0000203, .flip .segment 2), (0xB1000001, .flipx .team 0), (0xB2000002, .flipc .imem 0),
    (0xB3010200, .xfer 1 2), (0xB4010200, .xwait 1 2), (0xB5010200, .xstat 1 2)] : List (Word × Instr)),
    (decodeWord x.1).toOption = some x.2 := by decide

theorem test_decode_C : ∀ x ∈ ([
    (0xC0010200, .tld 1 2), (0xC1010200, .tst 1 2), (0xC2010000, .tzero 1), (0xC3010203, .tmmaTile 1 2 3),
    (0xC3018203, .tmmaDesc 1 2 3), (0xC4010203, .tsoft 1 2 3), (0xC5010203, .tadd 1 2 3), (0xC6010203, .tmul 1 2 3),
    (0xC7010000, .tscl 1), (0xC8010200, .texp2 1 2), (0xC9010200, .tcvt 1 2), (0xCA010203, .tmax 1 2 3),
    (0xCB010201, .trowred 1 2 1), (0xCC010000, .tfence 1), (0xCD000100, .twait 1), (0xCE01000A, .force 1 0xa),
    (0xCF010203, .tmap 1 2 3)] : List (Word × Instr)),
    (decodeWord x.1).toOption = some x.2 := by decide

theorem test_decode_D : ∀ x ∈ ([
    (0xD0010249, .trv 1 2 2 9), (0xD1010249, .tvr 1 2 2 9)] : List (Word × Instr)),
    (decodeWord x.1).toOption = some x.2 := by decide

theorem test_decode_E : ∀ x ∈ ([
    (0xE0000000, .ckpt), (0xE1010000, .sigchk 1), (0xE2000002, .perf 2), (0xE3010000, .time 1), (0xE4010000, .cyc 1),
    (0xE5000100, .settimer 1), (0xE6000000, .idemp)] : List (Word × Instr)),
    (decodeWord x.1).toOption = some x.2 := by decide

theorem test_decode_F : ∀ x ∈ ([
    (0xF0010200, .sysrd 1 2), (0xF1010200, .syswr 1 2), (0xF2000000, .pflip), (0xF3000100, .haltc 1),
    (0xF4000102, .tlbinv 1 2)] : List (Word × Instr)),
    (decodeWord x.1).toOption = some x.2 := by decide


/-! ### A small machine: one SOLO strand of one team, with everything its header may declare -/

/-- A header that declares 16 vector registers, 8 tiles, 4 KiB of scratchpad, and two of each barrier and circular buffer. -/
def hdr : Header :=
  { Header.none with handler := 0x8000, vregs := 2, tiles := 8, spbytes := 4096, cbufs := 2, lbar := 2, gbarRange := 2, gbar := 2, tbar := 2 }
/-- A strand as it starts. -/
def st0 : Strand := Strand.start 1 0 0 false 0 hdr
/-- A ring of one slot ready, its index at the last slot. -/
def ring (inbound : Bool) : CBuf :=
  { latched := true, inbound := inbound, bound := none, base := 0, slotLog := 0, slots := 4, sidx := 3, widx := 0
    filled := if inbound then 1 else 0, free := if inbound then 0 else 1, held := false, bank := false }
/-- The strand's team, member 0 of knit 3. -/
def tm0 : Team := { Team.none with launch := 1, gang := 1, strands := [1], knit := 3, cbs := [(0, ring true), (1, ring false)] }
/-- Its gang, with two tile-store segments and an empty queue 0. -/
def gd0 : Gang :=
  { Gang.none with launch := 1, teams := [1], segs := [Planes.empty, Planes.empty], queues := [(0, { elems := [], pushers := [], poppers := [] })] }
/-- Its launch, with an imem half on core 0. -/
def la0 : Launch := { Launch.none with asid := 7, header := hdr, started := some 0, imems := [(0, { planes := Planes.empty })] }
/-- Partition 0: granule 0, not privileged. -/
def pa0 : Partition := { Partition.none with pcfg := 0x0001000000000000, pcap := 3600 }
/-- Cluster 0: the translation of the page in its TLB, the team's knit in its table. -/
def cl0 : Cluster :=
  { Cluster.idle with tlb := [(7, 0)], knits := [(3, { gen := 1, used := true, part := 0, secure := false, members := [(0, 1)] })] }
/-- One page of 2 MiB at address 0, its frame at physical address 0x200000. -/
def pg0 : Page := { asid := 7, base := 0, size := 0x200000, frame := some 0x200000, peer := none, readable := true, writable := true, shared := none, pins := [0], table := [] }
/-- The machine with a strand executing. -/
def mk (st : Strand) : State :=
  { State.reset with cur := 1, nextId := 10, strands := [(1, st)], teams := [(1, tm0)], gangs := [(1, gd0)], launches := [(1, la0)]
                     clusters := [(0, cl0)], parts := [(0, pa0)], pages := [pg0] }
/-- The machine with a privileged strand of partition 0 whose target is partition 1, which holds granule 1. -/
def mkPriv (st : Strand) : State :=
  { mk st with parts := [(0, { pa0 with pcfg := 0x0001000000000010, ptarget := 1 }), (1, { pa0 with pcfg := 0x0002000000000001 })] }
/-- The strand with a scalar register set. -/
def sc (n : Nat) (v : DWord) : Strand := st0.setS n v
/-- A vector register of one tag and one word in every lane. -/
def splat (t : Tag) (w : Word) : VReg := { tag := t, lanes := List.replicate 32 w }
/-- The strand with a mode type, and sources v1 and v2 of a tag. -/
def vst (m : Half) (t : Tag) : Strand := ((st0.setMode m).setV 1 (splat t 1)).setV 2 (splat t 2)
/-- The same with lane 0 alone active. -/
def one (st : Strand) : Strand := st.setEm 1

theorem mk_plain (st : Strand) (ht : st.team = 1) (h1 : st.log = []) (h2 : st.buffer = []) (h3 : st.nodes = []) : (mk st).Plain st :=
  ⟨rfl, by rw [State.level, State.ropeLevel, State.launchOf, ht]; rfl, h1, h2, h3⟩
theorem mk_solo (st : Strand) (ht : st.team = 1) : (mk st).Solo st :=
  ⟨rfl, by rw [State.level, State.ropeLevel, State.launchOf, ht]; rfl⟩
theorem st0_canTrap : st0.CanTrap := ⟨by decide, by decide⟩

/-! ### Witnesses: for each statement, states and operands that meet its hypotheses, clause by clause at the ends of their ranges -/

theorem test_w_ScalarResults : (mk st0).strand? = some st0 ∧ (63 < 64) ∧ (1 : Nat) ≠ 0
    ∧ ∃ s1 s2 s3 s4, exec (.li 1 0x1234) (mk st0) = .next s1 ∧ exec (.lih 1 0x5678) s1 = .next s2 ∧ exec (.lih 1 0x9ABC) s2 = .next s3
      ∧ exec (.lih 1 0xDEF0) s3 = .next s4 := ⟨rfl, by decide, by decide, _, _, _, _, rfl, rfl, rfl, rfl⟩

theorem test_w_DivisionResults : (mk ((sc 1 (BitVec.intMin 64)).setS 2 (-1))).strand? = some ((sc 1 (BitVec.intMin 64)).setS 2 (-1)) := rfl

theorem test_w_PredicateResults : (mk (st0.setP 1 0x80000000)).strand? = some (st0.setP 1 0x80000000) := rfl

theorem test_w_RegisterFrames : (∃ t st', (mk st0).strand? = some st0 ∧ exec (.add 63 1 2) (mk st0) = .next t ∧ t.strand? = some st')
    ∧ ∃ t st', (mk st0).strand? = some st0 ∧ exec (.pand 7 1 2) (mk st0) = .next t ∧ t.strand? = some st' :=
  ⟨⟨_, _, rfl, rfl, rfl⟩, _, _, rfl, rfl, rfl⟩

/-- Targets 65,532 and 65,536, and −4; register targets 65,532, 65,533 and 65,536; conditions that hold and that do not. -/
theorem test_w_ControlTransfers : let p : Strand := { st0 with pc := 65532 }
    (mk p).strand? = some p ∧ p.pc % 4 = 0 ∧ p.pc < 65536 ∧ ((p.pc : Int) + 4 * (0 : BitVec 24).toInt ≤ 65532)
    ∧ (65532 < (p.pc : Int) + 4 * (1 : BitVec 24).toInt) ∧ ((st0.pc : Int) + 4 * (0xFFFFFF : BitVec 24).toInt < 0) ∧ p.CanTrap
    ∧ p.getS 0 = 0 ∧ (sc 1 1).getS 1 ≠ 0 ∧ p.getP 0 &&& p.em = 0 ∧ (st0.setP 1 1).getP 1 &&& (st0.setP 1 1).em ≠ 0
    ∧ ((sc 1 65532).getS 1).toNat % 4 = 0 ∧ ((sc 1 65532).getS 1).toNat < 65536 ∧ ((sc 1 65533).getS 1).toNat % 4 ≠ 0
    ∧ ((sc 1 65536).getS 1).toNat % 4 = 0 ∧ 65536 ≤ ((sc 1 65536).getS 1).toNat :=
  ⟨rfl, by decide, by decide, by decide, by decide, by decide, ⟨by decide, by decide⟩, by decide, by decide, by decide, by decide, by decide,
   by decide, by decide, by decide, by decide⟩

/-- A strand in a handler, which cannot trap. -/
def inHandler : Strand := { st0 with trapcause := 0x8000000000000001, epc := 65532 }

theorem test_w_TrapEntry : (mk st0).strand? = some st0 ∧ st0.CanTrap ∧ (mk inHandler).Solo inHandler ∧ ¬ inHandler.CanTrap
    ∧ cfind (mk inHandler).launches ((mk inHandler).team inHandler.team).launch = some la0 ∧ la0.event = none :=
  ⟨rfl, st0_canTrap, mk_solo _ rfl, fun h => by have := h.1; revert this; decide, rfl, rfl⟩

theorem test_w_ErrorReturn : (mk inHandler).strand? = some inHandler ∧ inHandler.trapcause.getLsbD 63 = true ∧ inHandler.epc.toNat % 4 = 0
    ∧ inHandler.epc.toNat < 65536 ∧ (mk st0).strand? = some st0 ∧ st0.CanTrap ∧ st0.pc % 4 = 0 ∧ st0.pc < 65532
    ∧ ∃ t, exec (.trap 0) (mk st0) = .next t :=
  ⟨rfl, by decide, by decide, by decide, rfl, st0_canTrap, by decide, by decide, _, rfl⟩

/-- An entry of the operand log: a load of a word at address 0. -/
def entry : LogEntry := { pc := 0, req := .load 1 4 0 0, mode := 0 }

theorem test_w_ExitResults : (mk (st0.setLog [entry])).strand? = some (st0.setLog [entry]) ∧ (st0.setLog [entry]).log ≠ []
    ∧ (mk st0).strand? = some st0 ∧ (mk st0).level st0 = 0 ∧ st0.log = [] ∧ st0.crit = false := by
  refine ⟨rfl, by decide, rfl, by decide, rfl, rfl⟩

/-- Numbers below, between and above those of the map. -/
theorem test_w_SpecialRegisterReads : (mk st0).Solo st0 ∧ st0.CanTrap
    ∧ ∀ n ∈ [0, 0x0C, 0x0F, 0x14, 0x17, 0x25], ¬ (1 ≤ n ∧ n ≤ 0x0B ∨ 0x10 ≤ n ∧ n ≤ 0x13 ∨ 0x18 ≤ n ∧ n ≤ 0x24) :=
  ⟨mk_solo _ rfl, st0_canTrap, by decide⟩

theorem test_w_SpecialRegisterWrites : (mk st0).strand? = some st0 ∧ st0.CanTrap ∧ (sc 1 0xFFFFFFFF).getS 1 = 0xFFFFFFFF
    ∧ ((sc 1 65532).getS 1).toNat % 4 = 0 ∧ ((sc 1 65532).getS 1).toNat < 65536
    ∧ ¬ ((sc 1 65536).getS 1 = 0xFFFFFFFF ∨ (((sc 1 65536).getS 1).toNat % 4 = 0 ∧ ((sc 1 65536).getS 1).toNat < 65536))
    ∧ 0x1A ∉ [0x18, 0x19, 0x1E, 0x1F]
    ∧ ((0x0801 : BitVec 16).toNat < 2 ^ 14 ∧ (0x0801 : BitVec 16).toNat / 2 ^ 9 % 8 ≤ 4
      ∧ (0x0801 : BitVec 16).toNat % 32 ∉ [0x07, 0x0D, 0x0E, 0x0F, 0x10, 0x18])
    ∧ ((sc 1 0x0801).getS 1).toNat < 2 ^ 16 ∧ ¬ ((sc 1 0x10801).getS 1).toNat < 2 ^ 16 := by
  refine ⟨rfl, st0_canTrap, ?_⟩
  decide

theorem test_w_SystemResults : (mk st0).Solo st0 ∧ st0.replica = 0 ∧ cfind (mk st0).teams st0.team = some tm0 := ⟨mk_solo _ rfl, rfl, rfl⟩

/-- Strands of scheduler 0 of core 0 in a critical section, with the executing one. -/
def crits (n : Nat) (st : Strand) : State :=
  { mk st with strands := (1, st) :: (List.range n).map (fun i => (2 + i, { st0 with crit := true })) }

/-- Strands 1 and 2 of scheduler 0, both waiting at CRIT in an order, beside three critical ones. -/
def critQueue (l : List Nat) : State :=
  let w : Strand := { st0 with wait := .crit }
  { crits 3 w with strands := (crits 3 w).strands ++ [(9, w)], cores := [(0, { Core.idle with s0 := { Core.idle.s0 with critWait := l } })] }

/-- Three held and none waiting, the executing strand the oldest waiting, four held, another one older. -/
theorem test_w_CriticalSections : (crits 3 st0).strand? = some st0 ∧ st0.crit = false ∧ st0.wait ≠ .crit
    ∧ (crits 3 st0).critHeld ((crits 3 st0).coreOf st0) st0.sched = 3 ∧ (crits 3 st0).oldestCrit ((crits 3 st0).coreOf st0) st0.sched = none
    ∧ (critQueue [1, 9]).strand? = some { st0 with wait := .crit } ∧ (critQueue [1, 9]).critHeld 0 false = 3
    ∧ (critQueue [1, 9]).oldestCrit 0 false = some (critQueue [1, 9]).cur ∧ (critQueue [9, 1]).oldestCrit 0 false = some 9
    ∧ 9 ≠ (critQueue [9, 1]).cur
    ∧ (crits 4 st0).strand? = some st0 ∧ 4 ≤ (crits 4 st0).critHeld ((crits 4 st0).coreOf st0) st0.sched
    ∧ (mk { st0 with crit := true }).strand? = some { st0 with crit := true }
    ∧ (((mk st0).core ((mk st0).coreOf st0)).sched st0.sched).critWait = [] := by
  refine ⟨rfl, rfl, by decide, by decide, by decide, rfl, by decide, by decide, by decide, by decide, rfl, by decide, rfl, rfl⟩

theorem test_w_UnprivilegedTraps : (mk st0).strand? = some st0 ∧ (mk st0).privileged st0 = false ∧ st0.CanTrap := ⟨rfl, by decide, st0_canTrap⟩

theorem test_w_SystemRegisters : (mkPriv st0).strand? = some st0 ∧ (mkPriv st0).privileged st0 = true
    ∧ granules ((mkPriv st0).part 1).pcfg ≠ 0 ∧ granules ((mkPriv st0).part 2).pcfg = 0 ∧ (sc 1 0x0200).getS 1 = BitVec.ofNat 64 0x0200
    ∧ 2 ^ 16 ≤ ((sc 1 0x10000).getS 1).toNat
    ∧ ((sc 1 0x0012).getS 1).toNat ∉ [0x10, 0x11, 0x100, 0x101, 0x102, 0x103, 0x104, 0x105, 0x200, 0x201, 0x202, 0x310] ∧ st0.CanTrap
    ∧ st0.replica = 0 ∧ (cfind (mkPriv st0).parts ((mkPriv st0).launchOf st0).part).isSome = true
    ∧ (600 ≤ ((sc 2 600).getS 2).toNat ∧ ((sc 2 3600).getS 2).toNat ≤ 3600) ∧ ((sc 2 15).getS 2).toNat < 16
    ∧ ((sc 2 599).getS 2).toNat < 600 ∧ 3600 < ((sc 2 3601).getS 2).toNat ∧ 16 ≤ ((sc 2 16).getS 2).toNat := by
  refine ⟨rfl, by decide, by decide, by decide, by decide, by decide, by decide, st0_canTrap, ?_⟩
  decide

/-- A strand that waits for a halt, or for the exchange that it asked for. -/
def waiting : Strand := { st0 with wait := .halt }

/-- Core 255, the last of partition 1, may be halted, and is where a strand has waited for it; core 256 may not, nor a core number of 2^11. -/
theorem test_w_HaltResults : (mkPriv st0).strand? = some st0 ∧ (mkPriv st0).privileged st0 = true ∧ st0.replica = 0
    ∧ (255 < 2 ^ 11 ∧ ((mkPriv st0).part 0).ptarget ≠ 0 ∧ granules ((mkPriv st0).part 1).pcfg ≠ 0 ∧ bitAt (granules ((mkPriv st0).part 1).pcfg) (255 / 128) = true)
    ∧ (∀ e ∈ (mkPriv st0).strands, e.2.crit = false ∧ (mkPriv st0).finishing e.1 e.2 = false)
    ∧ bitAt (granules ((mkPriv st0).part 1).pcfg) (256 / 128) = false ∧ ¬ 2 ^ 11 < 2 ^ 11
    ∧ st0.wait ≠ .halt ∧ ((mkPriv st0).strands.map Prod.fst).Nodup ∧ st0.CanTrap
    ∧ (let h : State := { mkPriv waiting with cores := [(255, { Core.idle with halted := true })] }
      h.strand? = some waiting ∧ h.privileged waiting = true ∧ (h.core 255).halted = true ∧ (h.core 255).haltAsked = none ∧ waiting.wait = .halt) := by
  refine ⟨rfl, by decide, rfl, by decide, by decide, by decide, by decide, by decide, by decide, st0_canTrap, rfl, by decide, rfl, rfl, rfl⟩

theorem test_w_ContextExchange : (mkPriv st0).strand? = some st0 ∧ (mkPriv st0).privileged st0 = true ∧ st0.replica = 0 ∧ st0.run = .running
    ∧ ((mkPriv st0).part 0).ptarget ≠ 0 ∧ (∃ x, cfind (mkPriv st0).parts 1 = some x ∧ granules x.pcfg ≠ 0 ∧ x.requests = [])
    ∧ (∀ e ∈ (mkPriv st0).strands, e.2.crit = false ∧ (mkPriv st0).finishing e.1 e.2 = false) ∧ (∀ e ∈ (mkPriv st0).teams, e.2.xfers = [])
    ∧ granules ((mkPriv st0).part 2).pcfg = 0 ∧ st0.CanTrap ∧ st0.wait ≠ .halt ∧ ((mkPriv st0).strands.map Prod.fst).Nodup
    ∧ (mkPriv waiting).strand? = some waiting ∧ waiting.wait = .halt ∧ (∀ e ∈ (mkPriv waiting).parts, (mkPriv waiting).cur ∉ e.2.requests) := by
  refine ⟨rfl, by decide, rfl, rfl, by decide, ⟨_, rfl, by decide, rfl⟩, by decide, by decide, by decide, st0_canTrap, by decide, by decide, rfl, rfl,
    by decide⟩

theorem test_w_TranslationInvalidation : let st := (sc 1 65535).setS 2 0xFFFFFFFFFFFFFFFF
    (mkPriv st).strand? = some st ∧ (mkPriv st).privileged st = true ∧ st.replica = 0 ∧ (st.getS 1).toNat < 2 ^ 16
    ∧ st.getS 2 = 0xFFFFFFFFFFFFFFFF ∧ 2 ^ 16 ≤ ((sc 1 65536).getS 1).toNat := by
  refine ⟨rfl, by decide, by decide, by decide, by decide, by decide⟩

/-! ### The spec's worked examples, and small cases counted by hand from its rules -/

/-- The strand after an instruction. -/
def aft (i : Instr) (st : Strand) : Strand :=
  match exec i (mk st) with
  | .next t => t.strand?.getD st0
  | _ => st0

/-- R82: DIV of −7 by 2 gives −3 and REM −1; DIVN of 7 by 0 gives 2^64 − 1. -/
theorem test_division : (aft (.div 3 1 2) ((sc 1 (-7)).setS 2 2)).getS 3 = -3 ∧ (aft (.rem 3 1 2) ((sc 1 (-7)).setS 2 2)).getS 3 = -1
    ∧ (aft (.divn 3 1 2) (sc 1 7)).getS 3 = 0xFFFFFFFFFFFFFFFF := by decide +kernel
/-- R83: LI 0x0123 and three LIH; LI 0 and two LIH. -/
theorem test_constants : (aft (.lih 1 0xCDEF) (aft (.lih 1 0x89AB) (aft (.lih 1 0x4567) (aft (.li 1 0x0123) st0)))).getS 1 = 0x0123456789ABCDEF
    ∧ (aft (.lih 1 0x1234) (aft (.lih 1 0x8000) (aft (.li 1 0) st0))).getS 1 = 0x80001234 ∧ (aft (.li 1 0x8000) st0).getS 1 = 0xFFFFFFFFFFFF8000 := by
  decide +kernel
/-- R81: sums wrap, the high half of a signed and an unsigned product, shifts by the low six bits, signed and unsigned comparison. -/
theorem test_scalar : (aft (.add 3 1 2) ((sc 1 0xFFFFFFFFFFFFFFFF).setS 2 2)).getS 3 = 1 ∧ (aft (.sub 3 0 1) (sc 1 1)).getS 3 = 0xFFFFFFFFFFFFFFFF
    ∧ (aft (.mulh 3 1 2) ((sc 1 (-2)).setS 2 3)).getS 3 = 0xFFFFFFFFFFFFFFFF ∧ (aft (.mulhn 3 1 2) ((sc 1 (-2)).setS 2 3)).getS 3 = 2
    ∧ (aft (.sra 3 1 2) ((sc 1 (-8)).setS 2 65)).getS 3 = -4 ∧ (aft (.shr 3 1 2) ((sc 1 (-8)).setS 2 63)).getS 3 = 1
    ∧ (aft (.slt 3 1 2) ((sc 1 (-1)).setS 2 1)).getS 3 = 1 ∧ (aft (.sltn 3 1 2) ((sc 1 (-1)).setS 2 1)).getS 3 = 0
    ∧ (aft (.clz 3 1) (sc 1 1)).getS 3 = 63 ∧ (aft (.popc 3 1) (sc 1 0xF0)).getS 3 = 4 ∧ (aft (.addi 3 1 0xFF) (sc 1 5)).getS 3 = 4
    ∧ (aft (.add 0 1 1) (sc 1 5)).getS 0 = 0 := by decide +kernel
/-- R87: with p1 = 0x00003FFF, PPOPC gives 14, PFFS 0 and PNOT 0xFFFFC000. -/
theorem test_predicates : (aft (.ppopc 3 1) (st0.setP 1 0x3FFF)).getS 3 = 14 ∧ (aft (.pffs 3 1) (st0.setP 1 0x3FFF)).getS 3 = 0
    ∧ (aft (.pnot 2 1) (st0.setP 1 0x3FFF)).getP 2 = 0xFFFFC000 := by decide +kernel
/-- R62: `MODE bf16, rtz, !p3, sat` is 0x126A; with %em 0x00FF00FF and p3 0x0F0F0F0F lanes 4–7 and 20–23 are active. -/
theorem test_mode : (decodeWord 0x3000126A).toOption = some (.mode 0x126A)
    ∧ (aft (.mode 0x126A) ((st0.setP 3 0x0F0F0F0F).setEm 0x00FF00FF)).active = 0x00F000F0
    ∧ (aft (.mode 0x126A) st0).ty = .bf16 := by decide +kernel
/-- R73: a VDIV at 0x240 of a kernel with TRAPEN 0b00010 divides lanes 3 and 9 by zero: the destination is written, DZ is set, %trapcause is
0x8000000000020005, %trappc 0x240 and %epc 0x244. -/
theorem test_division_by_zero_traps :
    let st : Strand := { ((st0.setMode 8).setV 1 (splat .f32 0x3F800000)).setV 2 { splat .f32 0x40000000 with lanes := ((splat .f32 0x40000000).lanes.set 3 0).set 9 0 } with pc := 0x240 }
    let s : State := { mk st with launches := [(1, { la0 with header := { hdr with trapen := 2 } })] }
    let y := (match exec (.vdiv 3 1 2) s with | .next t => t.strand?.getD st0 | _ => st0)
    (y.getV 3).lane 3 = 0x7F800000 ∧ (y.getV 3).lane 0 = 0x3F000000 ∧ y.flags = 2 ∧ y.trapcause = 0x8000000000020005 ∧ y.trappc = 0x240
      ∧ y.epc = 0x244 ∧ y.pc = 0x8000 := by decide +kernel
/-- A trap's return: ERET resumes at %epc and clears ACTIVE alone. -/
theorem test_eret : (aft .eret { st0 with trapcause := 0x8000000000020005, epc := 0x244 }).pc = 0x244
    ∧ (aft .eret { st0 with trapcause := 0x8000000000020005, epc := 0x244 }).trapcause = 0x0000000000020005 := by decide +kernel
/-- R75, R76: a branch back by one word, a link, a branch not taken. -/
theorem test_control : (aft (.br 0xFFFFFF) { st0 with pc := 8 }).pc = 4 ∧ (aft (.call 4) { st0 with pc := 8 }).pc = 24
    ∧ (aft (.call 4) { st0 with pc := 8 }).getS 63 = 12 ∧ (aft (.brnz 1 4) { st0 with pc := 8 }).pc = 12 ∧ (aft (.brz 1 4) { st0 with pc := 8 }).pc = 24 := by
  decide +kernel

/-- The registers of chapter 6's worked example. -/
def wx (m : Half) : Strand :=
  ((st0.setMode m).setV 0 { tag := .f32, lanes := [0x3F808000, 0x3F818000, 0x40490FDB] ++ List.replicate 29 0 }).setV 1
    { tag := .f32, lanes := 0x7F7FFFFF :: List.replicate 31 0 }
/-- Its VPACK under RNE and RUP, and the VUNPK of the result. -/
theorem test_pack : let y := aft (.vpack 4 0 1) (wx 0x000A)
    (y.getV 4).lane 0 = 0x3F823F80 ∧ (y.getV 4).lane 1 = 0x00004049 ∧ (y.getV 4).lane 16 = 0x00007F80 ∧ y.flags = 0x14 ∧ (y.getV 4).tag = .bf16 := by
  decide +kernel
theorem test_pack_up : let y := aft (.vpack 4 0 1) (wx 0x060A)
    y.mode = 0x060A ∧ (y.getV 4).lane 0 = 0x3F823F81 ∧ (y.getV 4).lane 1 = 0x0000404A ∧ (y.getV 4).lane 16 = 0x00007F80 ∧ y.flags = 0x14 := by decide +kernel
theorem test_unpack : let x := (aft (.vpack 4 0 1) (wx 0x000A)).setMode 8
    let y := aft (.vunpk 5 4 0) x
    (y.getV 5).lane 0 = 0x3F800000 ∧ (y.getV 5).lane 1 = 0x3F820000 ∧ (y.getV 5).lane 2 = 0x40490000 ∧ (y.getV 5).lane 3 = 0 ∧ y.flags = 0x14
      ∧ ((aft (.vunpk 6 4 1) x).getV 6).lane 0 = 0x7F800000 := by decide +kernel
/-- Chapter 2's worked example: x = j − 16 quantised: planes 0 and 7, the scale 0x3E02. -/
theorem test_quantise : let x := (st0.setMode 0x17).setV 1 { tag := .f32, lanes :=
      [0xC1800000, 0xC1700000, 0xC1600000, 0xC1500000, 0xC1400000, 0xC1300000, 0xC1200000, 0xC1100000, 0xC1000000, 0xC0E00000, 0xC0C00000, 0xC0A00000,
       0xC0800000, 0xC0400000, 0xC0000000, 0xBF800000, 0, 0x3F800000, 0x40000000, 0x40400000, 0x40800000, 0x40A00000, 0x40C00000, 0x40E00000, 0x41000000,
       0x41100000, 0x41200000, 0x41300000, 0x41400000, 0x41500000, 0x41600000, 0x41700000] }
    let y := aft (.vcvth 2 1 5) x
    (y.getV 2).lane 0 = 0x0000FFFF ∧ (y.getV 2).lane 7 = 0x1FE00FF0 ∧ (y.getV 2).lane 8 = 0 ∧ y.getS 5 = 0x3E02 ∧ (y.getV 2).tag = .pl false 8 := by
  decide +kernel
/-- R105: the lane-mask instructions under the mask 0xF0, and the reductions of R106 with no lane active. -/
theorem test_lanes : ((aft (.vprefix 2 1) ((st0.setP 1 0xFF).setEm 0xF0)).getV 2).lane 6 = 2 ∧ ((aft (.vmatch 2 1) ((vst 1 .i32).setEm 0xF0)).getV 2).lane 6 = 0xF0
    ∧ (aft (.vballot 2 1) (((vst 1 .i32).setP 2 0xFFFF0000).setEm 0xF0)).getP 2 = 0xFFFF00F0 ∧ (aft (.vredadd 3 1) ((vst 1 .i32).setEm 0)).getS 3 = 0
    ∧ (aft (.vredmin 3 1) ((vst 8 .f32).setEm 0)).getS 3 = 0x7F800000 ∧ (aft (.vredadd 3 2) (vst 1 .i32)).getS 3 = 64 := by decide +kernel
/-- R113: a stored doubleword is read back a byte at a time, the lowest byte first. -/
theorem test_byte_order : let s : State := { mk ((sc 1 0x100).setS 2 0x1122334455667788) with mem := writeBytes [] 0x200100 (leBytes 8 0x1122334455667788) }
    (match exec (.ldb 3 1 0 1) s with | .next t => (t.strand?.getD st0).getS 3 | _ => 0) = 0x77 := by decide +kernel

/-- v1, v2 and v15 carry F32 and so does the mode; 16 registers are declared. -/
def vf : Strand := (vst 0x0008 .f32).setV 15 (splat .f32 3)
/-- The same of I32. -/
def vi : Strand := (vst 0x0001 .i32).setV 15 (splat .i32 3)

theorem test_w_VectorArithmetic : (mk vf).strand? = some vf ∧ 15 < 8 * ((mk vf).headerOf vf).vregs
    ∧ (∀ op ∈ [VOp.add, .sub, .mul, .mad, .min, .max, .abs, .neg, .div, .rcp, .rsq, .sqrt, .exp2, .log2, .rnd], op.accepts vf.ty = true)
    ∧ VOp.mulh.accepts vi.ty = true ∧ (vf.getV 1).tag = vf.ty ∧ (vf.getV 2).tag = vf.ty ∧ (vf.getV 15).tag = vf.ty ∧ (vi.getV 1).tag = vi.ty
    ∧ (∀ fl, (mk vf).Unmasked vf fl) ∧ vf.CanTrap ∧ 8 * ((mk vf).headerOf vf).vregs ≤ 16
    ∧ (∀ op ∈ [VOp.add, .sub, .mul, .mad, .min, .max, .div, .mulh], op.accepts st0.ty = false) ∧ (vf.getV 3).tag ≠ vf.ty := by
  refine ⟨rfl, by decide, by decide, by decide, by decide, by decide, by decide, by decide, fun fl => ?_, ⟨by decide, by decide⟩, by decide,
    by decide, by decide⟩
  change fl &&& 0 = 0
  simp

theorem test_w_VectorElementwise : isInt .i8 = true ∧ isFlt .bf16 = true ∧ laneOn 0x80000000 31 = true ∧ laneOn 0x80000000 0 = false
    ∧ 3 < elems .i8 := by decide

theorem test_w_ElementValues : isInt .n8 = true ∧ 255 < 2 ^ elemBits .n8 ∧ isInt .i32 = true ∧ 4294967295 < 2 ^ elemBits .i32
    ∧ (FV.nan true).isNan = true ∧ fmtE4M3 ∈ [fmtF32, fmtF16, fmtBF16, fmtE4M3, fmtE5M2] := by
  refine ⟨by decide, by decide, by decide, by decide, rfl, by simp⟩

theorem test_w_VectorMoves : (mk vi).strand? = some vi ∧ 15 < 8 * ((mk vi).headerOf vi).vregs ∧ (vi.getV 1).tag = vi.ty ∧ (vi.getV 3).tag = .raw
    ∧ (vi.getV 1).tag ∈ [Tag.i32, .n32, .raw] ∧ ((vi.getV 15).tag = vi.ty ∨ (vi.getV 15).tag = .raw) ∧ vi.ty ∈ [Tag.i32, .n32, .raw]
    ∧ isInt vi.ty = true ∧ st0.ty = .raw ∧ (st0.getV 15).tag = .raw := by
  refine ⟨rfl, ?_⟩
  decide

theorem test_w_VectorCompares : (mk vf).strand? = some vf ∧ 15 < 8 * ((mk vf).headerOf vf).vregs ∧ vf.ty ∈ [Tag.i32, .n32, .f32]
    ∧ (vf.getV 15).tag = vf.ty ∧ vi.ty ∈ [Tag.i32, .n32, .f32] ∧ (vi.getV 15).tag = vi.ty ∧ vi.ty ≠ .f32 := by
  refine ⟨rfl, ?_⟩
  decide

theorem test_w_VectorReductions : (mk vi).strand? = some vi ∧ 15 < 8 * ((mk vi).headerOf vi).vregs ∧ (vi.getV 15).tag = vi.ty ∧ isInt vi.ty = true
    ∧ modeSat vi.mode = false ∧ activeElems vi.ty vi.active (vi.getV 15) ≠ [] ∧ vi.ty ∈ [Tag.i32, .n32, .f32] ∧ isFlt vf.ty = true
    ∧ (vf.getV 15).tag = vf.ty := by
  refine ⟨rfl, ?_⟩
  decide

/-- A source of F32 for a conversion to a quantised type of 8 planes, and one of I8. -/
def vq : Strand := (vst 0x0017 .f32).setV 3 (splat .i8 7)

theorem test_w_VectorConversions : (mk vq).strand? = some vq ∧ 15 < 8 * ((mk vq).headerOf vq).vregs ∧ vf.ty ≠ .raw ∧ (vf.getV 1).tag ≠ .raw
    ∧ cvtPair .i32 .f32 = true ∧ packPair .f32 .f16 = true ∧ unpkPair .i8 .f32 3 = true ∧ unpkPair (.pl false 8) .f32 3 = true
    ∧ isFlt (vq.getV 1).tag = true ∧ vq.ty = .pl false 8 := by
  refine ⟨rfl, ?_⟩
  decide

theorem test_w_VectorFrame : ∃ t st', (mk vi).strand? = some vi ∧ exec (.vadd 15 1 2) (mk vi) = .next t ∧ t.strand? = some st'
    ∧ st'.pc = vi.pc + 4 ∧ vi.trapvec.toNat ≠ vi.pc + 4 ∧ vi.CanTrap :=
  ⟨_, _, rfl, rfl, rfl, rfl, by decide, by decide, by decide⟩

/-- The agent of the strand. -/
def ag : Agent :=
  { core := 0, launch := 1, asid := 7, secure := false, dropped := []
    event := { cls := .ok, addr := 0, team := 0, strand := 0, hub := false, pc := 0, unit := 0, cause := 0 } }
/-- The last doubleword of the page. -/
def top : DWord := 0x1FFFF8

theorem mk_cold (st : Strand) : (mk st).Cold := ⟨fun c h => (by cases h), fun k h => by
  obtain rfl : k = (0, cl0) := by simpa [mk] using h
  rfl⟩
theorem mk_uncached (st : Strand) (line : Nat) : (mk st).Uncached line := ⟨fun c h => (by cases h), fun k h e he => by
  obtain rfl : k = (0, cl0) := by simpa [mk] using h
  cases he⟩

theorem test_w_ScalarLoads : (mk (sc 1 top)).Plain (sc 1 top) ∧ (mk (sc 1 top)).agentOf (sc 1 top) = ag
    ∧ (∀ n ∈ [2, 4, 8], (0x1FFFF9 : DWord).toNat % n ≠ 0) ∧ st0.CanTrap
    ∧ (∀ n ∈ [1, 2, 4, 8], top.toNat % n = 0) ∧ (mk (sc 1 top)).tlbMiss ag top.toNat = false
    ∧ (∀ n ∈ [1, 2, 4, 8], (mk (sc 1 top)).loadFailure ag (sc 1 top) [top] lane0 n 1 = none)
    ∧ (mk st0).check ag true false 0x1FFFF8 = .ok 0x3FFFF8 true true ∧ 0x3FFFF8 % 128 = 0x1FFFF8 % 128 ∧ st0.buffer = []
    ∧ (mk st0).l1Line 0 7 (0x1FFFF8 / 128) = none ∧ (mk st0).Uncached (0x3FFFF8 / 128)
    ∧ (∀ k, k < 8 → (mk st0).poisoned (0x3FFFF8 + k) = false) ∧ (mk st0).Cold := by
  refine ⟨mk_plain _ rfl rfl rfl rfl, rfl, by decide, st0_canTrap, by decide, by decide, by decide, by decide, by decide, rfl, rfl,
    mk_uncached _ _, by decide, mk_cold _⟩

theorem test_w_ScalarStores : (mk (sc 1 top)).Plain (sc 1 top) ∧ (mk (sc 1 top)).agentOf (sc 1 top) = ag
    ∧ (∀ n ∈ [2, 4, 8], (0x1FFFF9 : DWord).toNat % n ≠ 0) ∧ (mk (sc 1 top)).tlbMiss ag top.toNat = false
    ∧ (mk (sc 1 top)).storeFailure ag [top] lane0 = none ∧ (mk (sc 1 top)).check ag false true 0x1FFFF8 = .ok 0x3FFFF8 true true
    ∧ (mk (sc 1 top)).Calm ag 0x1FFFF8 0x3FFFF8 :=
  ⟨mk_plain _ rfl rfl rfl rfl, rfl, by decide, by decide, by decide, by decide,
   { sameOffset := by decide, noUpdate := fun c h => (by cases h), oneAlias := fun c h => (by cases h), mine := fun l h => (by cases h) }⟩

/-- Indices 0 in v14, the mode I32: every lane of an access names the one address. -/
def vx : Strand := (sc 1 0).setMode 0x0001

theorem test_w_VectorAccesses : (mk vx).Plain vx ∧ 15 < 8 * ((mk vx).headerOf vx).vregs ∧ (vx.getV 14).tag ∈ [Tag.i32, .n32, .raw]
    ∧ (vx.getV 15).tag = .raw
    ∧ (let gath : List DWord := (vx.getV 14).lanes.map (fun x => vx.getS 1 + x.zeroExtend 64)
      (∀ j ∈ lanesOf vx.active, (gath.getD j 0).toNat % 4 = 0 ∧ (mk vx).tlbMiss ag (gath.getD j 0).toNat = false)
      ∧ (mk vx).loadFailure ag vx gath vx.active 4 2 = none ∧ (mk vx).storeFailure ag gath vx.active = none)
    ∧ (let line : List DWord := (List.range 32).map (fun j => vx.getS 1 + BitVec.ofNat 64 (4 * j))
      (∀ j ∈ lanesOf vx.active, (line.getD j 0).toNat % 4 = 0 ∧ (mk vx).tlbMiss ag (line.getD j 0).toNat = false)
      ∧ (mk vx).loadFailure ag vx line vx.active 4 2 = none ∧ (mk vx).storeFailure ag line vx.active = none
      ∧ ∀ i ∈ lanesOf vx.active, (mk vx).check ag true false (line.getD i 0).toNat 4 = .ok (0x200000 + 4 * i) true true
        ∧ (0x200000 + 4 * i) / 128 = (0x200000 + 4 * 31) / 128)
    ∧ (0x200000 + 4 * 31) % 128 = 4 * 31 % 128 ∧ (∀ k, k < 4 → (mk vx).poisoned (0x200000 + 4 * 31 + k) = false) ∧ (mk vx).Cold := by
  refine ⟨mk_plain _ rfl rfl rfl rfl, by decide, by decide, by decide, by decide, by decide, by decide, by decide, mk_cold _⟩

/-- Lane 31 alone active. -/
def v31 (st : Strand) : Strand := st.setEm 0x80000000

theorem test_w_ScratchpadAccesses : (mk (v31 vx)).Plain (v31 vx) ∧ cfind (mk (v31 vx)).teams (v31 vx).team = some tm0
    ∧ 15 < 8 * ((mk vx).headerOf vx).vregs ∧ (vx.getV 14).tag ∈ [Tag.i32, .n32, .raw] ∧ (vx.getV 15).tag = .raw
    ∧ lanesOf (v31 vx).active = [31]
    ∧ (let gath : List DWord := ((sc 1 4092).getV 14).lanes.map (fun x => (sc 1 4092).getS 1 + x.zeroExtend 64)
      (gath.getD 31 0).toNat % 4 = 0 ∧ (gath.getD 31 0).toNat < 2 ^ 17 ∧ (gath.getD 31 0).toNat < ((mk vx).headerOf vx).spbytes)
    ∧ tm0.sp.work.poison = [] := by
  refine ⟨mk_plain _ rfl rfl rfl rfl, rfl, ?_⟩
  decide

theorem test_w_OperandLogTakesMisses : (mk st0).strand? = some st0 ∧ (0 : DWord).toNat % 8 = 0
    ∧ State.tlbMiss { mk st0 with clusters := [] } ag 0 = true ∧ (st0.setLog [entry, entry, entry]).log.length < 4
    ∧ (st0.setLog [entry, entry, entry]).log ≠ [] ∧ 4 ≤ (st0.setLog [entry, entry, entry, entry]).log.length := by
  refine ⟨rfl, ?_⟩
  decide

/-- Lane 31 active, v14 with index 0, v15 with the operand, a mode type. -/
def va (m : Half) (t : Tag) : Strand := (((sc 1 0).setMode m).setV 15 (splat t 5)).setEm 0x80000000

theorem test_w_AtomicResults : (∀ x ∈ [va 1 .i32, va 8 .f32], (mk x).agentOf x = ag ∧ ((mk x).headerOf x).trapen = 0 ∧ x.peerDone = []
      ∧ lanesOf x.active = [31] ∧ 14 + 1 < 8 * ((mk x).headerOf x).vregs ∧ (x.getV 14).lanes.length = 32 ∧ (x.getV 15).lanes.length = 32
      ∧ (x.getV 14).tag ∈ [Tag.i32, .n32, .raw] ∧ (x.getV 15).tag = x.ty ∧ (mk x).tlbMiss ag 0 = false
      ∧ (mk x).checkAtomic ag 0 = .ok 0x200000 true true ∧ (mk x).poisoned 0x200000 = false ∧ (x.getV 13).lanes.length = 32
      ∧ (x.getV 13).tag = .raw ∧ tm0.sp.work.poison = [] ∧ (4092 : Nat) < ((mk x).headerOf x).spbytes)
    ∧ (mk (va 1 .i32)).Plain (va 1 .i32) ∧ (mk (va 8 .f32)).Plain (va 8 .f32) ∧ (mk (va 1 .i32)).Uncached (0x200000 / 128)
    ∧ (mk (va 1 .i32)).RoomyL2 0x200000
    ∧ cfind (mk (va 1 .i32)).teams 1 = some tm0 := by
  refine ⟨by decide, mk_plain _ rfl rfl rfl rfl, mk_plain _ rfl rfl rfl rfl, mk_uncached _ _, .inr (.inr (by decide)), rfl⟩

theorem test_w_ReductionResults : (∀ x ∈ [va 1 .i32, va 8 .f32], (mk x).agentOf x = ag ∧ lanesOf x.active = [31]
      ∧ 14 + 1 < 8 * ((mk x).headerOf x).vregs ∧ (x.getV 14).lanes.length = 32 ∧ (x.getV 15).lanes.length = 32
      ∧ (x.getV 14).tag ∈ [Tag.i32, .n32, .raw] ∧ (x.getV 15).tag = x.ty ∧ (mk x).tlbMiss ag 0 = false
      ∧ (mk x).checkAtomic ag 0 = .ok 0x200000 true true)
    ∧ (mk (va 1 .i32)).Plain (va 1 .i32) ∧ (mk (va 8 .f32)).Plain (va 8 .f32) ∧ (mk (va 1 .i32)).Cold := by
  refine ⟨by decide, mk_plain _ rfl rfl rfl rfl, mk_plain _ rfl rfl rfl rfl, mk_cold _⟩

/-- The machine with two bytes of a word of the last line of the page's first 4 KiB held DIRTY by core 0. -/
def dirtyLine : L1Line :=
  { asid := 7, vline := 31, pline := 0x401F, peer := none, readable := true, writable := true, way := 0, rrip := 0
    words := [(31, { st := .dirty 0x9, data := 0xAABBCCDD, poison := false, owner := 1, report := none })] }
def dirtyState : State := { mk st0 with cores := [(0, { Core.idle with l1 := [dirtyLine] })] }
theorem test_w_OrderingResults_release : dirtyState.Plain st0 ∧ dirtyState.Acked st0 ∧ (dirtyState.core 0).l1 = [dirtyLine] ∧ dirtyLine.peer = none
    ∧ hasUpdate dirtyLine = false ∧ (dirtyLine.words.map Prod.fst).Nodup ∧ (∀ e ∈ dirtyLine.words, e.1 < 32)
    ∧ (0x9 : BitVec 4).getLsbD 3 = true ∧ (0x9 : BitVec 4).getLsbD 0 = true :=
  ⟨⟨rfl, by decide, rfl, rfl, rfl⟩, by unfold State.Acked; decide, rfl, rfl, rfl, by decide, by decide, by decide, by decide⟩

theorem test_w_OrderingResults : (mk st0).Plain st0 ∧ (3 : Nat) < 4 ∧ (0x1FFFFC : DWord).toNat % 8 ≠ 0 ∧ st0.CanTrap ∧ top.toNat % 8 = 0
    ∧ (mk st0).tlbMiss ag top.toNat = false ∧ 0x3FFFF8 % 128 = top.toNat % 128 ∧ (mk st0).Cold ∧ (mk st0).poisoned 0x3FFFF8 = false
    ∧ (mk st0).check ag true false top.toNat = .ok 0x3FFFF8 true true ∧ (mk st0).check ag false true top.toNat = .ok 0x3FFFF8 true true
    ∧ Scope.die ∉ [Scope.strand, .team, .cluster] := by
  refine ⟨mk_plain _ rfl rfl rfl rfl, by decide, by decide, st0_canTrap, by decide, by decide, by decide, mk_cold _, ?_⟩
  decide

theorem sc_getS (v : DWord) : (sc 1 v).getS 1 = v := by
  rw [sc, Strand.getS_setS]; simp

/-- Two strands of the team: the executing one and another. -/
def two (st : Strand) : State := { mk st with strands := [(1, st), (2, { st0 with idx := 1 })] }
/-- A strand that has arrived at the first phase of barrier 1 of a level. -/
def arrived (lv : BarLevel) : Strand := { st0 with arrivals := [(barKey lv 1, 1)] }

/-- Barrier 1 is the last declared, 2 the first that is not. One strand is the last to arrive of a team, gang and range; of two, the first is not. -/
theorem test_w_BarrierResults : (∀ lv ∈ [BarLevel.team, .gang, .range, .launch],
      barCount ((mk st0).headerOf st0) lv = 2 ∧ cfind st0.arrivals (barKey lv 1) = none ∧ (mk st0).phaseDone st0 lv 1 = true
      ∧ cfind st0.arrivals (256 + barKey lv 1) = none ∧ (mk (arrived lv)).phaseDone (arrived lv) lv 1 = false
      ∧ (mk st0).barTotal st0 lv ((mk st0).barrier st0 lv 1) ≤ 1)
    ∧ (∀ lv ∈ [BarLevel.team, .gang, .range], ¬ (two st0).barTotal st0 lv ((two st0).barrier st0 lv 1)
      ≤ 0 + 1 + (two st0).barGone st0 lv 1 ((two st0).barrier st0 lv 1) + 0)
    ∧ (mk st0).Plain st0 ∧ (mk st0).Acked st0 ∧ (∀ lv, (mk (arrived lv)).Plain (arrived lv)) ∧ st0.run = .running ∧ st0.replica = 0
    ∧ (cfind (mk st0).teams st0.team).isSome ∧ (cfind (mk st0).gangs ((mk st0).team st0.team).gang).isSome
    ∧ (cfind (mk st0).launches ((mk st0).team st0.team).launch).isSome ∧ st0.CanTrap
    ∧ ((mk st0).strands.map Prod.fst).Nodup ∧ ((two st0).strands.map Prod.fst).Nodup := by
  refine ⟨by decide, by decide, mk_plain _ rfl rfl rfl rfl, rfl, fun lv => mk_plain _ rfl rfl rfl rfl, rfl, rfl, by decide, by decide, by decide,
    st0_canTrap, by decide, by decide⟩

/-- A knit of generation 2 with every place but the last taken. -/
def kn : Knit := { gen := 2, used := true, part := 0, secure := false, members := (List.range 31).map (fun i => (i, 9)) }
/-- The machine with that knit as entry 5 of its cluster, a full one as entry 6, one that is not used as 7, and the team's own knit 3 of generation
1 with a second member or without. -/
def kj (v : DWord) (both : Bool) : State :=
  { mk (sc 1 v) with clusters := [(0, { cl0 with knits := [(3, { kn with gen := 1, members := (0, 1) :: if both then [(1, 9)] else [] }), (5, kn), (6, { kn with members := (31, 9) :: kn.members }), (7, { kn with used := false })] })] }

set_option maxRecDepth 4000 in
/-- A handle of no entry, one with a reserved bit, the team's own, those of the other knits. -/
theorem test_w_KnitResults : (∀ v b, (kj v b).Plain (sc 1 v) ∧ cfind (kj v b).teams (sc 1 v).team = some tm0 ∧ (sc 1 v).getS 1 = v
      ∧ (kj v b).Acked (sc 1 v) ∧ (kj v b).remoteLogged 1 (sc 1 v).team = false)
    ∧ ((cfind ((kj 0 true).cluster 0).knits 6).map (fun k => k.members.length) = some 32
      ∧ (cfind ((kj 0 true).cluster 0).knits 7).map (·.used) = some false)
    ∧ (let k := (kj 0x100007FFF true).cluster 7; (0x100007FFF / 2 ^ 15 % 2 ^ 17 = 0 ∧ 0x100007FFF / 2 ^ 12 % 8 = 7 ∧ cfind k.knits 0xFFF = none))
    ∧ (0x100008003 / 2 ^ 15 % 2 ^ 17 ≠ 0 ∧ (sc 1 0x100008003).CanTrap)
    ∧ (0x200000005 / 2 ^ 15 % 2 ^ 17 = 0 ∧ cfind ((kj 0x200000005 true).cluster 0).knits 5 = some kn ∧ kn.gen.toNat = 0x200000005 / 2 ^ 32
      ∧ tm0.knit ≠ 5 ∧ 0 = clusterOf tm0.core ∧ kn.used = true ∧ kn.part = la0.part ∧ kn.secure = la0.secure ∧ cfind kn.members 31 = none
      ∧ (∀ i, i < 31 → (cfind kn.members i).isSome) ∧ kn.members.length < 32)
    ∧ (tm0.knit = 3 ∧ tm0.knitCluster = 0 ∧ ∃ k, cfind ((kj 0x100000003 true).cluster 0).knits 3 = some k ∧ k.gen.toNat = 0x100000003 / 2 ^ 32)
    ∧ 1 < ((kj 0 true).knitOf 1).members.length ∧ ((kj 0 false).knitOf 1).members.length ≤ 1 ∧ (kj 0 true).launchOf (sc 1 0) = la0 := by
  refine ⟨fun v b => ⟨⟨rfl, rfl, rfl, rfl, rfl⟩, rfl, sc_getS v, rfl, rfl⟩, by decide, by decide, ⟨by decide, by decide, by decide⟩, by decide, ⟨rfl, rfl, _, rfl, by decide⟩,
    by decide, by decide, rfl⟩

theorem test_w_CircularBufferResults : (mk st0).Plain st0 ∧ ((mk st0).headerOf st0).cbufs = 2 ∧ st0.CanTrap ∧ cfind (mk st0).teams st0.team = some tm0
    ∧ cfind tm0.cbs 0 = some (ring true) ∧ cfind tm0.cbs 1 = some (ring false) ∧ (ring true).latched = true ∧ (ring false).latched = true
    ∧ (ring true).inbound = true ∧ (ring true).filled ≠ 0 ∧ (ring false).inbound = false ∧ (ring false).free ≠ 0 :=
  ⟨mk_plain _ rfl rfl rfl rfl, rfl, st0_canTrap, rfl, rfl, rfl, rfl, rfl, rfl, by decide, rfl, by decide⟩

/-- The machine with `n` elements in the gang's queue 0. -/
def gq (n : Nat) (st : Strand) : State :=
  { mk st with gangs := [(1, { gd0 with queues := [(0, { elems := List.replicate n { word := 7, poison := false }, pushers := [], poppers := [] })] })] }

/-- 63 elements and one lane, 33 and 32 lanes, 1 and 1, 31 and 32, 0 and 1. -/
theorem test_w_GangQueues : (∀ x ∈ [(63, one st0), (32, st0), (33, st0), (64, one st0), (1, one st0), (31, st0), (0, one st0)],
      (gq x.1 x.2).strand? = some x.2 ∧ (gq x.1 x.2).level x.2 = 0 ∧ (∃ g, cfind (gq x.1 x.2).gangs ((gq x.1 x.2).team x.2.team).gang = some g)
      ∧ cfind (gq x.1 x.2).launches ((gq x.1 x.2).team x.2.team).launch = some la0 ∧ ((gq x.1 x.2).gangQueue x.2 0).elems.length = x.1
      ∧ ((gq x.1 x.2).gangQueue x.2 0).pushers = [] ∧ ((gq x.1 x.2).gangQueue x.2 0).poppers = []
      ∧ ((gq x.1 x.2).gangQueue x.2 0).elems.all (fun e => !e.poison) = true
      ∧ (gq x.1 x.2).Acked x.2)
    ∧ la0.terminated = [] ∧ 15 < 8 * la0.header.vregs ∧ (lanesOf st0.active).length = 32 ∧ (lanesOf (one st0).active).length = 1 := by
  refine ⟨?_, by decide⟩
  intro x hx
  simp only [List.mem_cons, List.not_mem_nil, or_false] at hx
  obtain rfl | rfl | rfl | rfl | rfl | rfl | rfl := hx <;> exact ⟨rfl, by decide, ⟨_, rfl⟩, rfl, by decide, rfl, rfl, by decide, rfl⟩

/-- The machine with the bytes of a packet's first doublewords at address 0. -/
def pk (v : Nat) : State := { mk (sc 1 0) with mem := writeBytes [] 0x200000 (leBytes 2 v) }

set_option maxRecDepth 4000 in
set_option exponentiation.threshold 600 in
/-- A NOP packet (VALID, type 5), one without VALID, and an address that is not 64-aligned. -/
theorem test_w_LaunchAndSignal_launch : (∀ v ∈ [0x501, 0x500], (pk v).strand? = some (sc 1 0) ∧ (pk v).level (sc 1 0) = 0 ∧ (pk v).agentOf (sc 1 0) = ag
      ∧ (0 : DWord).toNat % 64 = 0 ∧ (pk v).tlbMiss ag 0 = false ∧ (∀ k, k < 16 → (pk v).check ag true false (4 * k) = .ok (0x200000 + 4 * k) true true)
      ∧ (∀ k, k < 64 → (pk v).poisoned (0x200000 + k) = false) ∧ (pk v).hub.tearing = [] ∧ (sc 1 0).copied = none
      ∧ (pk v).peersAcked ((pk v).team (sc 1 0).team).core = true)
    ∧ (pk 0x501).Cold ∧ (sc 1 1).CanTrap ∧ (sc 1 63).getS 1 = 63
    ∧ (let p : BitVec 512 := BitVec.ofNat 512 (leNat (readBytes (pk 0x501).mem 0x200000 64))
      (p.getLsbD 0 && !(p.getLsbD 1) && [1, 4, 5].contains (pktType p) && pktOk p) = true ∧ (pk 0x501).taskBreaks la0.queue p = false
      ∧ ((pk 0x501).hubDone 5).packetAsks 5 la0.queue p = none)
    ∧ (let p : BitVec 512 := BitVec.ofNat 512 (leNat (readBytes (pk 0x500).mem 0x200000 64))
      (p.getLsbD 0 && !(p.getLsbD 1) && [1, 4, 5].contains (pktType p) && pktOk p) = false)
    ∧ (pk 0x501).children 1 < 256 := by
  refine ⟨by decide, ⟨fun c h => (by cases h), fun k h => ?_⟩, ⟨by decide, by decide⟩, by decide, by decide, by decide, by decide⟩
  obtain rfl : k = (0, cl0) := by simpa [pk, mk] using h
  rfl

theorem test_w_LaunchAndSignal_signal : (mk (sc 1 top)).Plain (sc 1 top) ∧ (0x1FFFFC : DWord).toNat % 8 ≠ 0 ∧ (sc 1 0x1FFFFC).CanTrap ∧ top.toNat % 8 = 0
    ∧ (mk st0).tlbMiss ag top.toNat = false ∧ (mk st0).check ag false true top.toNat = .ok 0x3FFFF8 true true ∧ 0x3FFFF8 % 8 = 0
    ∧ (mk (sc 1 top)).Cold ∧ (mk (sc 1 top)).Acked (sc 1 top) ∧ (∀ k, k < 8 → (mk st0).poisoned (0x3FFFF8 + k) = false) := by
  refine ⟨mk_plain _ rfl rfl rfl rfl, by decide, ⟨by decide, by decide⟩, by decide, by decide, by decide, by decide, mk_cold _, rfl, by decide⟩

/-- Bytes of a number at an offset of the scratchpad's working plane, bank a. -/
def poke (c : Bytes) (off n v : Nat) : Bytes := writeBytes c off (leBytes n v)
/-- A transfer of the team. -/
def xf (z : XState) : Xfer :=
  { id := 1, desc := xdescOf (leBytes 64 (7 * 2 ^ 475 + 2 ^ 481)), state := z, beats := 0, done := 0, banks := [(0, true)], router := none, order := 0, pc := 0, strand := 1
    aborting := false, failAddr := 0, failIter := [], paused := false, peerLines := [], peerBad := [], fault := 0 }
/-- The machine with a valid descriptor at the scratchpad's last 64 bytes, a transfer 1, and s1 at the last 64 bytes. -/
def xs (v : DWord) (l : List Xfer) : State :=
  { mk (sc 1 v) with teams := [(1, { tm0 with xfers := l, nextXfer := 2, sp := { tm0.sp with a := { tm0.sp.a with bytes := poke [] 4032 64 (7 * 2 ^ 475 + 2 ^ 481) } } })] }

set_option maxRecDepth 4000 in
set_option exponentiation.threshold 600 in
theorem test_w_TransferInstructions : (∀ v l, (xs v l).Plain (sc 1 v) ∧ (sc 1 v).getS 1 = v ∧ (sc 1 v).copied = none ∧ (xs v l).Acked (sc 1 v)
      ∧ ∃ tm, cfind (xs v l).teams (sc 1 v).team = some tm)
    ∧ (4033 : DWord).toNat % 64 ≠ 0 ∧ (sc 1 4033).CanTrap ∧ (4032 : DWord).toNat % 64 = 0 ∧ (4032 : DWord).toNat < 2 ^ 17
    ∧ (4032 : DWord).toNat < ((xs 4032 []).headerOf (sc 1 4032)).spbytes ∧ ((xs 4032 []).team 1).sp.work.poison = []
    ∧ (xs 4032 []).xferCheck 1 false false ((xs 4032 []).readXdesc (sc 1 4032) 4032) = .ok
    ∧ (xs 4032 []).xferOf 1 ((xs 4032 []).team 1).nextXfer = none ∧ (xs 2 [xf .done]).xferOf 1 2 = none ∧ (xs 1 [xf .done]).xferOf 1 1 = some (xf .done) ∧ (xf .done).ended = true
    ∧ (xs 1 [xf .queued]).xferOf 1 1 = some (xf .queued) ∧ (xf .queued).ended = false := by
  refine ⟨fun v l => ⟨⟨rfl, rfl, rfl, rfl, rfl⟩, sc_getS v, rfl, rfl, _, rfl⟩, by decide, ⟨by decide, by decide⟩, by decide, by decide, by decide, rfl, by decide,
    rfl, rfl, rfl, rfl, rfl, rfl⟩

/-- Masks 3 (both segments), 4 and 0 in s1; a flip that waits. -/
theorem test_w_FlipResults : (∀ v ∈ [(3 : DWord), 4, 0], (mk (sc 1 v)).strand? = some (sc 1 v) ∧ (mk (sc 1 v)).level (sc 1 v) = 0
      ∧ (mk (sc 1 v)).resident (sc 1 v) = true ∧ (∀ e ∈ (mk (sc 1 v)).teams, e.2.xfers = []) ∧ (∀ e ∈ (mk (sc 1 v)).strands, e.2.flip = none)
      ∧ (∀ e ∈ (mk (sc 1 v)).strands, e.1 = (mk (sc 1 v)).cur))
    ∧ (∃ im, cfind la0.imems 0 = some im) ∧ ((sc 1 3).getS 1).toNat < 2 ^ gd0.segs.length ∧ (sc 1 3).getS 1 ≠ 0
    ∧ 2 ^ gd0.segs.length ≤ ((sc 1 4).getS 1).toNat ∧ (sc 1 4).CanTrap ∧ (sc 1 0).getS 1 = 0
    ∧ (∃ x, (two st0).strandAt 2 = some x ∧ 2 ≠ (two st0).cur ∧ x.run = .running ∧ x.team = st0.team ∧ (two st0).resident st0 = true
      ∧ (∀ e ∈ (two st0).strands, e.2.flip = none))
    ∧ (let w : Strand := { st0 with flip := some { op := 0, scope := .strand, mask := 0 }, wait := .flip }
      (mk w).strandAt 1 = some w ∧ (mk w).resident w = true ∧ (mk w).level w = 0 ∧ w.log = [] ∧ w.nodes = []) := by
  refine ⟨?_, ⟨_, rfl⟩, by decide, by decide, by decide, ⟨by decide, by decide⟩, by decide, ⟨_, rfl, by decide, rfl, rfl, by decide, by decide⟩,
    rfl, by decide, by decide, rfl, rfl⟩
  intro v hv
  simp only [List.mem_cons, List.not_mem_nil, or_false] at hv
  obtain rfl | rfl | rfl := hv <;> exact ⟨rfl, by decide, by decide, by decide, by decide, by decide⟩

/-- A header with a skein share. -/
def hdrT : Header := { hdr with skein := 1, strands := 1 }
/-- Two tile descriptors in the scratchpad: BF16 tiles of 128-byte rows in memory at 0 and 0x10000, of a step, or of the scratchpad. -/
def td (tag space base : Nat) : Nat := base + (if space = 1 then 128 else 256) * 2 ^ 128 + 1 * 2 ^ 224 + 128 * 2 ^ 236 + tag * 2 ^ 246 + space * 2 ^ 251
/-- Descriptors at 4064 (memory, BF16), 4032 (memory, BF16) and 4000 (scratchpad, RAW). -/
def descs : Bank :=
  { bytes := poke (poke (poke [] 4064 32 (td 0x0A 0 0x10000)) 4032 32 (td 0x0A 0 0)) 4000 32 (td 0 1 0), poison := [] }
/-- The machine for tiles, with the descriptors. -/
def mt (st : Strand) : State :=
  { mk st with launches := [(1, { la0 with header := hdrT })]
               teams := [(1, { tm0 with sp := { tm0.sp with a := descs } })] }
/-- Tiles 0 and 7 with tags, a mode, and s1, s2, s3 at the descriptors. -/
def ts (m : Half) (t0 t7 : Tag) : Strand :=
  (((((st0.setMode m).setS 1 4064).setS 2 4032).setS 3 4000).setT 0 { Tile.start with tag := t0 }).setT 7 { Tile.start with tag := t7 }

/-- The first descriptor. -/
def d1 : TileDesc := { space := 0, tag := .bf16, kbytes := 128, steps := 1, sinc := 0, spitch := 0, inc := 0, pitch := 256, sbase := 0, base := 0x10000 }

/-- Tiles, modes and tags of the witness below. -/
def TileTags : Prop :=
  ((mt (ts 8 .f32 .f32)).headerOf (ts 8 .f32 .f32)).tiles = 8 ∧ (ts 8 .f32 .f32).ty = .f32 ∧ ((ts 8 .f32 .f32).getT 7).tag = .f32
  ∧ ((ts 0 .raw .raw).getV 15).tag = .raw ∧ (ts 0 .raw .raw).ty = .raw ∧ ((ts 1 .i32 .i32).getT 7).tag = .i32 ∧ (ts 1 .i32 .i32).ty = .i32
  ∧ tcvtPair .f32 .bf16 = true ∧ ((ts 0x0A .f32 .f32).getT 7).tag = .f32 ∧ (ts 0x0A .f32 .f32).ty = .bf16
/-- Its scalars: row maps and descriptor addresses. -/
def TileScalars : Prop :=
  rowMapOf 0 = some .ident ∧ rowMapOf 0x1F02 = some (.bcast 31) ∧ rowMapOf 0x2002 = none ∧ rowMapOf 0x3F01 = some (.shift (-1))
  ∧ (ts 8 .f32 .f32).getS 1 = 4064 ∧ (ts 8 .f32 .f32).getS 2 = 4032 ∧ (4063 : DWord).toNat % 32 ≠ 0 ∧ (sc 1 4063).CanTrap
theorem tags_descs : TileTags ∧ TileScalars := ⟨by unfold TileTags; decide, by
  unfold TileScalars Strand.CanTrap
  decide⟩

/-- Of BF16 and F32 tiles, in the modes F32, BF16 and RAW: the tags and descriptors that each instruction asks for. -/
theorem test_w_TileAppends : (∀ m x y, (mt (ts m x y)).strand? = some (ts m x y)) ∧ (mt (ts 8 .f32 .f32)).quota (ts 8 .f32 .f32) = 8
    ∧ TileTags ∧ TileScalars
    ∧ (∃ rs, (mt (ts 8 .f32 .bf16)).tldDesc (ts 8 .f32 .bf16) 4064 = .ok (d1, rs))
    ∧ (∃ rs, (mt (ts 8 .f32 .bf16)).descWith (ts 8 .f32 .bf16) true 4064 (fun y => let l := tmmaLen y y.kbytes; descRanges y 128 y.steps l.1 l.2)
      = .ok (d1, rs))
    ∧ (∃ rs, (mt (ts 8 .f32 .bf16)).descWith (ts 8 .f32 .bf16) true 4032 (fun y => let l := tmmaLen y y.kbytes; descRanges y 32 y.steps l.1 l.2)
      = .ok ({ d1 with base := 0 }, rs))
    ∧ d1.space ≠ 1 ∧ d1.steps ≠ 0 ∧ ((ts 8 .f32 .bf16).getT 0).tag = .f32 ∧ ((ts 8 .f32 .bf16).getT 7).tag = .bf16
    ∧ pairOk .bf16 d1.tag = true ∧ d1.steps * groupsPerStep d1.tag d1.kbytes ≤ groupsPerStep .bf16 512 := by
  refine ⟨fun m x y => rfl, by decide, tags_descs.1, tags_descs.2, ⟨_, rfl⟩, ⟨_, rfl⟩, ⟨_, rfl⟩, ?_⟩
  decide

/-- The scratchpad descriptor. -/
def d2 : TileDesc := { d1 with space := 1, tag := .raw, pitch := 128, base := 0 }
/-- A node whole and pending into tile 7. -/
def nd (op : NodeOp) : Node :=
  { id := 0, opcode := 0xC2, op := op, dst := 7, writes := 0xF, pending := 0xF, mode := 0, appc := 0, batch := 1, flags := 0, raised := [], ranges := [], pass := none }
/-- A strand with one node. -/
def tn (op : NodeOp) : Strand := { ts 0 .raw .raw with nodes := [nd op], nextNode := 1 }

theorem test_w_TileDemands : (∀ v, (mt ((ts 0 .raw .raw).setS 1 v)).Plain ((ts 0 .raw .raw).setS 1 v))
    ∧ ((mt (ts 0 .raw .raw)).headerOf (ts 0 .raw .raw)).tiles = 8 ∧ (0xFFFFFFFF : DWord).toNat < 2 ^ 32 ∧ 2 ^ 32 ≤ (0x100000000 : DWord).toNat
    ∧ (ts 0 .raw .raw).CanTrap ∧ 15 < 8 * ((mt (ts 0 .raw .raw)).headerOf (ts 0 .raw .raw)).vregs ∧ ((ts 0 .raw .raw).getT 7).tag = (ts 0 .raw .raw).ty
    ∧ ((ts 0 .raw .raw).getT 7).poison = [] ∧ (ts 0 .raw .raw).getS 3 = 4000
    ∧ (∃ rs, (mt (ts 0 .raw .raw)).tstDesc (ts 0 .raw .raw) 7 4000 = .ok (d2, rs))
    ∧ d2.space = 1 ∧ d2.sbase = 0 ∧ d2.kbytes ≤ d2.pitch ∧ d2.base.toNat + 32 * d2.pitch ≤ 2 ^ 17
    ∧ (mt (ts 0 .raw .raw)).tstFailure (ts 0 .raw .raw) d2 (tstItems ((ts 0 .raw .raw).getT 7) d2) = none
    ∧ (∀ op, (mt (tn op)).strand? = some (tn op) ∧ ((mt (tn op)).headerOf (tn op)).trapen = 0 ∧ (tn op).nodes = [nd op] ∧ (nd op).id < (tn op).nextNode
      ∧ ((tn op).getT 0).poison = []) := by
  refine ⟨fun v => ⟨rfl, rfl, rfl, rfl, rfl⟩, rfl, by decide, by decide, ⟨by decide, by decide⟩, by decide, by decide, by decide, by decide,
    ⟨_, rfl⟩, by decide, by decide, by decide, by decide, by decide +kernel, fun op => ⟨rfl, rfl, rfl, Nat.zero_lt_one, rfl⟩⟩

/-- A load whose walk succeeds, at the head of the log. -/
def lg : Strand := st0.setLog [{ pc := 0, req := .load 1 8 top 0, mode := 0 }, entry]
/-- Core 0 asked to stop at device time 0, at a later time, with the strand in a critical section or not. -/
def asked (crit : Bool) (now : Nat) : State :=
  { mk { st0 with crit := crit } with cores := [(0, { Core.idle with haltAsked := some 0 })], time := now }

theorem test_w_StrandEvents : (∀ st, (mk st).strandAt 1 = some st) ∧ ({ st0 with timer := some 0 } : Strand).timer = some 0
    ∧ ({ st0 with timer := some 1 } : Strand).timer ≠ some 0 ∧ st0.timer ≠ some 0 ∧ 64 ≤ ({ st0 with readyFor := 64 } : Strand).readyFor
    ∧ st0.crit = false ∧ lg.log = [{ pc := 0, req := .load 1 8 top 0, mode := 0 }, entry] ∧ (mk lg).working lg = true ∧ (mk lg).level lg = 0
    ∧ ((mk lg).walk ag top.toNat).loadFailure ag lg [top] lane0 8 0 = none ∧ (mk lg).agentOf lg = ag
    ∧ (∀ c n, ((asked c n).core 0).haltAsked = some 0 ∧ (asked c n).strands.map Prod.fst = [1]) ∧ (∀ e ∈ (asked false 0).strands, e.2.crit = false ∧ (asked false 0).finishing e.1 e.2 = false)
    ∧ (∀ e ∈ (asked true 100000).strands, (asked true 100000).finishing e.1 e.2 = false) ∧ 0 + 100000 ≤ (asked true 100000).time
    ∧ (asked true 99999).time < 0 + 100000 ∧ (asked true 99999).strandAt 1 = some { st0 with crit := true }
    ∧ (asked true 99999).resident { st0 with crit := true } = true := by
  refine ⟨fun st => rfl, rfl, by decide, by decide, by decide, rfl, rfl, by decide, by decide, by decide, rfl, fun c n => ⟨rfl, rfl⟩, by decide, by decide, by decide,
    by decide, rfl, by decide⟩

/-- A rope of a pair: replicas 0 and 1 on cores 0 and 1, with what each presents, and a log that is full or not. -/
def rp (full : Bool) (x y : Option Presented) : State :=
  let a : Strand := { st0 with presented := x, wait := .release }
  let b : Strand := { st0 with team := 2, replica := 1, presented := y, wait := .release }
  { mk st0 with cur := 0, strands := [(1, a), (2, b)]
                teams := [(1, { tm0 with rope := 5 }), (2, { tm0 with rope := 5, core := 256, replica := 1, strands := [2], gang := 2 })]
                gangs := [(1, gd0), (2, { gd0 with cluster := 1, core := 256, replica := 1, teams := [2] })]
                launches := [(1, { la0 with rope := 2, imems := [(0, { planes := Planes.empty }), (256, { planes := Planes.empty })] })]
                ropes := [(5, { Rope.empty with teams := [1, 2], logFull := full })] }

theorem test_w_RopeEvents : (∀ full x y, ∃ st, (rp full x y).strands.find? (fun e => e.2.team == 1) = some (1, st) ∧ (rp full x y).level st ≠ 0
      ∧ st.idx = 0 ∧ st.buffer = [] ∧ ((rp full x y).team st.team).rope = ((rp full x y).team 1).rope
      ∧ (∃ r, cfind (rp full x y).ropes ((rp full x y).team 1).rope = some r ∧ r.logFull = full ∧ r.log = [] ∧ r.rolling = none ∧ (rp full x y).faultedXfer r = none)
      ∧ (let all := ((rp full x y).ropeStrands st).filter (fun x => x.2.idx == 0)
        all.find? (fun e => e.2.replica == 0) = some (1, st) ∧ all.map Prod.fst = [1, 2] ∧ all.map (fun e => e.2.presented) = [x, y]
        ∧ (∀ e ∈ all, (rp full x y).strandAt e.1 = some e.2 ∧ (rp full x y).resident e.2 = true)))
    ∧ (∀ e ∈ (rp true none none).strands, (rp true none none).stoppedForLog e.1 e.2 = true) ∧ ∀ e ∈ (rp true none none).teams, e.2.xfers = [] := by
  refine ⟨fun full x y => ⟨_, rfl, by rw [show State.level _ _ = 2 from rfl]; decide, rfl, rfl, rfl, ⟨_, rfl, rfl, rfl, rfl, rfl⟩, rfl, rfl, rfl, ?_⟩, by decide, by decide⟩
  intro e he
  change e ∈ [_, _] at he
  simp only [List.mem_cons, List.not_mem_nil, or_false] at he
  obtain rfl | rfl := he <;> exact ⟨rfl, rfl⟩

/-- The pair under privilege, its strands with s1 and with values that the leader handed over; the executing strand is the first or the second. -/
def rpPriv (second : Bool) (v : DWord) (l : List RopeValue) : State :=
  let s := rp false none none
  { s with
    cur := if second then 2 else 1, parts := [(0, { pa0 with pcfg := 0x0001000000000010 })]
    strands := [(1, sc 1 v), (2, { sc 1 v with team := 2, replica := 1, values := l })] }
theorem test_w_SystemRegisters_rope : ∀ v ∈ [(0x12 : DWord), 0x10000, 0x10], ∀ l ∈ [[.illegal], [.scalar 9], []],
    (let s := rpPriv false v l; s.strand? = some (sc 1 v) ∧ s.privileged (sc 1 v) = true ∧ s.level (sc 1 v) ≠ 0 ∧ (sc 1 v).replica = 0 ∧ (s.strands.map Prod.fst).Nodup)
    ∧ (let s := rpPriv true v l; let x : Strand := { sc 1 v with team := 2, replica := 1, values := l }; s.strand? = some x ∧ s.privileged x = true ∧ s.level x ≠ 0 ∧ x.replica ≠ 0 ∧ x.log = [] ∧ x.wait = .none ∧ x.values = l
        ∧ x.active? = false ∧ x.trapvec ≠ 0xFFFFFFFF) := by
  intro v hv l hl
  refine ⟨⟨rfl, ?_, ?_, rfl, ?_⟩, rfl, ?_, ?_, Nat.one_ne_zero, rfl, rfl, rfl, ?_, ?_⟩
  · change (pcfgPriv 0x0001000000000010) = true
    decide
  · change ¬ (2 = 0)
    decide
  · change ([1, 2] : List Nat).Nodup
    decide
  · change (pcfgPriv 0x0001000000000010) = true
    decide
  · change ¬ (2 = 0)
    decide
  · exact show st0.active? = false by decide
  · exact st0_canTrap.2

/-- A release of a sequence number and a signature. -/
def rel (sg : DWord) : Presented := .release 1 sg (.fence .pkg .rel)
/-- The pair at a release that the log holds, the second with another signature; and with the second's core halted. -/
def rpLog : State :=
  { rp false (some (rel 1)) (some (rel 2)) with ropes := [(5, { Rope.empty with teams := [1, 2], log := [ropeLogOf 0 1 1 .none] })] }
def rpHalt : State := { rp false (some (rel 1)) (some (rel 1)) with cores := [(256, { Core.idle with halted := true })] }

theorem test_w_RopeEvents_ends : (∃ e ∈ rpHalt.strands, rpHalt.resident e.2 = false) ∧ rpHalt.strands.map (fun e => e.2.team) = [1, 2]
    ∧ (∃ l, cfind rpLog.launches 1 = some l ∧ l.torn = none) ∧ (∀ e ∈ rpLog.strands, rpLog.resident e.2 = true ∧ e.2.presented ≠ none)
    ∧ (∃ ls, rpLog.strandAt 1 = some ls ∧ rpLog.isLogged ls = true
      ∧ ∃ e ∈ rpLog.strands, e.2.presented.map Presented.key ≠ ls.presented.map Presented.key)
    ∧ (∃ st, (rp true none none).strandAt 1 = some st ∧ (rp true none none).ropeHere st = true) := by
  refine ⟨by decide, rfl, ⟨_, rfl, rfl⟩, by decide, ⟨_, rfl, by decide, by decide⟩, _, rfl, by decide⟩

/-- A transfer of two bytes, 64 apart at the destination, or of one, from memory to the scratchpad's staging plane or back. -/
def xd (n sk dk : Nat) : XDesc :=
  { src := 0, dst := 0, crec := 0, bounds := [n, 0, 0, 0, 0], sstrides := [1, 0, 0, 0, 0], dstrides := [64, 0, 0, 0, 0], esize := 0, planes := 7
    zelide := false, skind := sk, dkind := dk, mcast := 0, cbnum := 0, cbslot := 0, cbcount := 0 }
/-- It queued or running. -/
def xr (d : XDesc) (z : XState) : Xfer := { xf z with desc := d }
/-- The machine with it, and a byte 0x55 at both ends. -/
def xm (d : XDesc) (z : XState) : State :=
  { mk st0 with cur := 0, mem := writeBytes [] 0x200000 [0x55]
                teams := [(1, { tm0 with xfers := [xr d z], sp := { tm0.sp with b := { tm0.sp.b with bytes := writeBytes [] 0 [0x55] } } })] }

theorem test_w_TransferEvents : (∀ d z, (xm d z).xferOf 1 1 = some (xr d z) ∧ (xr d z).fault = 0 ∧ (xm d z).xferAsks 1 1 = false) ∧ (xm (xd 0 0 1) .queued).pickRouter 0 = some 0
    ∧ (∀ e ∈ (xm (xd 0 0 1) .queued).teams, ∀ y ∈ e.2.xfers, 0 ≤ y.order)
    ∧ (∀ n ∈ [0, 1], (xd n 0 1).beat ((xm (xd n 0 1) .running).cbuf 1 0) 0 = [0] ∧ (xd n 1 0).beat ((xm (xd n 1 0) .running).cbuf 1 0) 0 = [0]
      ∧ (xd n 0 1).total = n + 1 ∧ (xd n 1 0).total = n + 1 ∧ ((xm (xd n 1 0) .running).teamTranslate 1 false true 0 = .ok 0x200000 true true)
      ∧ ((xd n 1 0).dbyte ((xm (xd n 1 0) .running).cbuf 1 0) 0 % 2 ^ 64).toNat = 0)
    ∧ (∃ bs ps, ((xm (xd 1 0 1) .running).combineVa 1 [0]).beatSrc 1 (xr (xd 1 0 1) .running) ((xm (xd 1 0 1) .running).cbuf 1 0) [] [0]
      = .ok bs ps)
    ∧ (∃ bs ps, (xm (xd 1 1 0) .running).beatSrc 1 (xr (xd 1 1 0) .running) ((xm (xd 1 1 0) .running).cbuf 1 0) [] [0] = .ok bs ps)
    ∧ (∃ a, stageAddr (xd 1 0 1).dst = some a ∧ a.kind = 0 ∧ (xm (xd 1 0 1) .running).memberTeam 1 a.member = some 1)
    ∧ (xr (xd 1 0 1) .running).paused = false ∧ (xd 1 0 1).zelide = false ∧ (xm (xd 1 0 1) .running).Cold := by
  refine ⟨fun d z => ⟨rfl, rfl, rfl⟩, by decide, by decide, by decide, ⟨_, _, rfl⟩, ⟨_, _, rfl⟩, ⟨_, rfl, rfl, rfl⟩, rfl, rfl, fun c h => (by cases h), fun k h => ?_⟩
  obtain rfl : k = (0, cl0) := by simpa [xm, mk] using h
  rfl


/-- A partition of granule 0 with a task range, and one of all granules. -/
def pa1 : Partition := { pa0 with pcfg := 0x0001000000000200 }
/-- A task of queue 0. -/
def tk0 (z : TaskState) (p : BitVec 512) : Task := { Task.expect with state := z, packet := p, desc := { Queue.zero with asid := 7 } }
/-- A launch of one gang, its task ready, not yet placed; passed over since device time 0 or not. -/
def dl (since : Option Nat) : Launch := { Launch.none with asid := 7, task := 5, passedSince := since }
/-- The module with it alone. -/
def dm (since : Option Nat) (now : Nat) : State :=
  { State.reset with time := now, nextId := 10, launches := [(1, dl since)], parts := [(0, pa1)], tasks := [(5, tk0 .ready 0)], pages := [pg0] }
/-- A placed launch whose one strand waits in QPOP, its sample at device time 0 or none. -/
def dq (x : Cells Sample) : State :=
  { mk { st0 with wait := .qpop } with cur := 0, time := 128, launches := [(1, { la0 with nextGang := 1, sample := x })] }
/-- The sample that the next one agrees with. -/
def sm : Sample := { sent := 0, received := 0, when := 0 }
/-- A launch packet: grid 1 × 1 × nz, the header at 0, arguments at 0x1000. -/
def lp (nz : Nat) : BitVec 512 := BitVec.ofNat 512 (0x101 + 2 ^ 80 + 2 ^ 96 + nz * 2 ^ 112 + 0x1000 * 2 ^ 192)
/-- The header's bytes: magic, version, one strand, 8 vector registers, a gang of one, no handler, overlay table at 0x100 past the arguments. -/
def hb0 : Nat := 0x484B5A47 + 2 ^ 32 + 2 ^ 64 + 2 ^ 72 + 2 ^ 136 + 2 ^ 144 + 0xFFFFFFFF * 2 ^ 224 + 0x100 * 2 ^ 288 + 2 ^ 320
/-- The module with the launch packet ready as task 5. -/
def dh (nz : Nat) : State :=
  { State.reset with nextId := 10, parts := [(0, pa1)], tasks := [(5, tk0 .ready (lp nz))], pages := [pg0]
                     mem := writeBytes (writeBytes [] 0x200000 (leBytes 64 hb0)) 0x201100 (leBytes 16 (4 * 2 ^ 64)) }

theorem test_w_DispatcherEvents : (dm none 0).placeable (dl none) = true ∧ (dl none).spanParts = 1 ∧ (dl none).nextGang + 1 = (dl none).gangCount
    ∧ (dl none).prio < 16 ∧ (∃ u, (dm none 0).placeGang 1 = some u) ∧ cfind (dm (some 0) 100000).launches 1 = some (dl (some 0))
    ∧ (dl (some 0)).passedSince = some 0 ∧ 0 + 100000 ≤ (dm (some 0) 100000).time ∧ (dm (some 0) 100000).placeable (dl (some 0)) = true
    ∧ (dq []).quiet 1 0 = true ∧ (dq [(0, sm)]).quiet 1 0 = true ∧ (∀ x, cfind (dq x).launches 1 = some { la0 with nextGang := 1, sample := x })
    ∧ cfind ([] : Cells Sample) 0 = none ∧ cfind [(0, sm)] 0 = some sm ∧ sm.when + 128 ≤ (dq []).time ∧ sm.sent = sm.received
    ∧ cget 0 la0.sent 0 = sm.sent ∧ cget 0 la0.received 0 = sm.received ∧ la0.terminated.contains 0 = false
    ∧ (dq [(0, sm)]).rangeStrands 1 0 = [(1, { st0 with wait := .qpop })] ∧ (dq [(0, sm)]).strandAt 1 = some { st0 with wait := .qpop }
    ∧ (dq [(0, sm)]).level { st0 with wait := .qpop } = 0 ∧ (dq [(0, sm)]).resident { st0 with wait := .qpop } = true
    ∧ (dq [(0, sm)]).Acked { st0 with wait := .qpop } ∧ cfind (dm none 0).launches 1 = some (dl none) ∧ (dl none).rope = 0 ∧ (dl none).unplaced = true
    ∧ 0 < (dl none).header.gang ∧ ({ dm none 0 with parts := [] } : State).placeGang 1 = none := by
  refine ⟨by decide +kernel, rfl, by decide, by decide, Option.isSome_iff_exists.1 (by decide +kernel), rfl, rfl, by decide,
    by decide +kernel, by decide +kernel, by decide +kernel,
    fun x => rfl, rfl, rfl, by decide, rfl, rfl, rfl, rfl, rfl, rfl, by decide, by decide, rfl, rfl, rfl, by decide, by decide, by decide +kernel⟩

set_option maxRecDepth 4000 in
set_option exponentiation.threshold 600 in
/-- A zero grid, and a packet whose header, overlay table and overlay read and check. -/
theorem test_w_DispatcherEvents_packets : (dh 0).readyTask 5 1 = some (tk0 .ready (lp 0)) ∧ pkt (lp 0) 127 112 = 0
    ∧ (dh 1).readyTask 5 1 = some (tk0 .ready (lp 1)) ∧ ¬ (pkt (lp 1) 127 112 = 0 ∨ pkt (lp 1) 111 96 = 0 ∨ pkt (lp 1) 95 80 = 0)
    ∧ pkt (lp 1) 191 128 = 0 ∧ pkt (lp 1) 255 192 = 0x1000 ∧ pkt (lp 1) 79 72 ≤ mostSegs ((dh 1).part 0).pcfg
    ∧ ∃ hb ob code s1 s2 s3, (dh 1).hubRead 16 7 false 0 64 = .ok (hb, s1) ∧ (parseHeader (leNat hb)).ovlTable = 0x100
      ∧ s1.hubRead 16 7 false 0x1100 16 = .ok (ob, s2) ∧ (parseHeader (leNat hb)).ok = true ∧ bits (leNat ob) 95 64 = 4
      ∧ launchOk (parseHeader (leNat hb)) 4 (pktRope (lp 1) (parseHeader (leNat hb))) false = true ∧ s2.hubRead 16 7 false 64 4 = .ok (code, s3)
      ∧ State.possible { s3.hubDone 16 with
          nextId := s3.nextId + 1, launches := cput s3.launches s3.nextId (s3.newLaunch 5 (tk0 .ready (lp 1)) (parseHeader (leNat hb)) code)
          tasks := cput s3.tasks 5 { tk0 .ready (lp 1) with launch := some s3.nextId, state := .ready } }
        s3.nextId = true := by
  refine ⟨rfl, by decide +kernel, rfl, ?_⟩
  exact ⟨by decide +kernel, by decide +kernel, by decide +kernel, by decide +kernel, _, _, _, _, _, _, rfl, by decide +kernel, rfl, by decide +kernel, by decide +kernel, by decide +kernel, rfl, by decide +kernel⟩


/-- Queue 0: its ring at 0x2000, its last slot of sixteen ready, sixteen packets behind the doorbell. -/
def qu : Queue := { Queue.zero with enable := true, ring := 0x2000, asid := 7, ridx := 15, doorbell := 31 }
/-- The module with that queue and a packet's header in the slot. -/
def qm (v : Nat) : State :=
  { State.reset with queues := [(0, qu)], parts := [(0, pa1)], pages := [pg0], mem := writeBytes [] 0x2023C0 (leBytes 8 v) }
/-- The module with a task 5, a page with a number of pins, and a task 6. -/
def tm (tk : Task) (pins : Nat) : State :=
  { State.reset with tasks := [(5, tk), (6, { tk0 .waiting 0x501 with count := -32767 })], parts := [(0, pa1)], pages := [{ pg0 with pins := List.replicate pins 0 }] }
/-- A packet of a type with the address and length fields of a PIN or SIGNAL. -/
def pkOf (ty lo a : Nat) : BitVec 512 := BitVec.ofNat 512 (ty * 256 + 1 + 3 * 2 ^ 64 + lo * 2 ^ 128 + a * 2 ^ 192)
/-- A done task whose completion signal is at the page's last doubleword, with one successor. -/
def tdone : Task := { tk0 .retiring (BitVec.ofNat 512 (0x501 + top.toNat * 2 ^ 448)) with succs := [6] }

set_option maxRecDepth 4000 in
set_option exponentiation.threshold 600 in
/-- A waiting launch whose header, at address 0, is not valid; its slice has cache. -/
theorem test_w_PacketEvents_prefetch : let s := tm (tk0 .waiting 0x101) 1
    s.taskDue (tk0 .waiting 0x101) = true ∧ pktType (0x101 : BitVec 512) = 1 ∧ pkt (0x101 : BitVec 512) 191 128 % 128 = 0
    ∧ s.translate 7 false true false 0 = .ok 0x200000 true true ∧ s.l2Ways (homeCluster 0x200000) (sliceOf (0x200000 / 128)) ≠ 0
    ∧ (∀ b u, (s.fetchAhead (tk0 .waiting 0x101).desc 0 64).hubRead 16 7 false 0 64 = .ok (b, u) → (parseHeader (leNat b)).ok = false)
    ∧ s.Cold := by
  refine ⟨by decide +kernel, by decide, by decide, by decide, by decide +kernel, fun b u h => ?_, fun c h => (by cases h), fun k h => (by cases h)⟩
  have e := congrArg (fun r => match r with | Except.ok (x, _) => (parseHeader (leNat x)).ok | .error _ => false) h
  exact e.symm.trans (by decide +kernel)

set_option maxRecDepth 4000 in
set_option exponentiation.threshold 600 in
theorem test_w_PacketEvents : (∀ v ∈ [0x501, 0x500], ((qm v).queue 0).reading = true ∧ (qm v).power.stopped = false
      ∧ (qu.doorbell - qu.ridx).toNat ≤ 16 * 2 ^ qu.slotlog ∧ qu.rptr = 0 ∧ qu.slotAddr = 0x23C0)
    ∧ (∃ b u, (qm 0x501).hubRead 0 7 false 0x23C0 64 = .ok (b, u) ∧ (BitVec.ofNat 512 (leNat b)).getLsbD 0 = true
      ∧ u.packetAsks 0 0 (BitVec.ofNat 512 (leNat b)) = none ∧ (qm 0x501).translate 7 false false true 0x23C0 = .ok 0x2023C0 true true)
    ∧ (∃ b u, (qm 0x500).hubRead 0 7 false 0x23C0 64 = .ok (b, u) ∧ (BitVec.ofNat 512 (leNat b)).getLsbD 0 = false)
    ∧ (qm 0x501).transBytes 7 false false true 0x23C0 8 = .ok ((List.range 8).map (0x2023C0 + ·))
    ∧ ((tm (tk0 .waiting 0x505) 1).taskDue (tk0 .waiting 0x505) = true ∧ (tk0 .waiting 0x505).failedPred = false
      ∧ (tm { tk0 .waiting 0x505 with failedPred := true } 1).taskDue { tk0 .waiting 0x505 with failedPred := true } = true
      ∧ bitAt (0x505 : BitVec 512).toNat 2 = true)
    ∧ (tm (tk0 .ready 0x501) 1).readyTask 5 5 = some (tk0 .ready 0x501)
    ∧ (tm (tk0 .ready (pkOf 4 5 0x1FFFF8)) 1).readyTask 5 4 = some (tk0 .ready (pkOf 4 5 0x1FFFF8))
    ∧ (tm (tk0 .ready (pkOf 4 5 0x1FFFF8)) 1).hubWaits (.packet 5) = false
    ∧ (tm (tk0 .ready (pkOf 4 5 0x1FFFF8)) 1).translate 7 false false true (pkt (pkOf 4 5 0x1FFFF8) 255 192) = .ok 0x3FFFF8 true true
    ∧ (tm (tk0 .ready (pkOf 2 0x200000 0)) 1).readyTask 5 2 = some (tk0 .ready (pkOf 2 0x200000 0))
    ∧ (tm (tk0 .ready (pkOf 2 0x1000 0x1FF000)) 1).readyTask 5 2 = some (tk0 .ready (pkOf 2 0x1000 0x1FF000))
    ∧ (tm (tk0 .ready (pkOf 3 0x1000 0x1FF000)) 2).readyTask 5 3 = some (tk0 .ready (pkOf 3 0x1000 0x1FF000))
    ∧ (let p := pkOf 2 0x1000 0x1FF000; pkt p 191 128 = 4096 ∧ pkt p 255 192 + pkt p 191 128 = pg0.base + pg0.size ∧ pkt p 65 64 = 3
      ∧ (tm (tk0 .ready p) 1).page 7 (pkt p 255 192) = some pg0 ∧ pg0.pins ≠ [] ∧ pg0.frame = some 0x200000 ∧ pg0.shared = none ∧ pg0.readable = true
      ∧ pg0.writable = true ∧ (tm (tk0 .ready p) 1).worldOk false 0x200000 = true)
    ∧ (∀ x ∈ (tm (tk0 .ready (pkOf 3 0x1000 0x1FF000)) 2).pages, x.pins.length ≠ 1 ∧ x.frame = some 0x200000)
    ∧ ((tm (tk0 .ready (pkOf 3 0x1000 0x1FF000)) 2).pages.map (fun x => (x.asid, x.base))).Nodup
    ∧ (tdone.state = .retiring ∧ tdone.launch = none ∧ tdone.cls = .ok ∧ pkt tdone.packet 447 384 = 0 ∧ tdone.poisoned = false ∧ tdone.phase = 0 ∧ (tm tdone 1).fabric.outstanding = []
      ∧ pkt tdone.packet 511 448 = 0x1FFFF8 ∧ (tm tdone 1).translate 7 false false true 0x1FFFF8 = .ok 0x3FFFF8 true true
      ∧ cfind (tm tdone 1).tasks 6 = some { tk0 .waiting 0x501 with count := -32767 }) := by
  refine ⟨by decide, ⟨_, _, rfl, by decide +kernel, by decide +kernel, by decide +kernel⟩, ⟨_, _, rfl, by decide +kernel⟩, rfl, by decide +kernel, by decide +kernel, ?_⟩
  refine ⟨by decide +kernel, rfl, by decide +kernel, by decide +kernel, by decide +kernel, by decide +kernel, ?_⟩
  exact ⟨by decide +kernel, by decide, by decide, by decide +kernel⟩

/-- The executing strand's launch started at device time 0, its partition's limit and the device time. -/
def cm (lim now : Nat) : State :=
  { mk st0 with cur := 0, time := now, parts := [(0, { pa0 with cmdlimit := lim })]
                fabric := { Fabric.reset with outstanding := [(1, { strand := 1, launch := 0, stale := 0, report := none, hub := .none, core := none, reuse := 2, places := [], xfer := none, sent := 0, home := 2, vaddr := 0, req :=
                  { src := 0, tag := 1, asid := 7, secure := false, op := .read, scope := .pkg, line := 0, mask := 0, words := [], expected := [], places := [], poison := 0 } })] } }
/-- A team, idempotent or not, with a number of restarts. -/
def cr (idemp : Bool) (n : Nat) : State := { mk st0 with cur := 0, teams := [(1, { tm0 with idemp := idemp, restarts := n })] }
/-- A span of devices 0 and 3. -/
def sx : Span := { devs := [0, 3], spanId := 0, ndev := 1, index := 0 }
/-- A waiting launch of a queue bound to a span record, since device time 0. -/
def sp (now : Nat) : State :=
  { State.reset with time := now, tasks := [(5, tk0 .waiting 0x101)], parts := [(0, pa1)]
                     fabric := { Fabric.reset with hops := [(3, 1)], spans := [(0, sx)] } }

theorem test_w_ErrorEvents : (∀ lim n, cfind (cm lim n).launches 1 = some la0) ∧ la0.started = some 0 ∧ la0.torn = none
    ∧ (((cm 1 1001).part la0.part).cmdlimit = 1 ∧ 0 + 1000 * 1 < (cm 1 1001).time) ∧ (((cm 0 1001).part la0.part).cmdlimit = 0)
    ∧ (((cm 1 1000).part la0.part).cmdlimit = 1 ∧ (cm 1 1000).time ≤ 0 + 1000 * 1)
    ∧ (∃ o, cfind (cm 1 1000000).fabric.outstanding 1 = some o ∧ o.xfer = none ∧ o.hub = .none ∧ (cm 1 1000000).strandAt o.strand = some st0
      ∧ o.sent + 1000000 ≤ (cm 1 1000000).time ∧ (cm 1 999999).time < o.sent + 1000000)
    ∧ (∀ b n, (cr b n).strands.find? (fun e => e.2.team == 1) = some (1, st0) ∧ (cr b n).level st0 = 0
      ∧ ∃ x, cfind (cr b n).teams 1 = some x ∧ x.idemp = b ∧ x.restarts = n)
    ∧ (∀ e ∈ (cr true 2).strands, e.2.crit = false) ∧ (∀ z, cfind (tm (tk0 z 0x501) 1).tasks 5 = some (tk0 z 0x501) ∧ (tk0 z 0x501).queue = 0)
    ∧ (sp 1000000000).unmatched 5 = some (tk0 .waiting 0x101, sx) ∧ (tk0 .waiting 0x101).since + 1000000000 ≤ (sp 1000000000).time
    ∧ (sp 999999999).time < (tk0 .waiting 0x101).since + 1000000000 := by
  refine ⟨fun l n => rfl, rfl, rfl, by decide, by decide, by decide, ⟨_, rfl, rfl, rfl, rfl, by decide, by decide⟩, fun b n => ⟨rfl, rfl, _, rfl, rfl, rfl⟩,
    by decide, fun z => ⟨rfl, rfl⟩, by decide +kernel, by decide, by decide⟩


/-- Partition 0 with a region of memory assigned to it. -/
def ho : State := { State.reset with parts := [(0, pa1)], assigned := [(1, 0)], queues := [(0, qu), (1, { qu with part := 1 })] }

/-- The PF and VF 1, its region's last byte and the byte past it; a function that does not exist. -/
theorem test_w_HostAccesses : ho.vfExists 1 = true ∧ ho.vfExists 16 = false ∧ (ho.queue 0).part + 1 = 1 ∧ (1 ≠ 0 ∧ (ho.queue 1).part + 1 ≠ 1)
    ∧ ho.barOk 1 false 0x3FFFFF 1 = true ∧ ho.barOk 1 false 0x3FFFFF 2 = false ∧ ho.barOk 0 false 0x3FFFFF 2 = true
    ∧ ho.barOk 0 true 95999999999 1 = true ∧ ho.barOk 0 false 96000000000 1 = false
    ∧ ho.boot.minimal = false ∧ ho.notifyOk 1 0 = true ∧ (∃ v, ho.readRegister 0x60 = some v) ∧ ho.readRegister 0xF8 = none
    ∧ ho.bar0Read 0 0x1000F8 8 = none ∧ ho.bar0Read 1 0 8 = none ∧ ({ ho with boot := { ho.boot with minimal := true } } : State).boot.minimal = true
    ∧ ([0] : List Byte).length ≤ 512 ∧ ho.Cold := by
  refine ⟨by decide, by decide, by decide, by decide, by decide, by decide, by decide, by decide, by decide, ?_⟩
  exact ⟨rfl, by decide, ⟨_, rfl⟩, rfl, rfl, rfl, rfl, by decide, fun c h => (by cases h), fun k h => (by cases h)⟩

/-- A module with a record in MREC, a queue 0 of partition 0 and a device interface in a state. -/
def ma (rec' : Nat) (z : Tdisp) : State :=
  { ho with hub := { Hub.reset with mrec := (List.range 4).map (fun k => BitVec.ofNat 64 (rec' / 2 ^ (64 * k))) }
            tdisp := [(0, z)], fabric := { Fabric.reset with hops := [(3, 1)] } }
/-- A queue record with the largest SLOTLOG, and one beyond it; a span record of devices 0 and 3 bound to queue 0, and one of one device. -/
def qrec (slotlog : Nat) : Nat := 1 + slotlog * 2 ^ 86 + 255 * 2 ^ 100 + 7 * 2 ^ 112 + 0x1000 * 2 ^ 192
def srec (ndev : Nat) : Nat := 2 ^ 16 + ndev * 2 ^ 44 + 5 * 2 ^ 48 + 3 * 2 ^ 76

set_option maxRecDepth 4000 in
theorem test_w_ManagementCommands : (ma (qrec 12) .configUnlocked).recordOk 0 (ma (qrec 12) .configUnlocked).mrecord = true
    ∧ (ma (qrec 13) .configUnlocked).recordOk 0 (ma (qrec 13) .configUnlocked).mrecord = false
    ∧ (ma (srec 1) .configUnlocked).spanOk (ma (srec 1) .configUnlocked).mrecord = true
    ∧ (ma (srec 0) .configUnlocked).spanOk (ma (srec 0) .configUnlocked).mrecord = false
    ∧ ho.contextOk 0 7 = true ∧ ho.contextOk 0 8 = false ∧ (∃ x, cfind ho.parts ho.hub.mtarget = some x ∧ granules x.pcfg ≠ 0)
    ∧ (255 : DWord).toNat < 256 ∧ 50 ≤ (50 : DWord).toNat ∧ (3600 : DWord).toNat ≤ 3600 ∧ (49 : DWord).toNat < 50 ∧ 3600 < (3601 : DWord).toNat
    ∧ 600 ≤ (600 : DWord).toNat ∧ (599 : DWord).toNat < 600 ∧ (∀ z, (ma 0 z).vfExists (0 + 1) = true ∧ (ma 0 z).tdispOf 0 = z)
    ∧ (ho.layoutOk [0x0002000008000201] = true ∧ granules 0x0002000008000201 ≠ 0 ∧ (ho.part (bits (0x0002000008000201 : DWord).toNat 3 0)).pcfg ≠ 0x0002000008000201)
    ∧ ho.layoutOk [0x0001000008000201] = false := by
  refine ⟨by decide +kernel, by decide +kernel, by decide +kernel, by decide +kernel, by decide, by decide, ⟨_, rfl, by decide⟩, ?_⟩
  refine ⟨by decide, by decide, by decide, by decide, by decide, by decide, by decide, fun z => ⟨by cases z <;> decide, by cases z <;> rfl⟩, by decide +kernel, by decide +kernel⟩

/-- An image of a version, with a verifying signature or not. -/
def im (ok : Bool) (v : Nat) : Image :=
  { verifies := ok, version := v, firmware := [], partitions := [0x0001000000000200], pcaps := [], ranks := [], modlim := 3000, hallId := 9
    hallKey := 1, hallGroup := 0, hallPort := 0, timeSource := 1 }
/-- A module with images of versions 2 and 3, the newest not verifying, a counter, and a start under way since device time 0. -/
def bo (counter fails : Nat) (minimal starting new : Bool) (now : Nat) : State :=
  { State.reset with time := now, boot := { Boot.reset with slots := [im true 1, im true 2, im false 3], counter := counter, fails := fails
                                                            minimal := minimal, starting := starting, stage := if starting then 5 else 0, ready := !starting, newImage := new } }

theorem test_w_BootEvents : (bo 2 2 false true false 0).boot.pick = some (im true 2) ∧ (bo 3 2 false true false 0).boot.pick = none
    ∧ ((bo 2 2 false true false 0).boot.minimal = false ∧ (bo 2 2 false true false 0).boot.fails < 3)
    ∧ ((bo 2 3 true false true 0).boot.pick = some (im true 2) ∧ (bo 2 3 true false true 0).boot.newImage = true)
    ∧ (3 ≤ (bo 2 3 false false false 0).boot.fails ∧ (bo 2 3 false false false 0).boot.newImage = false)
    ∧ (bo 2 2 true false false 0).boot.minimal = true ∧ (bo 2 2 true false false 0).boot.ready = true ∧ (bo 2 2 false true false 0).boot.starting = true
    ∧ (bo 2 2 false true false 0).boot.since + 60000000000 ≤ (bo 2 2 false true false 60000000000).time
    ∧ (bo 2 2 false true false 59999999999).time < (bo 2 2 false true false 0).boot.since + 60000000000
    ∧ (bo 2 2 true true false 0).boot.ready = false ∧ (bo 2 2 false true false 0).boot.stage = 5 ∧ (bo 2 2 true false false 0).boot.stage ≠ 5
    ∧ failsIn (bo 2 2 false true false 0).boot.stage 8 = true ∧ failsIn (bo 2 2 false true false 0).boot.stage 5 = false
    ∧ failsIn 1 1 = true ∧ failsIn 4 5 = true ∧ failsIn 4 4 = false := by
  refine ⟨rfl, rfl, ?_⟩
  decide

/-- The team's gang ordered moved at device time 0, its strands stopped then or not, its one core hot or every core of its partition retired. -/
def mv (now : Nat) (retired : Bool) (stopped : Option Nat) : State :=
  { mk st0 with cur := 0, time := now, gangs := [(1, { gd0 with moving := some 0, stopped := stopped })], hub := Hub.reset
                cores := if retired then (List.range 128).map (fun c => (c, { Core.idle with retired := true })) else [(0, { Core.idle with hot := true })] }
/-- The same with its context switched out; with its strand waiting for a peer; and a pass under way on every core of granule 0. -/
def mvAway : State := { mv 0 false none with parts := [(0, { pa0 with plane := true })] }
def mvPeer : State := { mv 0 false none with strands := [(1, { st0 with wait := .peer })] }
def busyUnits : State :=
  let x : Strand := { st0 with nodes := [{ nd .tzero with pass := some { groups := [0], step := 0, acc := [], flags := [], waits := false } }] }
  { mv 0 false none with
    strands := (List.range 128).map (fun i => (i, { x with team := i })), teams := (List.range 128).map (fun i => (i, { tm0 with core := i })) }
/-- The first 48 bytes of a hall message of SEQ `seq` with LIFT or not. -/
def hallHead (seq : Nat) (lift : Bool) : List Byte :=
  ((List.range 48).map (fun i => BitVec.ofNat 8 ((0x47434150 * 2 ^ 352 + 2 ^ 336 + (if lift then 2 ^ 320 else 0) + seq * 2 ^ 256 + 9 * 2 ^ 224 + 77 * 2 ^ 216
    + 50 * 2 ^ 208 + 3000 * 2 ^ 192 + 5 * 2 ^ 176) / 256 ^ (47 - i))))
/-- The message with its MAC. -/
def hall (seq : Nat) (lift : Bool) : List Byte :=
  hallHead seq lift ++ (List.range 16).map (fun i => BitVec.ofNat 8 ((Config.hallMac 1 (hallHead seq lift)).toNat / 256 ^ (15 - i)))

theorem be_bytes (n a v : Nat) :
    ((List.range (n + 1)).map (fun i => BitVec.ofNat 8 (v / 256 ^ (n - i)))).foldl (fun acc b => 256 * acc + b.toNat) a
      = a * 256 ^ (n + 1) + v % 256 ^ (n + 1) := by
  induction n generalizing v with
  | zero => simp [Nat.mul_comm]
  | succ n ih =>
    have e : (List.range (n + 1)).map (fun i => BitVec.ofNat 8 (v / 256 ^ (n + 1 - i)))
        = (List.range (n + 1)).map (fun i => BitVec.ofNat 8 (v / 256 / 256 ^ (n - i))) := by
      apply List.map_congr_left
      intro i hi
      rw [List.mem_range] at hi
      rw [show n + 1 - i = (n - i) + 1 by omega, Nat.pow_succ, Nat.mul_comm, ← Nat.div_div_eq_div_mul]
    rw [List.range_succ, List.map_append, e, List.foldl_append, ih]
    simp only [List.map_cons, List.map_nil, List.foldl_cons, List.foldl_nil, Nat.sub_self, Nat.pow_zero, Nat.div_one, BitVec.toNat_ofNat]
    rw [Nat.pow_succ 256 (n + 1), Nat.mul_comm (256 ^ (n + 1)) 256, Nat.mod_mul, Nat.mul_add, Nat.mul_left_comm]
    have : v % 2 ^ 8 = v % 256 := rfl
    omega
theorem hall_number (p : List Byte) (m : BitVec 128) :
    beNat (p ++ (List.range 16).map (fun i => BitVec.ofNat 8 (m.toNat / 256 ^ (15 - i)))) = beNat p * 2 ^ 128 + m.toNat := by
  have e : (256 : Nat) ^ (15 + 1) = 2 ^ 128 := by decide
  rw [beNat, List.foldl_append, be_bytes 15, ← beNat, e, Nat.mod_eq_of_lt m.isLt]
theorem hall_bits (a m hi lo k : Nat) (h : m < 2 ^ k) (hl : k ≤ lo) (hh : k ≤ hi) : bits (a * 2 ^ k + m) hi lo = bits a (hi - k) (lo - k) := by
  have e : (a * 2 ^ k + m) / 2 ^ k = a := by
    rw [Nat.mul_comm, Nat.mul_add_div (Nat.two_pow_pos k), Nat.div_eq_of_lt h, Nat.add_zero]
  have p : (2 : Nat) ^ lo = 2 ^ k * 2 ^ (lo - k) := by rw [← Nat.pow_add, Nat.add_sub_cancel' hl]
  rw [bits, bits, p, ← Nat.div_div_eq_div_mul, e]
  congr 2
  omega
theorem hall_ok (seq : Nat) (lift : Bool) (hl : (hallHead seq lift).length = 48) (a : Nat) (ha : beNat (hallHead seq lift) = a)
    (h1 : bits a 383 352 = 0x47434150 ∧ bits a 351 336 = 1 ∧ bits a 255 224 = 9 ∧ bits a 335 321 = 0 ∧ bits a 175 0 = 0) :
    hallOk (im true 2) (hall seq lift) = true := by
  have hv : beNat (hall seq lift) = a * 2 ^ 128 + (Config.hallMac 1 (hallHead seq lift)).toNat := by rw [hall, hall_number, ha]
  have hm := (Config.hallMac 1 (hallHead seq lift)).isLt
  have ht : (hall seq lift).take 48 = hallHead seq lift := by rw [hall, List.take_left' hl]
  have hn : (hall seq lift).length = 64 := by rw [hall, List.length_append, hl]; simp
  have hb (hi lo : Nat) (h : 128 ≤ lo) (g : 128 ≤ hi) := hall_bits a _ hi lo 128 hm h g
  obtain ⟨b1, b2, b3, b4, b5⟩ := h1
  have hmac : BitVec.ofNat 128 (a * 2 ^ 128 + (Config.hallMac 1 (hallHead seq lift)).toNat) = Config.hallMac 1 (hallHead seq lift) := by
    apply BitVec.eq_of_toNat_eq
    rw [BitVec.toNat_ofNat, Nat.add_comm, Nat.add_mul_mod_self_right, Nat.mod_eq_of_lt hm]
  simp only [hallOk, hv, ht, hn]
  rw [hb 511 480 (by decide) (by decide), hb 479 464 (by decide) (by decide), hb 383 352 (by decide) (by decide), hb 463 449 (by decide) (by decide), hb 303 128 (by decide) (by decide)]
  simp only [Nat.reduceSub, b1, b2, b3, b4, b5]
  rw [show (im true 2).hallKey = 1 from rfl, show (im true 2).hallId = 9 from rfl, hmac]
  simp

/-- A hall message in force, for 5 ms. -/
def hf : Hall := { seq := 4, thresh := 77, capfrac := 50, modcap := 3000, expiry := some 5000000 }
/-- A module whose image names hall 9, with the last accepted SEQ. -/
def hm (last : Option DWord) : State :=
  { State.reset with boot := { Boot.reset with image := some (im true 2) }, power := { Power.reset with lastSeq := last, hall := some hf } }
set_option exponentiation.threshold 600 in
/-- SEQ 4 with and without LIFT: well formed. -/
theorem hall4 : hallOk (im true 2) (hall 4 false) = true ∧ hallOk (im true 2) (hall 4 true) = true
    ∧ bits (beNat (hall 4 false)) 447 384 = 4 ∧ bits (beNat (hall 4 true)) 447 384 = 4
    ∧ bitAt (beNat (hall 4 false)) 448 = false ∧ bitAt (beNat (hall 4 true)) 448 = true := by
  have h (lift : Bool) : hallOk (im true 2) (hall 4 lift) = true ∧ bits (beNat (hall 4 lift)) 447 384 = 4
      ∧ bits (beNat (hall 4 lift)) 448 448 = if lift then 1 else 0 := by
    have hm := (Config.hallMac 1 (hallHead 4 lift)).isLt
    have hv : beNat (hall 4 lift) = beNat (hallHead 4 lift) * 2 ^ 128 + (Config.hallMac 1 (hallHead 4 lift)).toNat := by rw [hall, hall_number]
    rw [hv, hall_bits _ _ 447 384 128 hm (by decide) (by decide), hall_bits _ _ 448 448 128 hm (by decide) (by decide)]
    refine ⟨hall_ok 4 lift (by simp [hallHead]) _ rfl (by cases lift <;> decide +kernel), ?_⟩
    cases lift <;> decide +kernel
  have f := h false
  have g := h true
  refine ⟨f.1, g.1, f.2.1, g.2.1, ?_, ?_⟩
  · simpa [bits, bitAt] using f.2.2
  · simpa [bits, bitAt] using g.2.2

/-- A run to move to, and none; before 50 µs and at it; a bad message, the last SEQ again, and the next; at the expiry and before it. -/
theorem test_w_PowerEvents : (∀ n r x, cfind (mv n r x).gangs 1 = some { gd0 with moving := some 0, stopped := x })
    ∧ (mv 49999 false (some 0)).time < 0 + 50000 ∧ 0 + 50000 ≤ (mv 50000 false (some 0)).time
    ∧ (∀ e ∈ (mv 0 false none).strands, e.2.crit = false ∧ (mv 0 false none).finishing e.1 e.2 = false) ∧ (∀ e ∈ (mv 0 false none).teams, e.2.xfers = [])
    ∧ (∃ x ∈ (({ mv 0 false none with teams := [(1, { tm0 with xfers := [xf .running] })] } : State).team 1).xfers, x.live = true ∧ x.paused = false)
    ∧ 120 < ({ mv 0 false none with teams := [(1, { tm0 with perfcls := 2 })] } : State).clockAsked 0
    ∧ (∃ c, (mv 0 false none).moveRun 1 = some c) ∧ (mv 0 true none).moveRun 1 = none ∧ (∀ l, (hm l).boot.image = some (im true 2))
    ∧ hallOk (im true 2) [] = false ∧ hallOk (im true 2) (hall 4 false) = true ∧ hallOk (im true 2) (hall 4 true) = true
    ∧ (∃ q, (hm (some 4)).power.lastSeq = some q ∧ bits (beNat (hall 4 false)) 447 384 ≤ q.toNat)
    ∧ (∀ q, (hm (some 3)).power.lastSeq = some q → q.toNat < bits (beNat (hall 4 false)) 447 384)
    ∧ bitAt (beNat (hall 4 false)) 448 = false ∧ bitAt (beNat (hall 4 true)) 448 = true
    ∧ (∃ h, (hm none).power.hall = some h ∧ h.expiry = some 5000000) ∧ 3 < 4
    ∧ (mv 0 false none).onPlane ((mv 0 false none).launch 1) = true ∧ busyUnits.idleUnit 0 = false ∧ (mv 0 false none).idleUnit 0 = true
    ∧ (mvAway.onPlane (mvAway.launch 1) = false ∧ cfind mvAway.gangs 1 = some { gd0 with moving := some 0 })
    ∧ (∃ e ∈ mvPeer.strands, e.2.team ∈ gd0.teams ∧ mvPeer.finishing e.1 e.2 = true) ∧ ((mv 0 false none).gangs.map Prod.fst).Nodup := by
  obtain ⟨a, b, c, d, e, f⟩ := hall4
  refine ⟨fun n r x => rfl, by decide, by decide, by decide, by decide, ⟨_, List.mem_singleton.2 rfl, rfl, rfl⟩, by decide, Option.isSome_iff_exists.1 (by decide +kernel), by decide +kernel, fun l => rfl,
    rfl, a, b, ⟨4, rfl, by rw [c]; decide⟩, fun q h => ?_, e, f, ⟨_, rfl, rfl⟩, by decide, by decide, by decide +kernel, by decide +kernel, ⟨by decide, rfl⟩, by decide, by decide⟩
  obtain rfl : 3 = q := by simpa [hm] using h
  rw [c]
  decide

/-- A port that is up, its last SEQ in order and its last good one 255, retraining since device time 0 or not. -/
def po (r : Option Nat) (replays : Nat) : Port :=
  { up := true, retraining := r, rxSeq := 255, seen := 255, txSeq := 255, acked := 0, replays := replays, resends := 0, sent := [], wire := [], received := [], credits := [0, 0, 0, 0], delay := 0 }
/-- A module with that port 0, an import entry of requester 3 and a request outstanding. -/
def fb (r : Option Nat) (replays now : Nat) : State :=
  { cm 1 now with fabric := { (cm 1 now).fabric with ports := [(0, po r replays)], imports := [((3, 5), (7, false))] } }
/-- A flit of a SEQ with a good CRC. -/
def fl0 (seq : Nat) : List Byte :=
  leBytes 6 (seq * 2 ^ 32) ++ leBytes 2 (crc16 (leBytes 6 (seq * 2 ^ 32) ++ [0, 0] ++ List.replicate 56 0)).toNat ++ List.replicate 56 0
/-- A peer's request for line 0 of address space 5. -/
def rq (src : Nat) (op : PeerOp) : PeerReq :=
  { src := src, tag := 4, asid := 5, secure := false, op := op, scope := .pkg, line := 0, mask := 0x80000000000000000000000000000001
    words := List.replicate 32 0x01020304, expected := [], places := [31], poison := 0 }
/-- A module of a time source, locked, with a peer of a lower or higher id, stepped or not. -/
def ck (source : Nat) (locked : Bool) (peer : Nat) (stepped : Bool) : State :=
  { State.reset with time := 1000, fabric := { Fabric.reset with
      id := 2, timeSource := source, locked := locked, hops := [(peer, 1)], stepped := stepped, ports := [(0, po none 0)] } }
/-- The executing strand's atomic outstanding at a peer. -/
def oa : State :=
  { cm 1 0 with fabric := { Fabric.reset with outstanding := [(1, { strand := 1, launch := 0, stale := 0, report := none, hub := .none, core := none, reuse := 2, places := [31], xfer := none, sent := 0, home := 2, vaddr := 124, req :=
      { rq 0 (.atomic .add .i32) with tag := 1, asid := 7 } })] } }


theorem flit_parts (seq : Nat) (c : Half) (hs : seq < 2) :
    let f := leBytes 6 (seq * 2 ^ 32) ++ leBytes 2 c.toNat ++ List.replicate 56 0
    flitClear f = leBytes 6 (seq * 2 ^ 32) ++ [0, 0] ++ List.replicate 56 0 ∧ flitHeader f = seq * 2 ^ 32 + c.toNat * 2 ^ 48 := by
  refine ⟨rfl, ?_⟩
  have hc := c.isLt
  obtain rfl | rfl : seq = 0 ∨ seq = 1 := by omega
  all_goals
    simp [flitHeader, leBytes, leNat, List.range, List.range.loop]
    omega
theorem flit_ok (seq : Nat) (hs : seq < 2) : flitOk (fl0 seq) = true ∧ bits (flitHeader (fl0 seq)) 39 32 = seq := by
  obtain ⟨c, e⟩ : ∃ c, crc16 (leBytes 6 (seq * 2 ^ 32) ++ [0, 0] ++ List.replicate 56 0) = c := ⟨_, rfl⟩
  obtain ⟨hk, hh⟩ := flit_parts seq c hs
  have hc := c.isLt
  rw [fl0, e, flitOk, hk, hh, e]
  simp only [bits, Bool.and_eq_true, beq_iff_eq, bne_iff_ne]
  refine ⟨⟨⟨?_, ?_⟩, ?_⟩, ?_⟩ <;> first | omega | (apply decide_eq_true; omega)
/-- A flit of an unassigned KIND, the next in sequence (SEQ 0 after 255) and one that is not. -/
theorem test_w_FabricEvents_links : (∀ r k n, cfind (fb r k n).fabric.ports 0 = some (po r k)) ∧ (∀ r k, (po r k).up = true)
    ∧ (∀ r k, (po r k).retraining = r) ∧ flitOk (leBytes 64 (5 * 2 ^ 26)) = false ∧ flitOk (fl0 0) = true
    ∧ bits (flitHeader (fl0 0)) 39 32 = ((po none 6).rxSeq + 1) % 256 ∧ flitOk (fl0 1) = true
    ∧ bits (flitHeader (fl0 1)) 39 32 ≠ ((po none 7).rxSeq + 1) % 256
    ∧ (∀ x ∈ [(255, 2), (130, 127), (1, 0), (129, 128)], let p : Port := { po none 7 with seen := x.1 }
        p.seen < 256 ∧ x.2 < 256 ∧ (p.seen + x.2) % 256 = bits (flitHeader (fl0 1)) 39 32) ∧ (fb (some 0) 8 999999).time < 0 + 1000000
    ∧ 0 + 1000000 ≤ (fb (some 0) 8 1000000).time := by
  refine ⟨fun r k n => rfl, fun r k => rfl, fun r k => rfl, ?_, (flit_ok 0 (by decide)).1, (flit_ok 0 (by decide)).2, (flit_ok 1 (by decide)).1,
    by rw [(flit_ok 1 (by decide)).2]; decide, by rw [(flit_ok 1 (by decide)).2]; decide, by decide, by decide⟩
  rw [flitOk, show bits (flitHeader (leBytes 64 (5 * 2 ^ 26))) 29 26 = 5 by decide +kernel]
  simp

/-- A requester with an import entry and one without; late, failed and performed answers to a strand's atomic. -/
theorem test_w_FabricEvents_peers : (fb none 0 0).fabric.imports.find? (fun e => e.1 == (2, 5)) = none
    ∧ (fb none 0 0).fabric.imports.find? (fun e => e.1 == (3, 5)) = some ((3, 5), 7, false) ∧ 0x200000 % 128 = 0
    ∧ (fb none 0 0).translate 7 (false && false) true false (128 * 0) = .ok 0x200000 true true
    ∧ (fb none 0 0).translate 7 (false && false) false true (128 * 0) = .ok 0x200000 true true
    ∧ (∀ w, w < 32 → (fb none 0 0).poisoned (0x200000 + 4 * w) = false) ∧ (fb none 0 0).Cold
    ∧ cfind oa.fabric.outstanding 2 = none ∧ (∃ o, cfind oa.fabric.outstanding 1 = some o ∧ o.hub = .none ∧ o.xfer = none ∧ oa.strandAt o.strand = some st0
      ∧ o.req.op = .atomic .add .i32) ∧ oa.level st0 = 0 ∧ cfind oa.launches (oa.team st0.team).launch = some la0 ∧ la0.torn = none := by
  refine ⟨by decide, by decide, by decide, by decide, by decide, by decide, ⟨fun c h => (by cases h), fun k h => ?_⟩, rfl, ⟨_, rfl, rfl, rfl, rfl, rfl⟩, by decide,
    rfl, rfl⟩
  obtain rfl : k = (0, cl0) := by simpa [fb, cm, mk] using h
  rfl

/-- A master and a follower; each time source; a span's hashes that agree and that do not. -/
theorem test_w_FabricEvents_time : (ck 1 true 3 false).timeMaster = true ∧ (ck 1 false 1 false).timeMaster = false
    ∧ (∀ b, (ck 1 b 1 true).fabric.stepped = true ∧ (ck 1 b 1 false).fabric.stepped = false ∧ (ck 1 b 1 b).fabric.timeSource = 1)
    ∧ (ck 2 true 3 false).fabric.timeSource = 2 ∧ (ck 1 true 3 false).fabric.timeSent < (ck 1 true 3 false).time / 1000
    ∧ (fb none 0 999).time / 1000 ≤ (fb none 0 999).fabric.timeSent
    ∧ (sp 0).unmatched 5 = some (tk0 .waiting 0x101, sx) ∧ [(0, Config.packetHash (hashedBytes (0x101 : BitVec 512)))].length = sx.ndev ∧ (tk0 .waiting 0x101).launchNo = 0
    ∧ (sp 0).spanScope sx = true ∧ (∃ h ∈ [(0, ~~~ Config.packetHash (hashedBytes (0x101 : BitVec 512)))], h.2 ≠ Config.packetHash (hashedBytes 0x101))
    ∧ ([] : List (Nat × DWord)).length ≠ sx.ndev ∧ cfind (sp 0).launches 1 = none ∧ cfind (dm none 0).launches 1 = some (dl none) ∧ (dm none 0).strands = [] := by
  refine ⟨by decide, by decide, fun b => ⟨rfl, rfl, rfl⟩, rfl, by decide, by decide, by decide +kernel, rfl, rfl, by decide, ⟨_, List.mem_singleton.2 rfl, fun h => ?_⟩, by decide, rfl, rfl, rfl⟩
  have := congrArg (fun x : DWord => x.getLsbD 0) h
  simp at this

/-- A strand at the start of its overlay, a scheduler's turn and an event's; a scheduler without a ready strand. -/
def sr (w : Word) (x : Turn) : State :=
  { mk st0 with turns := [x], launches := [(1, { la0 with imems := [(0, { planes := { Planes.empty with a := { bytes := writeWord [] 0 w, poison := [] } } })] })] }

theorem test_w_StepRunsDecoded : (sr 0x10010203 (.issue 0 false)).choose 0 false = some (1, st0) ∧ (sr 0x10010203 (.issue 0 false)).timerReady st0 = false
    ∧ (sr 0x10010203 (.issue 0 false)).fetchPoisoned st0 = false ∧ (sr 0x10010203 (.issue 0 false)).strandAt 1 = some st0
    ∧ decodeWord ((sr 0x10010203 (.issue 0 false)).fetchWord st0) = .ok (.add 1 2 3)
    ∧ decodeWord ((sr 0x00000000 (.issue 0 false)).fetchWord st0) = .error .unassigned
    ∧ (sr 0x10010203 (.issue 0 true)).choose 0 true = none ∧ (sr 0 (.event (.timerExpiry 1))).turns = [.event (.timerExpiry 1)]
    ∧ (sr 0x10010203 (.issue 0 false)).firstToMeet 1 st0 = (1, st0) ∧ (sr 0x10010203 (.issue 0 false)).nextWake = none
    ∧ (sr 0x10010203 (.issue 0 false)).nextIssue = some (1, st0) := by
  refine ⟨rfl, by decide, by decide, rfl, rfl, rfl, rfl, rfl, rfl, by decide, rfl⟩

/-- A strand at a NOP that waits, for a pass or for TIMER, which is due or not. -/
def sw (due : Bool) : Strand := { st0 with wait := .pass, timerDue := due }
theorem test_w_StepRunsDecoded_turns : (∀ due ∈ [false, true], let s : State := { sr 0x01000000 (.wake 1) with strands := [(1, sw due)] }
      s.strandAt 1 = some (sw due) ∧ s.wakeable 1 (sw due) = true ∧ s.timerReady (sw due) = due ∧ s.fetchPoisoned (sw due) = false
      ∧ s.nextWake = some (1, sw due))
    ∧ (sr 0 (.wake 1)).wakeable 1 st0 = false ∧ State.reset.turns = [] ∧ State.reset.nextWake = none ∧ State.reset.nextIssue = none
    ∧ State.reset.issueOn (State.reset.busyCores.filter (fun c => State.reset.owed (clusterOf c))) = none := by
  refine ⟨by decide, by decide, rfl, rfl, rfl, rfl⟩

theorem test_w_CodecRoundTrip : (Instr.meet 63 .launch 15).wellFormed = true ∧ (encode (.meet 63 .launch 15)).isSome = true
    ∧ (Instr.meet 63 .launch 15).isEvent = false ∧ (Instr.timerExpiry 1).wellFormed = true ∧ (Instr.timerExpiry 1).isEvent = true := by decide
theorem test_w_WordsHaveOneMeaning : decodeWord 0xD1010249 = .ok (.tvr 1 2 2 9) := rfl
theorem test_w_StepKeepsMemoryCanonical : Memory.wf State.reset.mem = true ∧ ∃ t, step State.reset = .next t := ⟨by decide, _, rfl⟩

/-- A strand for conversions: v3 of I32, v4 of I8, the others F32, in a mode type. -/
def vc (m : Half) : Strand := ((vst m .f32).setV 3 (splat .i32 3)).setV 4 (splat .i8 4)
/-- Lane addresses of v14 and v0 as an access of the strand names them. -/
def gathOf (x : Strand) : List DWord := (x.getV 14).lanes.map (fun w => x.getS 1 + w.zeroExtend 64)
/-- The lanes of a consecutive access at s1. -/
def lineOf (x : Strand) : List DWord := (List.range 32).map (fun j => x.getS 1 + BitVec.ofInt 64 0 + BitVec.ofNat 64 (4 * j))

/-- The types, tags and registers of the clauses without memory. -/
theorem test_w_FormsComplete_vectors : (∀ m, (mk (vc m)).Plain (vc m)) ∧ ((mk (vc 8)).headerOf (vc 8)).trapen = 0
    ∧ 15 < 8 * ((mk (vc 8)).headerOf (vc 8)).vregs ∧ (vc 8).ty = .f32 ∧ (vc 1).ty = .i32 ∧ (vc 9).ty = .f16 ∧ (vc 0x17).ty = .pl false 8
    ∧ ((vc 8).getV 1).tag = .f32 ∧ ((vc 1).getV 3).tag = .i32 ∧ cvtPair ((vc 8).getV 3).tag (vc 8).ty = true
    ∧ packPair ((vc 9).getV 1).tag (vc 9).ty = true ∧ ((vc 9).getV 2).tag = ((vc 9).getV 1).tag
    ∧ unpkPair ((vc 8).getV 4).tag (vc 8).ty 3 = true ∧ isFlt ((vc 0x17).getV 1).tag = true
    ∧ ∀ e ∈ (mk (vc 8)).strands, e.2.crit = false := by
  refine ⟨fun m => mk_plain _ rfl rfl rfl rfl, ?_⟩
  decide

/-- Lanes that name the page's first word, or the scratchpad's; operands of I32 and F32. -/
theorem test_w_FormsComplete_accesses : (mk vx).Plain vx ∧ (∀ x ∈ [va 1 .i32, va 8 .f32], (mk x).team x.team = tm0 ∧ (mk x).agentOf x = ag
      ∧ (x.getV 14).tag ∈ [Tag.i32, .n32, .raw] ∧ (x.getV 15).tag = x.ty ∧ (x.getV 13).tag = .raw)
    ∧ (∀ xs ∈ [gathOf vx, lineOf vx], (∀ j ∈ lanesOf vx.active, (xs.getD j 0).toNat % 4 = 0 ∧ (mk vx).tlbMiss ag (xs.getD j 0).toNat = false
        ∧ (mk vx).spPoisoned vx.team (xs.getD j 0) 4 = false)
      ∧ (mk vx).loadFailure ag vx xs vx.active 4 2 = none ∧ (mk vx).storeFailure ag xs vx.active = none
      ∧ (mk vx).spFailure vx.team xs vx.active = none)
    ∧ (∀ j ∈ lanesOf (va 1 .i32).active, (mk (va 1 .i32)).checkAtomic ag ((gathOf (va 1 .i32)).getD j 0).toNat = .ok 0x200000 true true) := by
  refine ⟨mk_plain _ rfl rfl rfl rfl, ?_⟩
  decide

/-- A strand whose arrival at barrier 1 is marked. -/
def marked (lv : BarLevel) : Strand := { st0 with arrivals := [(256 + barKey lv 1, 1)] }
/-- What the clauses of synchronisation ask. -/
theorem test_w_FormsComplete_sync : (∀ lv ∈ [BarLevel.team, .gang, .range, .launch], (mk (marked lv)).phaseDone (marked lv) lv 1 = true
      ∧ (cfind (marked lv).arrivals (256 + barKey lv 1)).isSome = true ∧ 1 < barCount ((mk (marked lv)).headerOf (marked lv)) lv)
    ∧ (mk st0).Acked st0 ∧ (mk st0).storeFailure ag [top] lane0 = none
    ∧ (0x100007FFF : DWord).toNat / 2 ^ 15 % 2 ^ 17 = 0
    ∧ cfind ((mk st0).cluster ((0x100007FFF : DWord).toNat / 2 ^ 12 % 8)).knits ((0x100007FFF : DWord).toNat % 2 ^ 12) = none
    ∧ ((mk st0).knitOf st0.team).members.length ≤ 1
    ∧ (mk st0).cbuf 1 0 = ring true ∧ (mk st0).cbuf 1 1 = ring false ∧ ((mk st0).gangQueue st0 0).pushers = []
    ∧ ((gq 32 st0).gangQueue st0 0).poppers = [] ∧ ((mk st0).launchOf st0).terminated = [] ∧ (mk st0).xferOf st0.team 0 = none := by
  refine ⟨by decide, rfl, by decide, ?_⟩
  decide

end Sys2Proof.Tests
end

section
/-!
SUPPORT. Registers given lane by lane, words packed from elements, and what an element-wise operation makes of them (R24, R25, R29, R64).
-/
namespace Sys2Proof.Machine

/-! ### Lanes -/

theorem VReg.lane_ofFn (t : Tag) (f : Nat → Word) {j : Nat} (hj : j < 32) : (VReg.ofFn t f).lane j = f j := by
  simp [VReg.lane, VReg.ofFn, hj]

@[simp] theorem VReg.merge_tag (old : VReg) (t : Tag) (act : Word) (new : Nat → Word) : (old.merge t act new).tag = t := rfl

theorem VReg.lane_merge (old : VReg) (t : Tag) (act : Word) (new : Nat → Word) {j : Nat} (hj : j < 32) :
    (old.merge t act new).lane j = if laneOn act j then new j else old.lane j := VReg.lane_ofFn t _ hj

/-! ### Elements packed in a lane (R24, R25) -/

/-- R24: a lane holds a whole number of elements. -/
theorem elemBits_dvd (t : Tag) : elemBits t ∣ 32 := by
  unfold elemBits
  split <;> decide

theorem elemBits_mul_elems (t : Tag) : elemBits t * elems t = 32 := Nat.mul_div_cancel' (elemBits_dvd t)

theorem elemBits_pos (t : Tag) : 0 < elemBits t := Nat.pos_of_dvd_of_pos (elemBits_dvd t) (by decide)

/-- Numbers put together from their low `w` bits, the first lowest: they fill `w` bits each. -/
theorem packed_lt (w : Nat) (l : List Nat) : l.foldr (fun x acc => x % 2 ^ w + 2 ^ w * acc) 0 < 2 ^ (w * l.length) := by
  induction l with
  | nil => exact Nat.two_pow_pos _
  | cons x l ih =>
    have hx : x % 2 ^ w < 2 ^ w := Nat.mod_lt _ (Nat.two_pow_pos w)
    have hacc := Nat.mul_le_mul_left (2 ^ w) (Nat.succ_le_of_lt ih)
    rw [List.foldr_cons, List.length_cons, Nat.mul_succ, Nat.add_comm (w * _), Nat.pow_add]
    rw [Nat.mul_succ] at hacc
    omega

/-- The `k`-th of them is read back as bits `w * k` to `w * k + w - 1`. -/
theorem packed_elem (w : Nat) (l : List Nat) (k : Nat) (hk : k < l.length) :
    l.foldr (fun x acc => x % 2 ^ w + 2 ^ w * acc) 0 / 2 ^ (w * k) % 2 ^ w = l[k] % 2 ^ w := by
  induction l generalizing k with
  | nil => exact absurd hk (Nat.not_lt_zero k)
  | cons x l ih =>
    cases k with
    | zero => rw [List.foldr_cons, Nat.mul_zero, Nat.pow_zero, Nat.div_one, Nat.add_mul_mod_self_left, Nat.mod_mod, List.getElem_cons_zero]
    | succ k =>
      have hx : x % 2 ^ w < 2 ^ w := Nat.mod_lt _ (Nat.two_pow_pos w)
      rw [List.foldr_cons, Nat.mul_succ, Nat.add_comm (w * k), Nat.pow_add, ← Nat.div_div_eq_div_mul,
        Nat.add_mul_div_left _ _ (Nat.two_pow_pos w), Nat.div_eq_of_lt hx, Nat.zero_add, List.getElem_cons_succ]
      exact ih k (Nat.lt_of_succ_lt_succ hk)

/-- Element `k` of a packed lane is the low bits of the `k`-th element put in. -/
theorem wordOfElems_elem (t : Tag) {l : List Nat} (hl : l.length = elems t) {k : Nat} (hk : k < l.length) :
    (wordOfElems t l).toNat / 2 ^ (elemBits t * k) % 2 ^ elemBits t = l[k] % 2 ^ elemBits t := by
  have hlt := packed_lt (elemBits t) l
  rw [hl, elemBits_mul_elems] at hlt
  rw [wordOfElems, BitVec.toNat_ofNat, Nat.mod_eq_of_lt hlt, packed_elem _ _ _ hk]

/-! ### Element-wise maps (R29, R64) -/

@[simp] theorem mapElems_tag (t : Tag) (act : Word) (old : VReg) (f : Nat → FR) : (mapElems t act old f).1.tag = t := rfl

theorem mapElems_lane_inactive (t : Tag) (act : Word) (old : VReg) (f : Nat → FR) {j : Nat} (hj : j < 32) (h : laneOn act j = false) :
    (mapElems t act old f).1.lane j = old.lane j := by
  rw [mapElems, VReg.lane_merge old t act _ hj]
  simp [h]

theorem mapElems_lane_active (t : Tag) (act : Word) (old : VReg) (f : Nat → FR) {j : Nat} (hj : j < 32) (h : laneOn act j = true) :
    (mapElems t act old f).1.lane j = wordOfElems t ((laneResults t f j).map (·.bits)) := by
  rw [mapElems, VReg.lane_merge old t act _ hj, if_pos h]

theorem mapElems_elemAt (t : Tag) (act : Word) (old : VReg) (f : Nat → FR) {j k : Nat} (hj : j < 32) (h : laneOn act j = true)
    (hk : k < elems t) :
    elemAt t (mapElems t act old f).1 (j * elems t + k) = (f (j * elems t + k)).bits % 2 ^ elemBits t := by
  have hdiv : (j * elems t + k) / elems t = j := by
    rw [Nat.add_comm, Nat.add_mul_div_right _ _ (by omega), Nat.div_eq_of_lt hk, Nat.zero_add]
  have hmod : (j * elems t + k) % elems t = k := by rw [Nat.mul_add_mod', Nat.mod_eq_of_lt hk]
  rw [elemAt, hdiv, hmod, mapElems_lane_active t act old f hj h,
    wordOfElems_elem t (by simp [laneResults]) (by simpa [laneResults] using hk)]
  simp [laneResults]

/-- R29: the flags of an element-wise map, gathered lane by lane and in each active lane element by element. -/
theorem mapElems_flags (t : Tag) (act : Word) (old : VReg) (f : Nat → FR) :
    (mapElems t act old f).2 = (List.range 32).foldl (fun acc j => if laneOn act j then
      (List.range (elems t)).foldl (fun acc k => acc ||| (f (j * elems t + k)).fl) acc else acc) 0 := by
  simp only [mapElems, orFlags, lanesOf, laneResults, List.foldl_flatMap, List.foldl_filter, List.foldl_map]

/-- Settles O19: an element-wise operation is an element-wise map, of which the rules above say what each lane, each element and the flags are. -/
theorem vectorElementwise : Obligations.VectorElementwise := by
  intro op ty v act a b d _
  exact ⟨mapElems_tag .., fun _ => mapElems_lane_inactive ty act d _, fun _ hj h _ => mapElems_elemAt ty act d _ hj h, mapElems_flags ..⟩

end Sys2Proof.Machine
end

section
/-!
SUPPORT. Values of integer elements, which wrap or are clamped (R25, R34, R99), and NaN results (R28).
-/
namespace Sys2Proof.Machine

/-! ### Integers in a range -/

/-- The low `w` bits of an integer in the two's-complement range of `w` bits read back as that integer. -/
theorem signed_emod_toNat {w : Nat} (hw : 0 < w) {z : Int} (lo : -(2 ^ (w - 1)) ≤ z) (hi : z ≤ 2 ^ (w - 1) - 1) :
    signed w (z % 2 ^ w).toNat = z := by
  have hpow : (2 : Int) ^ w = 2 * 2 ^ (w - 1) := by
    calc (2 : Int) ^ w = 2 ^ (w - 1 + 1) := by rw [Nat.sub_add_cancel hw]
      _ = 2 * 2 ^ (w - 1) := by rw [Int.pow_succ, Int.mul_comm]
  have hcast : ((2 ^ (w - 1) : Nat) : Int) = 2 ^ (w - 1) := by norm_cast
  unfold signed
  rcases Int.lt_or_le z 0 with hneg | hpos
  · have hz : z % 2 ^ w = z + 2 ^ w := by
      rw [← Int.add_emod_right, Int.emod_eq_of_lt (by omega) (by omega)]
    rw [hz, if_neg (by omega)]
    omega
  · rw [Int.emod_eq_of_lt hpos (by omega), if_pos (by omega), Int.toNat_of_nonneg hpos]

theorem intMin_le_intMax (t : Tag) : intMin t ≤ intMax t := by
  have h1 : (0 : Int) < 2 ^ (elemBits t - 1) := Int.pow_pos (by decide)
  have h2 : (0 : Int) < 2 ^ elemBits t := Int.pow_pos (by decide)
  unfold intMin intMax
  split <;> omega

theorem intWrap_eq_emod (t : Tag) (z : Int) : (intWrap t z : Int) = z % 2 ^ elemBits t :=
  Int.toNat_of_nonneg (Int.emod_nonneg _ (Int.ne_of_gt (Int.pow_pos (by decide))))

theorem intWrap_lt (t : Tag) (z : Int) : intWrap t z < 2 ^ elemBits t := by
  have h : z % 2 ^ elemBits t < 2 ^ elemBits t := Int.emod_lt_of_pos _ (Int.pow_pos (by decide))
  rw [← intWrap_eq_emod] at h
  exact_mod_cast h

/-- R25: an integer in the range of a type is the value of its element. -/
theorem intOf_intWrap (t : Tag) {z : Int} (lo : intMin t ≤ z) (hi : z ≤ intMax t) : intOf t (intWrap t z) = z := by
  unfold intMin at lo
  unfold intMax at hi
  unfold intOf
  split at lo
  case isTrue hs =>
    rw [if_pos hs] at hi ⊢
    exact signed_emod_toNat (elemBits_pos t) lo hi
  case isFalse hs =>
    rw [if_neg hs] at hi ⊢
    rw [intWrap_eq_emod, Int.emod_eq_of_lt lo (by omega)]

/-- R34: a clamped result is the value of the range nearest to the exact one. -/
theorem intOf_intClamp (t : Tag) (z : Int) : intOf t (intClamp t z) = max (intMin t) (min (intMax t) z) :=
  intOf_intWrap t (Int.le_max_left _ _) (Int.max_le.mpr ⟨intMin_le_intMax t, Int.min_le_left _ _⟩)

/-- R25, R99: an integer result fits its element; it wraps without SAT and is clamped with it. -/
theorem intResult_fits (t : Tag) (sat : Bool) (z : Int) :
    intResult t sat z < 2 ^ elemBits t ∧ (sat = false → (intResult t sat z : Int) = z % 2 ^ elemBits t)
      ∧ (sat = true → intOf t (intResult t sat z) = max (intMin t) (min (intMax t) z)) := by
  cases sat with
  | false => exact ⟨intWrap_lt t z, fun _ => intWrap_eq_emod t z, nofun⟩
  | true => exact ⟨intWrap_lt t _, nofun, fun _ => intOf_intClamp t z⟩

/-! ### Minimum, maximum and division by zero (R99) -/

theorem int_min_eq (t : Tag) (sat : Bool) (a b d : Nat) : VOp.min.int t sat a b d = if intOf t a ≤ intOf t b then a else b := rfl

theorem int_max_eq (t : Tag) (sat : Bool) (a b d : Nat) : VOp.max.int t sat a b d = if intOf t a ≤ intOf t b then b else a := rfl

theorem int_min_mem (t : Tag) (sat : Bool) (a b d : Nat) : VOp.min.int t sat a b d = a ∨ VOp.min.int t sat a b d = b := by
  rw [int_min_eq]
  split
  · exact .inl rfl
  · exact .inr rfl

theorem intOf_int_min (t : Tag) (sat : Bool) (a b d : Nat) : intOf t (VOp.min.int t sat a b d) = min (intOf t a) (intOf t b) := by
  rw [int_min_eq, apply_ite (intOf t), Int.min_def]

theorem intOf_int_max (t : Tag) (sat : Bool) (a b d : Nat) : intOf t (VOp.max.int t sat a b d) = max (intOf t a) (intOf t b) := by
  rw [int_max_eq, apply_ite (intOf t), Int.max_def]

theorem int_div_zero (t : Tag) (sat : Bool) (a d : Nat) : VOp.div.int t sat a 0 d = 2 ^ elemBits t - 1 := by
  simp [VOp.int, intDiv]

/-! ### NaN sources (R28) -/

theorem FV.sig_eq (x : FV) : x.sig = if x = .nan true then fNV else 0 := by
  cases x with
  | nan s => cases s <;> rfl
  | inf n => rfl
  | fin n m e => rfl

/-- Two data raise invalid where one of them is a signalling NaN. -/
theorem FV.sig_or (x y : FV) : x.sig ||| y.sig = if x = .nan true ∨ y = .nan true then fNV else 0 := by
  rw [FV.sig_eq, FV.sig_eq]
  by_cases hx : x = .nan true <;> by_cases hy : y = .nan true <;> simp [hx, hy]

section
variable {x y : FV} (h : x.isNan = true ∨ y.isNan = true)
include h

theorem Fmt.add_nan (f : Fmt) (v : FEnv) : f.add v x y = f.nanFrom (x.sig ||| y.sig) := if_pos (by simpa using h)

theorem Fmt.mul_nan (f : Fmt) (v : FEnv) : f.mul v x y = f.nanFrom (x.sig ||| y.sig) := if_pos (by simpa using h)

theorem Fmt.div_nan (f : Fmt) (v : FEnv) : f.div v x y = f.nanFrom (x.sig ||| y.sig) := if_pos (by simpa using h)

/-- R28: the sum, the product and the quotient of data one of which is a NaN. -/
theorem Fmt.arith_nan (f : Fmt) (v : FEnv) : ∀ r ∈ [f.add v x y, f.mul v x y, f.div v x y],
    r.bits = f.qnan ∧ r.fl = if x = .nan true ∨ y = .nan true then fNV else 0 := by
  rw [Fmt.add_nan h, Fmt.mul_nan h, Fmt.div_nan h, FV.sig_or]
  simp [Fmt.nanFrom]

end

theorem Fmt.qnan_values : fmtF32.qnan = 0x7FC00000 ∧ fmtF16.qnan = 0x7E00 ∧ fmtBF16.qnan = 0x7FC0 ∧ fmtE4M3.qnan = 0x7F
    ∧ fmtE5M2.qnan = 0x7E := by decide

/-- Settles O20: the integer forms are `intResult` of the exact value, and a NaN source decides the floating ones before any arithmetic. -/
theorem elementValues : Obligations.ElementValues := by
  refine ⟨fun ty sat a b d _ _ _ _ => ?_, fun f v x y h _ => ⟨Fmt.arith_nan h f v, Fmt.qnan_values⟩⟩
  refine ⟨intResult_fits .., intResult_fits .., intResult_fits .., intResult_fits .., intResult_fits ..,
    int_min_mem .., intOf_int_min .., intOf_int_max .., ?_⟩
  rintro rfl
  exact int_div_zero ty sat a d

end Sys2Proof.Machine
end

section
/-!
SUPPORT. The checks of an element-wise instruction in their order, and what it does where they pass (R26, R57, R97).
-/
namespace Sys2Proof.Machine

/-! ### Checks (R57, R97) -/

theorem withRegs_declared {s : State} {st : Strand} {regs : List Nat} (h : ∀ r ∈ regs, r < 8 * (s.headerOf st).vregs) (k : Out) :
    withRegs s st regs k = k := if_pos (by simpa using h)

theorem withRegs_undeclared {s : State} {st : Strand} {regs : List Nat} (h : ∃ r ∈ regs, 8 * (s.headerOf st).vregs ≤ r) (k : Out) :
    withRegs s st regs k = illegal s st 0 := if_neg (by simpa using h)

theorem withTags_none {s : State} {st : Strand} {checks : List (Bool × Nat × Tag)} (h : firstBad checks = none) (k : Out) :
    withTags s st checks k = k := by
  rw [withTags, h]

theorem withTags_some {s : State} {st : Strand} {checks : List (Bool × Nat × Tag)} {b : Bad} (h : firstBad checks = some b) (k : Out) :
    withTags s st checks k = formatTrap s st b := by
  rw [withTags, h]

@[simp] theorem headerOf_setV (s : State) (st : Strand) (n : Nat) (v : VReg) : s.headerOf (st.setV n v) = s.headerOf st := by
  simp [State.headerOf, State.launchOf]

/-! ### Element-wise instructions (R97–R101) -/

/-- What an element-wise operation makes of the registers `d`, `a` and `b` of a strand under its mode and its active lanes. -/
def Strand.elementwise (st : Strand) (op : VOp) (d a b : Nat) : VReg × IFlags :=
  op.apply st.ty (envOf st.mode) st.active (st.getV a) (st.getV b) (st.getV d)

section
variable {s : State} {st : Strand} {i : Instr} {op : VOp} {d a b : Nat}
  (h : s.strand? = some st) (hi : exec i s = vec2 op d a b s)
include h hi

/-- R57: a register beyond those declared traps before the tags are looked at. -/
theorem vec2_traps_undeclared (hc : st.CanTrap) (hr : ∃ r ∈ [d, a, b], 8 * (s.headerOf st).vregs ≤ r) : s.TrapsAtIssue st i 0x01 0 0 := by
  rw [State.TrapsAtIssue, hi, vec2, onCur_eq h, withRegs_undeclared hr, illegal_enters h hc]
  rfl

variable (hr : ∀ r ∈ [d, a, b], r < 8 * (s.headerOf st).vregs)
include hr

/-- An instruction whose registers are declared comes to its tag checks. -/
theorem exec_vec2_declared : exec i s = withTags s st
    [stage1 st op.accepts, stage2 st (isTy st) 1 a, stage2 st (isTy st) 2 b, stage2 st (fun t => op != .mad || isTy st t) 3 d]
    (finish s (st.setV d (st.elementwise op d a b).1) (st.elementwise op d a b).2) := by
  rw [hi, vec2, onCur_eq h, withRegs_declared hr]
  rfl

theorem vec2_completes (hop : op.accepts st.ty = true) (hta : (st.getV a).tag = st.ty) (htb : (st.getV b).tag = st.ty)
    (htd : op = .mad → (st.getV d).tag = st.ty) (hfl : s.Unmasked st (st.elementwise op d a b).2) :
    s.WritesVec st i d (st.elementwise op d a b).1 (st.elementwise op d a b).2 := by
  rw [State.WritesVec, exec_vec2_declared h hi hr, withTags_none, finish_done]
  · rwa [headerOf_setV]
  · simpa [firstBad, stage1, stage2, hop, hta, htb, isTy] using htd

/-- R97 stage 1. -/
theorem vec2_traps_modeType (hc : st.CanTrap) (hop : op.accepts st.ty = false) : s.TrapsAtIssue st i 0x03 (tagCode st.ty) 0 := by
  have hbad : stage1 st op.accepts = (false, 0, st.ty) := by rw [stage1, hop]
  rw [State.TrapsAtIssue, exec_vec2_declared h hi hr, hbad, withTags_some rfl, formatTrap_enters h hc]
  simp [Bad.detail, Trap.atIssue]

/-- R97 stage 2, which the first source comes to once the mode type is accepted. -/
theorem vec2_traps_source (hc : st.CanTrap) (hop : op.accepts st.ty = true) (hta : (st.getV a).tag ≠ st.ty) :
    s.TrapsAtIssue st i 0x03 (64 + tagCode (st.getV a).tag) 0 := by
  have hok : stage1 st op.accepts = (true, 0, st.ty) := by rw [stage1, hop]
  have hbad : stage2 st (isTy st) 1 a = (false, 1, (st.getV a).tag) := by simp [stage2, isTy, hta]
  rw [State.TrapsAtIssue, exec_vec2_declared h hi hr, hok, hbad, withTags_some rfl, formatTrap_enters h hc]
  simp [Bad.detail, Trap.atIssue]

end

/-- Settles O18: each instruction is `vec2` of its operation, one of a single source with that source given twice. -/
theorem vectorArithmetic : Obligations.VectorArithmetic := by
  constructor
  · intro s st d a b h n does
    have completes {i : Instr} {op : VOp} {b : Nat} (hi : exec i s = vec2 op d a b s) : does i op b :=
      fun hd ha hb => vec2_completes h hi (by simp [hd, ha, hb, n])
    exact ⟨completes rfl, completes rfl, completes rfl, completes rfl, completes rfl, completes rfl, completes rfl, completes rfl,
      completes rfl, completes rfl, completes rfl, completes rfl, completes rfl, completes rfl, completes rfl, completes rfl⟩
  · intro s st d a b h hc n traps
    have inOrder {i : Instr} {op : VOp} (hi : exec i s = vec2 op d a b s) : traps i op :=
      ⟨fun hr => vec2_traps_undeclared h hi hc (by simpa using hr),
        fun hd ha hb => vec2_traps_modeType h hi (by simp [hd, ha, hb, n]) hc,
        fun hd ha hb => vec2_traps_source h hi (by simp [hd, ha, hb, n]) hc⟩
    exact ⟨inOrder rfl, inOrder rfl, inOrder rfl, inOrder rfl, inOrder rfl, inOrder rfl, inOrder rfl, inOrder rfl⟩

end Sys2Proof.Machine
end

section
/-!
SUPPORT. Which instructions have a word, and that a word is read back from its bytes as they are stored (R49–R54).
-/
namespace Sys2Proof.Laws.Codec

set_option Elab.async false

/-- R50–R55: what a well-formed instruction is encoded to decodes to it, by the law of its constructor. -/
theorem decodeWord_of_encode : ∀ i, Statement i :=
  Instr.rec nop br call brz brnz bre brne jr ret trap eret exit bkpt callr add sub mul mulh mulhn div divn rem remn and or xor shl shr sra
    slt sltn min max minn maxn clz popc addi shli shri srai andi li lih mfsr mtsr mode modes emset emget pand por pxor pandn pnot ppopc
    pffs pfroms ptos vadd vsub vmul vmad vmin vmax vabs vneg vdiv vrcp vrsq vsqrt vexp2 vlog2 vrnd vmulh vand vor vxor vnot vshl vshr vclz
    vpopc vceq vcne vclt vcle vsel vbcst vtos vsetl vshuf vlane vprefix vmatch vballot vredadd vredmin vredmax vscan vcvt vcvth vpack
    vunpk vretag vgettag ldb ldh ldw ldd stb sth stw std vld vst vldc vstc pref spld spst spldc spstc spaadd spacas aadd amin amax aand
    aor axor axch acas afadd redadd redfadd fence ldacq strel arrive await meet crit uncrit kjoin kleave kinfo cbwait cbpop cbpush cbinfo
    qpush qpop launch signal flip flipx flipc xfer xwait xstat tld tst tzero tmmaTile tmmaDesc tsoft tadd tmul tscl texp2 tcvt tmax
    trowred tfence twait force tmap trv tvr ckpt sigchk perf time cyc settimer idemp sysrd syswr pflip haltc tlbinv flipTakesEffect
    operandLogReplay timerExpiry strandPromotion critDeferralExpiry transferStart walkerBeat gangPlacement launchPassover
    terminationSample invalidInstructionWord spanMatchTimeout requestTimeout linkRetrainTimeout hallCapExpiry timeFlitSend notifyWrite
    packetRead taskReady launchPacket pinPacket unpinPacket signalPacket nopPacket taskRetirement commandTimeout coreError graphPoison
    preemption hotSpotLimit migration migrationTransferRebind thermalClockLimit thermalTrip phaseLoss ballast powerControlTick patrolScrub
    ropeCompare logFullCheckpoint hostMemoryWrite hostMemoryRead queueRecordWrite queueRecordRead spanRecordWrite contextTearDown
    meventClear registerWrite moduleReset startTimeout bootRetry spdmRequest tdispLock tdispError hallCapMessage ieee1588Message
    flitReceive peerRequest peerResponse timeFlitReceive spanHashCompare queueDescriptorError partitionReconfiguration firmwareReady
    startStageFailure newImageWrite tdispRun tdispConfigUnlocked linkRetrained ptmMessage managementPortFrame thermalLimitRelease
    peerBarrierArrival

theorem encode_isSome (i : Instr) : (encode i).isSome = !i.isEvent := by
  cases i <;> rfl

theorem encode_of_not_isEvent {i : Instr} (h : i.isEvent = false) : ∃ w, encode i = some w :=
  Option.isSome_iff_exists.mp (by rw [encode_isSome, h]; rfl)

theorem encode_of_isEvent {i : Instr} (h : i.isEvent = true) : encode i = none :=
  Option.not_isSome_iff_eq_none.mp (by rw [encode_isSome, h]; decide)

/-- R49: a word loses nothing as it is stored. -/
theorem wordOfBytes_bytesOfWord (w : Word) :
    wordOfBytes (w.extractLsb' 0 8) (w.extractLsb' 8 8) (w.extractLsb' 16 8) (w.extractLsb' 24 8) = w := by
  unfold wordOfBytes
  rw [BitVec.extractLsb'_append_extractLsb'_eq_extractLsb' (by rfl), BitVec.extractLsb'_append_extractLsb'_eq_extractLsb' (by rfl),
    BitVec.extractLsb'_append_extractLsb'_eq_extractLsb' (by rfl)]
  exact BitVec.extractLsb'_eq_self

theorem decode_bytesOfWord {w : Word} {i : Instr} (h : decodeWord w = .ok i) : decode (bytesOfWord w) = .ok (i, []) := by
  rw [bytesOfWord, decode, wordOfBytes_bytesOfWord, h]

/-- Settles O58: each constructor's own law gives the decoding, and the encoder passes over the events alone. -/
theorem codecRoundTrip : Obligations.CodecRoundTrip := by
  intro i hwf
  refine ⟨encode_of_not_isEvent, encode_of_isEvent, fun w hw => ?_⟩
  have hdec := decodeWord_of_encode i hwf w hw
  exact ⟨hdec, decode_bytesOfWord hdec⟩

/-- Settles O57: the words that are instructions are those of the encoder; the others have no row of the opcode map, or fail a field check. -/
theorem decodeWords : Obligations.DecodeWords :=
  have word (i : Instr) {w : Word} (hwf : i.wellFormed = true) (hw : encode i = some w) := decodeWord_of_encode i hwf w hw
  ⟨word (.add 1 2 3) rfl rfl, word (.brz 5 3) rfl rfl, word (.li 1 0x123) rfl rfl, word (.vld 1 2 false 3) rfl rfl,
    word (.xfer 5 4) rfl rfl, word (.sysrd 1 2) rfl rfl, word (.perf 2) rfl rfl, word (.tzero 2) rfl rfl, word (.tvr 1 2 2 9) rfl rfl,
    word (.tfence 4) rfl rfl, word (.vadd 1 2 3) rfl rfl, word .nop rfl rfl, rfl, rfl, rfl, rfl⟩

end Sys2Proof.Laws.Codec
end

section
/-!
SUPPORT. For every opcode: what its word decodes to is well formed, and has that word (R50–R55).
-/
namespace Sys2Proof.Laws.Codec

set_option Elab.async false

/-- `i` is well formed, and its word has the opcode `op` and the fields `d`, `a` and `b`. -/
def HasFields (i : Instr) (op d a b : Nat) : Prop := i.wellFormed = true ∧ encode i = some (packWord op d a b)

/-- R57 step 2: what stands behind a field check is the instruction, where the check holds. -/
theorem HasFields.of_okIf {c : Bool} {j i : Instr} {op d a b : Nat} (h : okIf c j = some i) (hj : c = true → HasFields j op d a b) :
    HasFields i op d a b := by
  cases c with
  | false => cases h
  | true => cases h; exact hj rfl

/-! ### Codes (R24, R52) -/

theorem tagCode_tagOfCode {c : Nat} {t : Tag} (h : Machine.tagOfCode c = some t) :
    Machine.tagValid t = true ∧ Machine.tagCode t = c := by
  unfold Machine.tagOfCode at h
  split at h <;> cases h <;> exact ⟨rfl, rfl⟩

theorem scopeCode_scopeOfCode : ∀ c < 8, Machine.scopeCode (Machine.scopeOfCode c) = c := by decide

theorem kindCode_kindOfCode {c : Nat} {k : FenceKind} (h : Machine.kindOfCode c = some k) : Machine.kindCode k = c := by
  unfold Machine.kindOfCode at h
  split at h <;> cases h <;> rfl

theorem levelCode_levelOfCode : ∀ c < 4, Machine.levelCode (Machine.levelOfCode c) = c := by decide

theorem flipCode_flipOfCode {c : Nat} {sc : FlipScope} (h : Machine.flipOfCode c = some sc) : Machine.flipCode sc = c := by
  unfold Machine.flipOfCode at h
  split at h <;> cases h <;> rfl

/-! ### Fields (R50, R52) -/

section
variable {d a b : Nat} (hd : d < 256) (ha : a < 256) (hb : b < 256)

include ha hb in
theorem half_high : (a * 256 + b) % 65536 / 256 = a := by omega

include hd ha hb in
theorem off24_high : (d * 65536 + a * 256 + b) % 16777216 / 65536 = d := by omega

include ha hb in
theorem off24_mid : (d * 65536 + a * 256 + b) % 16777216 / 256 % 256 = a := by omega

include hb in
theorem off24_low : (d * 65536 + a * 256 + b) % 16777216 % 256 = b := by omega

/-- An immediate of a scope and, above a bit that is zero, a size. -/
theorem ord_fields (h : b / 8 % 2 = 0) : b / 16 * 16 + Machine.scopeCode (Machine.scopeOfCode (b % 8)) = b := by
  rw [scopeCode_scopeOfCode _ (Nat.mod_lt _ (by decide))]
  omega

include hb in
/-- An immediate of a number and, above two bits that are zero, a barrier level. -/
theorem bar_fields (h : b / 16 % 4 = 0) : Machine.levelCode (Machine.levelOfCode (b / 64)) * 64 + b % 16 = b := by
  rw [levelCode_levelOfCode _ (by omega)]
  omega

/-- An immediate of a V register below a bit of reuse. -/
theorem gath_fields (hb : b < 256) : (if 128 ≤ b then 128 else 0) + b % 128 = b := by
  split <;> omega
end

/-! ### Rows of the opcode map (R54, R55) -/

section
variable {lo d a b : Nat} {i : Instr} (hd : d < 256) (ha : a < 256) (hb : b < 256)

include hd ha hb in
theorem decode0_hasFields (h : decode0 lo d a b = some i) : HasFields i (0x00 + lo) d a b := by
  unfold decode0 at h
  split at h
  case h_15 => cases h
  case h_2 | h_3 =>
    cases h
    simp [HasFields, Instr.wellFormed, encode, off24_high hd ha hb, off24_mid ha hb, off24_low hb]
  all_goals exact .of_okIf h (by simp +contextual [HasFields, Instr.wellFormed, encode, half_high ha hb, Nat.mod_eq_of_lt hb])

theorem decode1_hasFields (h : decode1 lo d a b = some i) : HasFields i (0x10 + lo) d a b := by
  unfold decode1 at h
  split at h
  case h_17 => cases h
  all_goals exact .of_okIf h (by simp +contextual [HasFields, Instr.wellFormed, encode])

include ha hb in
theorem decode2_hasFields (h : decode2 lo d a b = some i) : HasFields i (0x20 + lo) d a b := by
  unfold decode2 at h
  split at h
  case h_17 => cases h
  all_goals exact .of_okIf h (by simp +contextual [HasFields, Instr.wellFormed, encode, half_high ha hb, Nat.mod_eq_of_lt hb])

include ha hb in
theorem decode3_hasFields (h : decode3 lo d a b = some i) : HasFields i (0x30 + lo) d a b := by
  unfold decode3 at h
  split at h
  case h_14 => cases h
  all_goals exact .of_okIf h (by simp +contextual [HasFields, Instr.wellFormed, encode, half_high ha hb, Nat.mod_eq_of_lt hb])

theorem decode4_hasFields (h : decode4 lo d a b = some i) : HasFields i (0x40 + lo) d a b := by
  unfold decode4 at h
  split at h
  case h_17 => cases h
  all_goals exact .of_okIf h (by simp +contextual [HasFields, Instr.wellFormed, encode])

theorem decode5_hasFields (h : decode5 lo d a b = some i) : HasFields i (0x50 + lo) d a b := by
  unfold decode5 at h
  split at h
  case h_17 => cases h
  all_goals exact .of_okIf h (by simp +contextual [HasFields, Instr.wellFormed, encode])

theorem decode6_hasFields (h : decode6 lo d a b = some i) : HasFields i (0x60 + lo) d a b := by
  unfold decode6 at h
  split at h
  case h_16 => cases h
  case h_14 =>
    split at h
    case h_1 t ht =>
      exact .of_okIf h (by simp +contextual [HasFields, Instr.wellFormed, encode, tagCode_tagOfCode ht])
    case h_2 => cases h
  all_goals exact .of_okIf h (by simp +contextual [HasFields, Instr.wellFormed, encode])

include hb in
theorem decode7_hasFields (h : decode7 lo d a b = some i) : HasFields i (0x70 + lo) d a b := by
  unfold decode7 at h
  split at h
  case h_17 => cases h
  all_goals exact .of_okIf h (by simp +contextual [HasFields, Instr.wellFormed, encode, hb, Nat.mod_eq_of_lt, Nat.div_add_mod',
    Nat.div_lt_iff_lt_mul, gath_fields, Nat.mod_lt])

include hb in
theorem decode8_hasFields (h : decode8 lo d a b = some i) : HasFields i (0x80 + lo) d a b := by
  unfold decode8 at h
  split at h
  case h_15 => cases h
  all_goals exact .of_okIf h (by simp +contextual [HasFields, Instr.wellFormed, encode, Nat.mod_eq_of_lt hb])

include hb in
theorem decode9_hasFields (h : decode9 lo d a b = some i) : HasFields i (0x90 + lo) d a b := by
  unfold decode9 at h
  split at h
  case h_12 => cases h
  case h_1 =>
    split at h
    case h_1 k hk =>
      have hw : Machine.kindCode k * 8 + Machine.scopeCode (Machine.scopeOfCode (b % 8)) = b := by
        rw [kindCode_kindOfCode hk, scopeCode_scopeOfCode _ (Nat.mod_lt _ (by decide)), Nat.div_add_mod']
      exact .of_okIf h (by simp +contextual [HasFields, Instr.wellFormed, encode, hw])
    case h_2 => cases h
  all_goals exact .of_okIf h (by simp +contextual [HasFields, Instr.wellFormed, encode, Nat.div_lt_iff_lt_mul, ord_fields,
    bar_fields hb, Nat.mod_lt])

theorem decodeA_hasFields (h : decodeA lo d a b = some i) : HasFields i (0xA0 + lo) d a b := by
  unfold decodeA at h
  split at h
  case h_9 => cases h
  all_goals exact .of_okIf h (by simp +contextual [HasFields, Instr.wellFormed, encode])

theorem decodeB_hasFields (h : decodeB lo d a b = some i) : HasFields i (0xB0 + lo) d a b := by
  unfold decodeB at h
  split at h
  case h_7 => cases h
  case h_1 | h_2 | h_3 =>
    split at h
    case isFalse => cases h
    case isTrue hd0 =>
    have hd0 : d = 0 := by simpa using hd0
    split at h
    case h_1 hsc => exact .of_okIf h (by simp +contextual [HasFields, Instr.wellFormed, encode, hd0, flipCode_flipOfCode hsc])
    case h_2 hsc => exact .of_okIf h (by simp +contextual [HasFields, Instr.wellFormed, encode, hd0, flipCode_flipOfCode hsc])
    case h_3 => cases h
  all_goals exact .of_okIf h (by simp +contextual [HasFields, Instr.wellFormed, encode])

theorem decodeC_hasFields (h : decodeC lo d a b = some i) : HasFields i (0xC0 + lo) d a b := by
  unfold decodeC at h
  split at h
  case h_17 => cases h
  case h_4 =>
    split at h
    case isTrue ha8 => exact .of_okIf h (by simp +contextual [HasFields, Instr.wellFormed, encode, ha8])
    case isFalse =>
      refine .of_okIf h fun hc => ?_
      simp only [Bool.and_eq_true, decide_eq_true_eq] at hc
      obtain ⟨⟨⟨h128, h192⟩, hd8⟩, hb64⟩ := hc
      have hs : a - 128 < 64 := by omega
      simp [HasFields, Instr.wellFormed, encode, hd8, hb64, hs, Nat.add_sub_cancel' h128]
  all_goals exact .of_okIf h (by simp +contextual [HasFields, Instr.wellFormed, encode, Nat.mod_eq_of_lt])

theorem decodeD_hasFields (h : decodeD lo d a b = some i) : HasFields i (0xD0 + lo) d a b := by
  unfold decodeD at h
  split at h
  case h_3 => cases h
  all_goals exact .of_okIf h (by simp +contextual [HasFields, Instr.wellFormed, encode, Nat.div_add_mod', Nat.div_lt_iff_lt_mul,
    Nat.mod_lt])

theorem decodeE_hasFields (h : decodeE lo d a b = some i) : HasFields i (0xE0 + lo) d a b := by
  unfold decodeE at h
  split at h
  case h_8 => cases h
  all_goals exact .of_okIf h (by simp +contextual [HasFields, Instr.wellFormed, encode])

theorem decodeF_hasFields (h : decodeF lo d a b = some i) : HasFields i (0xF0 + lo) d a b := by
  unfold decodeF at h
  split at h
  case h_6 => cases h
  all_goals exact .of_okIf h (by simp +contextual [HasFields, Instr.wellFormed, encode])

end

theorem decodeFields_hasFields {op d a b : Nat} {i : Instr} (hd : d < 256) (ha : a < 256) (hb : b < 256)
    (h : decodeFields op d a b = some i) : HasFields i op d a b := by
  rw [← Nat.div_add_mod op 16]
  unfold decodeFields at h
  generalize op / 16 = hi, op % 16 = lo at h ⊢
  split at h
  · exact decode0_hasFields hd ha hb h
  · exact decode1_hasFields h
  · exact decode2_hasFields ha hb h
  · exact decode3_hasFields ha hb h
  · exact decode4_hasFields h
  · exact decode5_hasFields h
  · exact decode6_hasFields h
  · exact decode7_hasFields hb h
  · exact decode8_hasFields hb h
  · exact decode9_hasFields hb h
  · exact decodeA_hasFields h
  · exact decodeB_hasFields h
  · exact decodeC_hasFields h
  · exact decodeD_hasFields h
  · exact decodeE_hasFields h
  · exact decodeF_hasFields h
  · cases h

/-- R50: a word is packed from its opcode and its three fields. -/
theorem packWord_fields (w : Word) :
    packWord (w.toNat / 2 ^ 24) (w.toNat / 2 ^ 16 % 256) (w.toNat / 2 ^ 8 % 256) (w.toNat % 256) = w := by
  have := w.isLt
  apply BitVec.eq_of_toNat_eq
  rw [packWord_toNat] <;> omega

theorem decodeFields_of_decodeWord {w : Word} {i : Instr} (h : decodeWord w = .ok i) :
    decodeFields (w.toNat / 2 ^ 24) (w.toNat / 2 ^ 16 % 256) (w.toNat / 2 ^ 8 % 256) (w.toNat % 256) = some i := by
  simp only [decodeWord] at h
  split at h
  case h_1 j hj => rw [hj, Except.ok.inj h]
  case h_2 => cases h

/-- Settles O59: a word that decodes is packed from the fields that its row of the opcode map was read from. -/
theorem wordsHaveOneMeaning : Obligations.WordsHaveOneMeaning := by
  intro i w h
  have hf := decodeFields_hasFields (Nat.mod_lt _ (by decide)) (Nat.mod_lt _ (by decide)) (Nat.mod_lt _ (by decide))
    (decodeFields_of_decodeWord h)
  rwa [HasFields, packWord_fields] at hf

end Sys2Proof.Laws.Codec
end

section
/-!
SUPPORT. Transfers of control: targets of direct branches and jumps, and the traps of a target outside the imem half (R58, R75, R76).
-/
namespace Sys2Proof.Machine

/-! ### Direct targets (R52, R75) -/

theorem branchTarget_toNat {st : Strand} {o : Int} (h0 : 0 ≤ st.pc + 4 * o) (h1 : st.pc + 4 * o ≤ 65532) :
    (branchTarget st o).toNat = (st.pc + 4 * o).toNat := by
  rw [branchTarget, BitVec.toNat_ofInt]
  omega

/-- A word offset of at most 24 bits leads outside the imem half modulo 2^64 too. -/
theorem branchTarget_outside {st : Strand} {o : Int} (hpc : st.pc % 4 = 0 ∧ st.pc < 65536) (ho : -2 ^ 23 ≤ o ∧ o < 2 ^ 23)
    (h : st.pc + 4 * o < 0 ∨ 65532 < st.pc + 4 * o) : 65536 ≤ (branchTarget st o).toNat := by
  rw [branchTarget, BitVec.toNat_ofInt]
  omega

section
variable {s : State} {st : Strand} (h : s.strand? = some st) {i : Instr} {reg : Bool} {t : DWord} {after : Strand → Strand}
  (hi : exec i s = jumpTo s st reg t after)
include h hi

/-- R58: a target that is at 65,536 or above traps ILLEGAL. -/
theorem transfer_traps_outside (hc : st.CanTrap) (ha : reg = true → t.toNat % 4 = 0) (hb : 65536 ≤ t.toNat) :
    s.TrapsAtIssue st i 0x01 0 t := by
  rw [State.TrapsAtIssue, hi]
  obtain ⟨hr, hm, -⟩ | ⟨-, -, hj⟩ | ⟨-, hin, -⟩ := jumpTo_cases s st reg t after
  · exact absurd (ha hr) hm
  · exact hj.trans (trapCur_enters h hc _)
  · exact absurd hb (Nat.not_le.mpr hin)

/-- R58: a target in a register that is no multiple of 4 traps ALIGN. -/
theorem transfer_traps_misaligned (hc : st.CanTrap) (hr : reg = true) (hm : t.toNat % 4 ≠ 0) : s.TrapsAtIssue st i 0x04 0 t := by
  rw [State.TrapsAtIssue, hi]
  obtain ⟨-, -, hj⟩ | ⟨ha, -, -⟩ | ⟨ha, -, -⟩ := jumpTo_cases s st reg t after
  · exact hj.trans (trapCur_enters h hc _)
  · exact absurd (ha hr) hm
  · exact absurd (ha hr) hm

end

theorem condBranch_taken {s : State} {st : Strand} {o : Int} {taken : Strand → Bool} (h : s.strand? = some st) (ht : taken st = true) :
    condBranch s o taken = jumpTo s st false (branchTarget st o) id := by
  rw [condBranch, onCur_eq h, if_pos ht]

/-- R75: an untaken branch goes on, whatever its target. -/
theorem condBranch_untaken {s : State} {st : Strand} {o : Int} {taken : Strand → Bool} (h : s.strand? = some st) (ht : ¬ taken st = true) :
    condBranch s o taken = .next (s.done st 0) := by
  rw [condBranch, onCur_eq h, if_neg ht, finish_zero]

/-- Settles O5: each instruction is a transfer to its target, the conditional ones where they are taken. -/
theorem controlTransfers : Obligations.ControlTransfers := by
  constructor
  · intro s st d off o16 h hal goes cond hpc
    have direct {i : Instr} {o : Int} {after : Strand → Strand} (ho : -2 ^ 23 ≤ o ∧ o < 2 ^ 23)
        (hi : exec i s = jumpTo s st false (branchTarget st o) after) : goes i o (after st) := by
      refine ⟨fun ⟨h0, h1⟩ => ?_, fun hout hc => transfer_traps_outside h hi hc nofun (branchTarget_outside ⟨hal, hpc⟩ ho hout)⟩
      have hn := branchTarget_toNat h0 h1
      exact hi.trans (hn ▸ jumpTo_good (reg := false) after (by omega) nofun)
    have hoff16 : -2 ^ 23 ≤ o16.toInt ∧ o16.toInt < 2 ^ 23 := by
      have hlo := o16.le_toInt
      have hhi := o16.toInt_lt
      omega
    have conditional {i : Instr} {taken : Strand → Bool} {p : Prop} (hp : taken st = true ↔ p)
        (hi : exec i s = condBranch s o16.toInt taken) : cond i p :=
      ⟨fun hy => direct hoff16 (hi.trans (condBranch_taken h (hp.mpr hy))),
        fun hn => hi.trans (condBranch_untaken h (mt hp.mp hn))⟩
    have hoff : -2 ^ 23 ≤ off.toInt ∧ off.toInt < 2 ^ 23 := ⟨off.le_toInt, off.toInt_lt⟩
    exact ⟨direct (i := .br off) (after := id) hoff (onCur_eq h _), direct (i := .call off) (after := Strand.link) hoff (onCur_eq h _),
      conditional beq_iff_eq rfl, conditional bne_iff_ne rfl, conditional beq_iff_eq rfl, conditional bne_iff_ne rfl⟩
  · intro s st a h goes
    have jump {i : Instr} {t : DWord} {after : Strand → Strand} (hi : exec i s = jumpTo s st true t after) : goes i t (after st) :=
      ⟨fun ⟨ha, hin⟩ => hi.trans (jumpTo_good after hin fun _ => ha), fun hm hc => transfer_traps_misaligned h hi hc rfl hm,
        fun ha hb hc => transfer_traps_outside h hi hc (fun _ => ha) hb⟩
    exact ⟨jump (i := .jr a) (after := id) (onCur_eq h _), jump (i := .ret) (after := id) (onCur_eq h _),
      jump (i := .callr a) (after := Strand.link) (onCur_eq h _)⟩

end Sys2Proof.Machine
end

section
/-!
SUPPORT. One step: the turn that comes, the strand that is issued or goes on, and the word it runs (R49, R54, R57, R197–R199, log 4).
-/
namespace Sys2Proof.Machine

/-! ### Words fetched (R49, R57) -/

theorem instrOf_ok {w : Word} {i : Instr} (h : decodeWord w = .ok i) : instrOf w = i := by
  rw [instrOf, h]

theorem instrOf_error {w : Word} {e : DecodeError} (h : decodeWord w = .error e) : instrOf w = .invalidInstructionWord w := by
  rw [instrOf, h]

/-- What a strand fetches depends on the table of teams, which names its core, and on the imem halves of the launches. -/
theorem imemOf_congr {s t : State} (hteams : t.teams = s.teams) (hlaunches : t.launches = s.launches) (st : Strand) :
    t.imemOf st = s.imemOf st := by
  simp only [State.imemOf, State.launchOf, State.launch, State.coreOf, State.team, hteams, hlaunches]

theorem attempt_of_clean {s : State} {i : Nat} {st : Strand} (h : s.fetchPoisoned st = false) :
    s.attempt i st = exec (instrOf (s.fetchWord st)) s := by
  rw [State.attempt, h]
  rfl

/-! ### The bookkeeping of an issue (R198, R272, R300) -/

section
variable (s : State) (i : Nat) (st : Strand)

@[simp] theorem markIssue_cur : (s.markIssue i st).cur = i := rfl
@[simp] theorem markIssue_mem : (s.markIssue i st).mem = s.mem := rfl
@[simp] theorem markIssue_teams : (s.markIssue i st).teams = s.teams := rfl
@[simp] theorem markIssue_launches : (s.markIssue i st).launches = s.launches := rfl
@[simp] theorem markIssue_turns : (s.markIssue i st).turns = s.turns := rfl

@[simp] theorem markIssue_fetchWord (x : Strand) : (s.markIssue i st).fetchWord x = s.fetchWord x := by
  rw [State.fetchWord, imemOf_congr (markIssue_teams s i st) (markIssue_launches s i st), State.fetchWord]

@[simp] theorem markIssue_fetchPoisoned (x : Strand) : (s.markIssue i st).fetchPoisoned x = s.fetchPoisoned x := by
  rw [State.fetchPoisoned, imemOf_congr (markIssue_teams s i st) (markIssue_launches s i st), State.fetchPoisoned]

theorem attempt_markIssue (j : Nat) {x : Strand} (h : s.fetchPoisoned x = false) :
    (s.markIssue i st).attempt j x = exec (instrOf (s.fetchWord x)) (s.markIssue i st) := by
  rw [attempt_of_clean (by rwa [markIssue_fetchPoisoned]), markIssue_fetchWord]

/-- The strand issued stands as before, but for its age, its promotion and its counts of instructions. -/
theorem markIssue_strand : ∃ issued handled, (s.markIssue i st).strand? =
    some { st with age := 0, readyFor := 0, promoted := false, issued := issued, handled := handled } :=
  ⟨_, _, cfind_cput_self s.strands i _⟩

end

/-! ### A strand's turn (R197, R198) -/

section
variable {s : State} {k : Nat} {st : Strand}

theorem issueStrand_runs (ht : s.timerReady st = false) (hp : s.fetchPoisoned (s.firstToMeet k st).2 = false) :
    s.issueStrand k st =
      exec (instrOf (s.fetchWord (s.firstToMeet k st).2)) (s.markIssue (s.firstToMeet k st).1 (s.firstToMeet k st).2) := by
  rw [State.issueStrand, ht, if_neg Bool.false_ne_true]
  exact attempt_markIssue s _ _ _ hp

theorem wakeStrand_timer (ht : s.timerReady st = true) : s.wakeStrand k st = .next (s.takeTimer k st) := if_pos ht

theorem wakeStrand_runs (ht : s.timerReady st = false) (hp : s.fetchPoisoned st = false) :
    s.wakeStrand k st = exec (instrOf (s.fetchWord st)) { s with cur := k } := by
  rw [State.wakeStrand, ht, if_neg Bool.false_ne_true]
  exact attempt_of_clean hp

end

/-! ### The turn that comes (log 4) -/

section
variable {s : State}

theorem step_of_turn {t : Turn} {ts : List Turn} (h : s.turns = t :: ts) : step s = State.takeTurn { s with turns := ts } t := by
  rw [step, h]

theorem step_of_noTurn (h : s.turns = []) : step s = s.autoTurn := by
  rw [step, h]

theorem takeTurn_issue {core : Nat} {sched : Bool} {k : Nat} {st : Strand} (h : s.choose core sched = some (k, st)) :
    s.takeTurn (.issue core sched) = s.issueStrand k st := by
  rw [State.takeTurn, h]

theorem takeTurn_issue_none {core : Nat} {sched : Bool} (h : s.choose core sched = none) : s.takeTurn (.issue core sched) = .next s := by
  rw [State.takeTurn, h]

theorem takeTurn_wake {k : Nat} {st : Strand} (h : s.strandAt k = some st) :
    s.takeTurn (.wake k) = if s.wakeable k st then s.wakeStrand k st else .next s := by
  rw [State.takeTurn, h]

theorem takeTurn_pass (hw : s.nextWake = none) (hi : s.issueOn (s.busyCores.filter (fun c => s.owed (clusterOf c))) = none) :
    s.takeTurn .pass = .next s.passTime := by
  simp only [State.takeTurn, State.passTurn, hw, hi]

theorem autoTurn_wake {k : Nat} {st : Strand} (h : s.nextWake = some (k, st)) : s.autoTurn = s.wakeStrand k st := by
  rw [State.autoTurn, h]

theorem autoTurn_issue {k : Nat} {st : Strand} (hw : s.nextWake = none) (h : s.nextIssue = some (k, st)) :
    s.autoTurn = s.issueStrand k st := by
  simp only [State.autoTurn, hw, h]

theorem autoTurn_pass (hw : s.nextWake = none) (h : s.nextIssue = none) : s.autoTurn = .next s.passTime := by
  simp only [State.autoTurn, hw, h]

end

/-- Settles O56: the step is the turn that comes, and the turn runs what `instrOf` makes of the word fetched. -/
theorem stepRunsDecoded : Obligations.StepRunsDecoded := by
  intro s ts runs issues wakes u
  have running {u v : State} {st : Strand} (h : step s = exec (instrOf (u.fetchWord st)) v) : runs u v st :=
    ⟨fun i hi => by rw [h, instrOf_ok hi], fun e he => by rw [h, instrOf_error he]⟩
  have issued {u : State} {k : Nat} {st : Strand} (ht : u.timerReady st = false) (h : step s = u.issueStrand k st) : issues u k st := by
    intro hp
    obtain ⟨_, _, hst⟩ := markIssue_strand u (u.firstToMeet k st).1 (u.firstToMeet k st).2
    exact ⟨_, _, markIssue_cur .., hst, rfl, rfl, rfl, rfl, rfl, rfl, markIssue_mem .., markIssue_teams ..,
      markIssue_launches .., markIssue_turns .., running (h.trans (issueStrand_runs ht hp))⟩
  have woken {u : State} {k : Nat} {st : Strand} (h : step s = u.wakeStrand k st) : wakes u k st :=
    ⟨fun ht => h.trans (wakeStrand_timer ht), fun ht hp => running (h.trans (wakeStrand_runs ht hp))⟩
  refine ⟨fun core sched k st hts hch ht => issued ht ((step_of_turn hts).trans (takeTurn_issue hch)),
    fun core sched hts hch => (step_of_turn hts).trans (takeTurn_issue_none hch),
    fun k st hts hst => ?wake, fun hts hw hi => (step_of_turn hts).trans (takeTurn_pass hw hi),
    fun _ _ _ _ hts => step_of_turn hts, fun _ hts => step_of_turn hts,
    fun k st hts hw => woken ((step_of_noTurn hts).trans (autoTurn_wake hw)),
    fun k st hts hw hi ht => issued ht ((step_of_noTurn hts).trans (autoTurn_issue hw hi)),
    fun hts hw hi => (step_of_noTurn hts).trans (autoTurn_pass hw hi)⟩
  case wake =>
  have hstep := (step_of_turn hts).trans (takeTurn_wake hst)
  exact ⟨fun hk => woken (hstep.trans (if_pos hk)), fun hk => hstep.trans (if_neg (Bool.eq_false_iff.mp hk))⟩

end Sys2Proof.Machine
end

section
/-!
SUPPORT. Special registers and the mode: what MFSR reads, what MTSR, MODE and MODES write or refuse; and a strand at its start (R61, R62,
R69, R70, R84, R85).
-/
namespace Sys2Proof.Machine

/-! ### A strand at its start (R61) -/

@[simp] theorem Strand.getS_start (team idx replica : Nat) (sched : Bool) (slot : Nat) (h : Header) (n : Nat) :
    (Strand.start team idx replica sched slot h).getS n = 0 := by
  unfold Strand.getS
  split <;> rfl

theorem VReg.lane_start (j : Nat) : VReg.start.lane j = 0 := by
  rw [VReg.lane, VReg.start, List.getD_eq_getElem?_getD, List.getElem?_replicate]
  split <;> rfl

/-- Settles O55: the fields of a started strand and of the module after reset, read one by one. -/
theorem startAndReset : Obligations.StartAndReset := by
  refine ⟨fun team idx replica slot sched h => ?start, rfl, ⟨nofun, nofun⟩, rfl, rfl, rfl⟩
  case start =>
  exact ⟨Strand.getS_start _ _ _ _ _ _, fun _ => ⟨rfl, VReg.lane_start⟩, fun _ => rfl, rfl, rfl, rfl, rfl, rfl, rfl, rfl, rfl, rfl, rfl, rfl,
    rfl, rfl, rfl, rfl⟩

/-! ### MFSR (R69, R84) -/

/-- R69: the numbers of the map, as the ranges they fill. -/
theorem mem_specialRegs {n : Nat} : n ∈ specialRegs ↔ 1 ≤ n ∧ n ≤ 0x0B ∨ 0x10 ≤ n ∧ n ≤ 0x13 ∨ 0x18 ≤ n ∧ n ≤ 0x24 := by
  simp only [specialRegs, List.mem_cons, List.not_mem_nil, or_false]
  omega

/-- R287: `%rope` reads 0 under SOLO. -/
theorem ropeReg_solo {s : State} {st : Strand} (h : s.level st = 0) : s.ropeReg st = 0 := if_pos h

/-- R273: under SOLO a strand reads for itself what a leader reads for its rope. -/
theorem sharedScalar_solo {s : State} {st : Strand} (h : s.level st = 0) (d : Nat) (v : DWord) :
    sharedScalar s st d v = .next (s.done (st.setS d v) 0) := by
  rw [sharedScalar, sharedRead, if_pos h]
  exact finish_zero s _

section
variable {s : State} {st : Strand} {n : Nat}

theorem mfsr_reads (h : s.Solo st) (d : Nat) (hn : n ∈ specialRegs) : s.Writes st (.mfsr d n) d (s.special st n) := by
  have hmap : (!specialRegs.contains n) = false := by simpa using hn
  change execMfsr d n s = _
  rw [execMfsr, onCur_eq h.current, hmap, if_neg Bool.false_ne_true]
  split
  · exact sharedScalar_solo h.solo ..
  · exact finish_zero ..

theorem mfsr_traps (h : s.strand? = some st) (hc : st.CanTrap) (d : Nat) (hn : n ∉ specialRegs) : s.TrapsAtIssue st (.mfsr d n) 0x01 0 0 := by
  have hmap : (!specialRegs.contains n) = true := by simpa using hn
  change execMfsr d n s = _
  rw [execMfsr, onCur_eq h, hmap, if_pos rfl, illegal_enters h hc]
  rfl

end

/-- Settles O9: `State.special` gives each number of the map its value, and `%rope` is 0 under SOLO. -/
theorem specialRegisterReads : Obligations.SpecialRegisterReads := by
  intro s st d h t l reads num
  have read (n : Nat) {v : DWord} (hv : s.special st n = v) (hn : n ∈ specialRegs := by decide) : reads n v := hv ▸ mfsr_reads h d hn
  exact ⟨read 0x01 rfl, read 0x02 rfl, read 0x03 rfl, read 0x04 rfl, read 0x05 rfl, read 0x06 rfl, read 0x07 rfl, read 0x08 rfl,
    read 0x09 rfl, read 0x0A rfl, read 0x0B rfl, read 0x10 rfl, read 0x11 rfl, read 0x12 rfl, read 0x13 rfl, read 0x18 rfl, read 0x19 rfl,
    read 0x1A rfl, read 0x1B rfl, read 0x1C rfl, read 0x1D rfl, read 0x1E rfl, read 0x1F rfl, read 0x20 (ropeReg_solo h.solo),
    read 0x21 rfl, read 0x22 rfl, read 0x23 rfl, read 0x24 (apply_ite (BitVec.ofNat 64) _ 1 0).symm,
    fun n hn hc => mfsr_traps h.current hc d (mt mem_specialRegs.mp hn)⟩

/-! ### Mode values (R62) -/

/-- R24: the codes below 32 that name a tag. -/
theorem tagOfCode_isSome : ∀ c < 32, ((tagOfCode c).isSome = true ↔ c ∉ [0x07, 0x0D, 0x0E, 0x0F, 0x10, 0x18]) := by decide

theorem modeOk_iff (m : Half) :
    modeOk m = true ↔ m.toNat < 2 ^ 14 ∧ m.toNat / 2 ^ 9 % 8 ≤ 4 ∧ m.toNat % 32 ∉ [0x07, 0x0D, 0x0E, 0x0F, 0x10, 0x18] := by
  have hreserved : m.toNat / 2 ^ 14 = 0 ↔ m.toNat < 2 ^ 14 := Nat.div_eq_zero_iff_lt (by decide)
  rw [modeOk, Bool.and_eq_true, Bool.and_eq_true, beq_iff_eq, decide_eq_true_eq, hreserved, and_assoc,
    tagOfCode_isSome _ (Nat.mod_lt _ (by decide))]

theorem trapvecOk_iff (v : DWord) : trapvecOk v = true ↔ v = 0xFFFFFFFF ∨ v.toNat % 4 = 0 ∧ v.toNat < 65536 := by
  simp [trapvecOk]

section
variable {s : State} {st : Strand} {v : DWord}

theorem writeMode_legal (hv : v.toNat < 2 ^ 16) (hm : modeOk (v.setWidth 16) = true) :
    writeMode s st v = .next (s.done (st.setMode (v.setWidth 16)) 0) := by
  have hhigh : v.toNat / 2 ^ 16 = 0 := Nat.div_eq_of_lt hv
  rw [writeMode, hhigh, hm, if_neg (by decide), finish_zero]

theorem writeMode_illegal (h : ¬ (v.toNat < 2 ^ 16 ∧ modeOk (v.setWidth 16) = true)) : writeMode s st v = illegal s st 0 := by
  refine if_pos ?_
  by_cases hv : v.toNat < 2 ^ 16
  · simp [Bool.eq_false_iff.mpr fun hm => h ⟨hv, hm⟩]
  · have hhigh : v.toNat / 2 ^ 16 ≠ 0 := by omega
    rw [bne_iff_ne.mpr hhigh, Bool.true_or]

end

section
variable {s : State} {st : Strand} (h : s.strand? = some st) (a : Nat)
include h

theorem exec_modes : exec (.modes a) s = writeMode s st (st.getS a) := onCur_eq h _

theorem exec_mtsr_mode : exec (.mtsr 0x18 a) s = writeMode s st (st.getS a) := onCur_eq h _

theorem exec_mtsr_flags : exec (.mtsr 0x19 a) s = finish s { st with flags := st.flags &&& ~~~ ((st.getS a).setWidth 5) } 0 := onCur_eq h _

theorem exec_mtsr_epc : exec (.mtsr 0x1E a) s = finish s { st with epc := st.getS a } 0 := onCur_eq h _

theorem exec_mtsr_trapvec : exec (.mtsr 0x1F a) s =
    if trapvecOk (st.getS a) then finish s { st with trapvec := st.getS a } 0 else illegal s st 0 := onCur_eq h _

/-- R69: the registers whose access is R, and the numbers of none, refuse MTSR. -/
theorem exec_mtsr_other {n : Nat} (hn : n ∉ [0x18, 0x19, 0x1E, 0x1F]) : exec (.mtsr n a) s = illegal s st 0 := by
  simp only [List.mem_cons, List.not_mem_nil, or_false, not_or] at hn
  obtain ⟨hmode, hflags, hepc, hvec⟩ := hn
  change execMtsr n a s = _
  rw [execMtsr, onCur_eq h]
  dsimp only
  split
  · exact absurd rfl hmode
  · exact absurd rfl hflags
  · exact absurd rfl hepc
  · exact absurd rfl hvec
  · rfl

end

/-- Settles O10: the forms of a mode write are `writeMode`, whose test is that of `modeOk`; the other registers of MTSR are written in turn. -/
theorem specialRegisterWrites : Obligations.SpecialRegisterWrites := by
  constructor
  · intro s st n a h v isIllegal vecOk
    have traps {i : Instr} (hi : exec i s = illegal s st 0) : isIllegal i := fun hc => hi.trans (illegal_enters h hc 0)
    refine ⟨?flags, (exec_mtsr_epc h a).trans (finish_zero ..), fun hv => ?vec, fun hv => traps ?novec, fun hn => traps (exec_mtsr_other h a hn)⟩
    case flags => rw [exec_mtsr_flags h a, finish_zero, BitVec.setWidth_eq_extractLsb' (by decide)]
    case vec => rw [exec_mtsr_trapvec h a, if_pos ((trapvecOk_iff v).mpr hv), finish_zero]
    case novec => rw [exec_mtsr_trapvec h a, if_neg (mt (trapvecOk_iff v).mp hv)]
  · intro s st m a h legal writes v
    have hlow : v.extractLsb' 0 16 = v.setWidth 16 := (BitVec.setWidth_eq_extractLsb' (by decide)).symm
    rw [hlow]
    have written {i : Instr} {x : DWord} (hx : x.toNat < 2 ^ 16) (hm : legal (x.setWidth 16)) (hi : exec i s = writeMode s st x) :
        writes i (x.setWidth 16) := by
      refine ⟨_, _, hi.trans (writeMode_legal hx ((modeOk_iff _).mpr hm)), done_strand .., Strand.mode_setMode .., ?pc, Strand.getS_setMode _ _,
        Strand.getV_setMode _ _, Strand.getP_setMode _ _, Strand.em_setMode .., done_strandOnly ..⟩
      case pc => exact congrArg (· + 4) (Strand.setMode_pc ..)
    refine ⟨fun hm => ?mode, fun ⟨hv, hm⟩ => ⟨written hv hm (exec_modes h a), written hv hm (exec_mtsr_mode h a)⟩,
      fun hn hc i hi => ?refused⟩
    case mode =>
      have hself : (m.zeroExtend 64).setWidth 16 = m := by simp
      have hsmall : (m.zeroExtend 64).toNat < 2 ^ 16 := by simp; omega
      have := written (i := .mode m) hsmall (hself.symm ▸ hm) (onCur_eq h _)
      rwa [hself] at this
    case refused =>
      have hbad : exec i s = illegal s st 0 := by
        have hx := writeMode_illegal (s := s) (st := st) (v := v) (fun ⟨hv, hm⟩ => hn ⟨hv, (modeOk_iff _).mp hm⟩)
        simp only [List.mem_cons, List.not_mem_nil, or_false] at hi
        rcases hi with rfl | rfl
        · exact (exec_modes h a).trans hx
        · exact (exec_mtsr_mode h a).trans hx
      exact hbad.trans (illegal_enters h hc 0)

end Sys2Proof.Machine
end

section
/-!
SUPPORT. A memory instruction at the operand log: it takes the next entry, or waits at a full log (R68).
-/
namespace Sys2Proof.Machine

/-- An update of the executing strand changes nothing else. -/
theorem putStrand_strandOnly (s : State) (st : Strand) : s.StrandOnly (s.putStrand st) :=
  ⟨rfl, fun _ h => State.strandAt_putStrand_ne _ _ h⟩

/-! ### The operand log -/

/-- A strand whose request has taken the next entry of its operand log. -/
def Strand.logged (st : Strand) (req : MemReq) : Strand :=
  { st.setLog (st.log ++ [{ pc := st.pc, req := req, mode := st.mode }]) with wait := .none, pc := st.pc + 4 }

section
variable (st : Strand) (req : MemReq)

theorem logged_log : (st.logged req).log = st.log ++ [{ pc := st.pc, req := req, mode := st.mode }] := Strand.log_setLog _ _

theorem logged_sameRegs : st.SameRegs (st.logged req) none none where
  scalars n _ := Strand.getS_setLog _ _ n
  vectors n _ := Strand.getV_setLog _ _ n
  preds n := Strand.getP_setLog _ _ n
  mode := Strand.mode_setLog _ _
  em := Strand.em_setLog _ _
  traps := ⟨Strand.setLog_trapcause _ _, Strand.setLog_trappc _ _, Strand.setLog_trapaddr _ _, Strand.setLog_trapinfo _ _,
    Strand.setLog_epc _ _, Strand.setLog_trapvec _ _⟩
  staging := Strand.setLog_staging _ _

theorem wait_sameRegs (w : Wait) : st.SameRegs { st with wait := w } none none :=
  ⟨fun _ _ => rfl, fun _ _ => rfl, fun _ => rfl, rfl, rfl, ⟨rfl, rfl, rfl, rfl, rfl, rfl⟩, rfl⟩

variable (s : State)

theorem pushLog_room {st : Strand} (h : st.log.length < 4) : s.pushLog s.cur st req = s.putStrand (st.logged req) := by
  rw [State.pushLog, if_neg (Nat.not_le.mpr h)]
  simp only [Strand.logged, Strand.advance, Strand.setLog_pc, State.putStrand]

theorem pushLog_full {st : Strand} (h : 4 ≤ st.log.length) : s.pushLog s.cur st req = s.putStrand { st with wait := .logFull } := if_pos h

end

/-- R68: a request enters the log behind others, or where its one address misses at the TLB. -/
theorem mustLog_load {s : State} {st : Strand} {d n reuse : Nat} {x : DWord}
    (h : st.log ≠ [] ∨ s.tlbMiss (s.agentOf st) x.toNat n = true) : s.mustLog st (.load d n x reuse) = true := by
  have haddr : s.reqAddrs st (.load d n x reuse) = [x] := rfl
  rw [State.mustLog, haddr]
  simpa [MemReq.width] using h

theorem loadScalar_logs {s : State} {st : Strand} (h : s.strand? = some st) {n d a reuse : Nat} {off : BitVec 6}
    (ha : (offsetAddr (st.getS a) off n).toNat % n = 0)
    (hm : st.log ≠ [] ∨ s.tlbMiss (s.agentOf st) (offsetAddr (st.getS a) off n).toNat n = true) :
    loadScalar n d a reuse off s = .next (s.pushLog s.cur st (.load d n (offsetAddr (st.getS a) off n) reuse)) := by
  rw [loadScalar, onCur_eq h]
  simp only [ha, bne_self_eq_false, Bool.false_eq_true, if_false]
  rw [issueMem, mustLog_load hm, if_pos rfl]

/-- Settles O30: an aligned load that misses comes to `pushLog`, which takes an entry or waits. -/
theorem operandLogTakesMisses : Obligations.OperandLogTakesMisses := by
  intro s st d a reuse off h logs
  have logged {i : Instr} {n : Nat} (hi : exec i s = loadScalar n d a reuse off s) : logs i n := by
    intro ha hm
    have hpush := hi.trans (loadScalar_logs h ha hm)
    by_cases hroom : st.log.length < 4
    · rw [pushLog_room _ s hroom] at hpush
      exact ⟨_, _, hpush, State.strand?_putStrand .., putStrand_strandOnly .., fun _ => rfl, fun _ => ⟨rfl, logged_log ..⟩,
        fun hfull => absurd hroom (Nat.not_lt.mpr hfull), logged_sameRegs ..⟩
    · rw [pushLog_full _ s (Nat.not_lt.mp hroom)] at hpush
      exact ⟨_, _, hpush, State.strand?_putStrand .., putStrand_strandOnly .., fun _ => rfl, fun hr => absurd hr hroom,
        fun _ => ⟨rfl, rfl, rfl⟩, wait_sameRegs ..⟩
  exact ⟨logged rfl, logged rfl, logged rfl, logged rfl⟩

end Sys2Proof.Machine
end

section
/-!
SUPPORT. The frame of the vector instructions: what they do is a trap at issue, or a completion with one vector register written (R57, R64,
R66, R73).
-/
namespace Sys2Proof.Machine

/-! ### Traps and completions by the pc they leave (R66, R73) -/

/-- R73: a trap of a strand that can take it leaves the pc at the trap vector. -/
theorem trapCur_pc {s t : State} {st st' : Strand} {tr : Trap} (h : s.strand? = some st) (hc : st.CanTrap) (ht : trapCur s tr = .next t)
    (h' : t.strand? = some st') : st'.pc = st.trapvec.toNat := by
  rw [trapCur_enters h hc] at ht
  cases ht
  rw [State.strand?_putStrand] at h'
  cases h'
  rfl

/-- R66: a completion is done, or an enabled flag has taken the strand to its handler. -/
theorem finish_next {s t : State} {x st' : Strand} {fl : IFlags} (hc : x.CanTrap) (ht : finish s x fl = .next t) (h' : t.strand? = some st') :
    t = s.done x fl ∨ st'.pc = x.trapvec.toNat := by
  by_cases hfl : fl &&& (s.headerOf x).trapen = 0
  · rw [finish_done hfl] at ht
    cases ht
    exact .inl rfl
  · refine .inr ?_
    rw [finish, State.complete, if_neg hfl] at ht
    exact (trapCur_pc (done_strand s x fl) hc ht h' :)

/-! ### Instructions that write one vector register -/

/-- What an instruction that writes vector register `d` can do: trap at issue, or complete with it written. -/
def State.WritesOrTraps (s : State) (st : Strand) (d : Nat) (o : Out) : Prop :=
  (∃ tr, o = trapCur s tr) ∨ ∃ v fl, o = finish s (st.setV d v) fl

section
variable {s : State} {st : Strand} {d : Nat}

theorem writesOrTraps_finish (v : VReg) (fl : IFlags) : s.WritesOrTraps st d (finish s (st.setV d v) fl) := .inr ⟨v, fl, rfl⟩

theorem writesOrTraps_writeLanes (f : Nat → Word) : s.WritesOrTraps st d (writeLanes s st d f) := writesOrTraps_finish _ _

theorem writesOrTraps_withRegs {k : Out} (regs : List Nat) (hk : s.WritesOrTraps st d k) : s.WritesOrTraps st d (withRegs s st regs k) := by
  unfold withRegs
  split
  · exact hk
  · exact .inl ⟨_, rfl⟩

theorem writesOrTraps_withTags {k : Out} (checks : List (Bool × Nat × Tag)) (hk : s.WritesOrTraps st d k) :
    s.WritesOrTraps st d (withTags s st checks k) := by
  unfold withTags
  split
  · exact .inl ⟨_, rfl⟩
  · exact hk

/-- The two checks of R57 before a completion. -/
theorem writesOrTraps_checked {k : Out} {regs : List Nat} {checks : List (Bool × Nat × Tag)} (hk : s.WritesOrTraps st d k) :
    s.WritesOrTraps st d (withRegs s st regs (withTags s st checks k)) :=
  writesOrTraps_withRegs regs (writesOrTraps_withTags checks hk)

variable (h : s.strand? = some st)
include h

theorem writesOrTraps_onCur {f : Strand → Out} (hf : s.WritesOrTraps st d (f st)) : s.WritesOrTraps st d (onCur s f) := (onCur_eq h f).symm ▸ hf

theorem writesOrTraps_vec2 (op : VOp) (a b : Nat) : s.WritesOrTraps st d (vec2 op d a b s) :=
  writesOrTraps_onCur h (writesOrTraps_checked (writesOrTraps_finish _ _))

theorem writesOrTraps_vecBits (a b : Nat) (f : Word → Word → Word) : s.WritesOrTraps st d (vecBits d a b f s) :=
  writesOrTraps_onCur h (writesOrTraps_checked (writesOrTraps_writeLanes _))

theorem writesOrTraps_vecElems (a b : Nat) (f : Tag → Nat → Nat → Nat) : s.WritesOrTraps st d (vecElems d a b f s) :=
  writesOrTraps_onCur h (writesOrTraps_checked (writesOrTraps_finish _ _))

theorem writesOrTraps_vcvt (a : Nat) : s.WritesOrTraps st d (exec (.vcvt d a) s) := by
  refine writesOrTraps_onCur h (writesOrTraps_checked ?_)
  split
  · exact writesOrTraps_writeLanes _
  · exact writesOrTraps_finish _ _

theorem writesOrTraps_vunpk (a sel : Nat) : s.WritesOrTraps st d (exec (.vunpk d a sel) s) := by
  refine writesOrTraps_onCur h (writesOrTraps_checked ?_)
  split
  · exact writesOrTraps_writeLanes _
  · exact writesOrTraps_finish _ _

end

section
variable {s : State} {st : Strand} (h : s.strand? = some st) (d a b : Nat)
include h

theorem writesOrTraps_arithmetic : ∀ i ∈ [Instr.vadd d a b, .vsub d a b, .vmul d a b, .vmad d a b, .vmin d a b, .vmax d a b, .vabs d a, .vneg d a,
    .vdiv d a b, .vrcp d a, .vrsq d a, .vsqrt d a, .vexp2 d a, .vlog2 d a, .vrnd d a, .vmulh d a b], s.WritesOrTraps st d (exec i s) := by
  have is {i : Instr} {op : VOp} {b : Nat} (hi : exec i s = vec2 op d a b s) : s.WritesOrTraps st d (exec i s) := hi ▸ writesOrTraps_vec2 h op a b
  simp only [List.forall_mem_cons, List.not_mem_nil, false_imp_iff, implies_true, and_true]
  exact ⟨is rfl, is rfl, is rfl, is rfl, is rfl, is rfl, is rfl, is rfl, is rfl, is rfl, is rfl, is rfl, is rfl, is rfl, is rfl, is rfl⟩

theorem writesOrTraps_bits : ∀ i ∈ [Instr.vand d a b, .vor d a b, .vxor d a b, .vnot d a, .vshl d a b, .vshr d a b, .vclz d a, .vpopc d a],
    s.WritesOrTraps st d (exec i s) := by
  have vnot : s.WritesOrTraps st d (execVnot d a s) := writesOrTraps_vecBits h a a _
  have vclz : s.WritesOrTraps st d (execVclz d a s) := writesOrTraps_vecElems h a a _
  have vpopc : s.WritesOrTraps st d (execVpopc d a s) := writesOrTraps_vecElems h a a _
  simp only [List.forall_mem_cons, List.not_mem_nil, false_imp_iff, implies_true, and_true]
  exact ⟨writesOrTraps_vecBits h a b _, writesOrTraps_vecBits h a b _, writesOrTraps_vecBits h a b _, vnot, writesOrTraps_vecElems h a b _,
    writesOrTraps_vecElems h a b _, vclz, vpopc⟩

theorem writesOrTraps_moves : ∀ i ∈ [Instr.vsel d a b, .vbcst d a, .vsetl d a b, .vshuf d a b, .vlane d a b, .vprefix d a, .vmatch d a],
    s.WritesOrTraps st d (exec i s) := by
  have is {i : Instr} {f : Strand → Out} (hi : exec i s = onCur s f) (hf : s.WritesOrTraps st d (f st)) : s.WritesOrTraps st d (exec i s) :=
    hi ▸ writesOrTraps_onCur h hf
  simp only [List.forall_mem_cons, List.not_mem_nil, false_imp_iff, implies_true, and_true]
  exact ⟨is rfl (writesOrTraps_checked (writesOrTraps_finish _ _)), is rfl (writesOrTraps_withRegs _ (writesOrTraps_writeLanes _)),
    is rfl (writesOrTraps_checked (writesOrTraps_writeLanes _)), is rfl (writesOrTraps_checked (writesOrTraps_writeLanes _)),
    is rfl (writesOrTraps_checked (writesOrTraps_writeLanes _)), is rfl (writesOrTraps_checked (writesOrTraps_writeLanes _)),
    is rfl (writesOrTraps_checked (writesOrTraps_writeLanes _))⟩

theorem writesOrTraps_conversions : ∀ i ∈ [Instr.vscan d a, .vcvt d a, .vpack d a b, .vunpk d a b, .vretag d a .raw],
    s.WritesOrTraps st d (exec i s) := by
  have is {i : Instr} {f : Strand → Out} (hi : exec i s = onCur s f) (hf : s.WritesOrTraps st d (f st)) : s.WritesOrTraps st d (exec i s) :=
    hi ▸ writesOrTraps_onCur h hf
  simp only [List.forall_mem_cons, List.not_mem_nil, false_imp_iff, implies_true, and_true]
  exact ⟨is rfl (writesOrTraps_checked (writesOrTraps_finish _ _)), writesOrTraps_vcvt h a,
    is rfl (writesOrTraps_checked (writesOrTraps_finish _ _)), writesOrTraps_vunpk h a b,
    is rfl (writesOrTraps_withRegs _ (writesOrTraps_finish _ _))⟩

end

/-- A completed instruction that wrote vector register `d` has changed nothing else of its strand but `%flags`, the pc and what it waits for. -/
theorem setV_onlyVector (st : Strand) (d : Nat) (v : VReg) (fl : IFlags) :
    st.OnlyVector d { st.setV d v with flags := (st.setV d v).flags ||| fl, wait := .none, pc := (st.setV d v).pc + 4 } where
  scalars := Strand.getS_setV st d v
  vectors n hn := (Strand.getV_setV st d v n).trans (if_neg hn)
  preds := Strand.getP_setV st d v
  tiles := Strand.getT_setV st d v
  mode := Strand.mode_setV st d v
  em := Strand.em_setV st d v
  log := Strand.log_setV st d v
  staging := Strand.setV_staging st d v
  rest := by simp

/-- A flag that is set stays set where others are raised. -/
theorem flags_sticky (x y : IFlags) : (x ||| y) &&& x = x := by
  ext i hi
  simp only [BitVec.getElem_and, BitVec.getElem_or]
  cases x[i] <;> simp

/-- Settles O25: the pc tells that no trap was taken, so the instruction completed with vector register `d` written. -/
theorem vectorFrame : Obligations.VectorFrame := by
  intro s t st st' d a b i hi h ht h' hpc hvec hc
  have hform : s.WritesOrTraps st d (exec i s) := by
    have hall := List.forall_mem_append.mpr ⟨writesOrTraps_arithmetic h d a b, List.forall_mem_append.mpr ⟨writesOrTraps_bits h d a b,
      List.forall_mem_append.mpr ⟨writesOrTraps_moves h d a b, writesOrTraps_conversions h d a b⟩⟩⟩
    exact hall i hi
  have hdone : ∃ v fl, t = s.done (st.setV d v) fl := by
    obtain ⟨tr, ho⟩ | ⟨v, fl, ho⟩ := hform
    · exact absurd ((trapCur_pc h hc (ho.symm.trans ht) h').symm.trans hpc) hvec
    · have hc' : (st.setV d v).CanTrap := by
        simpa [Strand.CanTrap, Strand.active?] using hc
      refine (finish_next hc' (ho.symm.trans ht) h').elim (fun hd => ⟨v, fl, hd⟩) fun hp => absurd (hp.symm.trans hpc) ?_
      rwa [Strand.setV_trapvec]
  obtain ⟨v, fl, rfl⟩ := hdone
  obtain rfl := Option.some.inj ((done_strand ..).symm.trans h')
  refine ⟨done_strandOnly .., fun _ => by rw [done_mem], setV_onlyVector st d v fl, ?_⟩
  exact (congrArg (fun x => (x ||| fl) &&& st.flags) (Strand.setV_flags ..)).trans (flags_sticky ..)

end Sys2Proof.Machine
end

section
/-!
SUPPORT. Two refutations: what a trap's entry forgets of peers' lines, and the other strands that a replayed load reaches by a line that gives
way (R68, R73, R206, R325).
-/
namespace Sys2Proof.Machine

/-! ### Entry to the handler (R73) -/

/-- R70, R77: TRAP n of a strand that can trap enters the handler, which returns behind it. -/
theorem exec_trap_enters {s : State} {st : Strand} (h : s.strand? = some st) (hc : st.CanTrap) (n : BitVec 16) :
    exec (.trap n) s = .next ((s.leaveCritWait s.cur st).putStrand
      (st.enterTrap { cause := 0x06, detail := n.toNat, pc := st.pc, epc := st.pc + 4, addr := 0, info := 0 })) :=
  (onCur_eq h _).trans (trapCur_enters h hc _)

theorem enterTrap_peerLines (st : Strand) (t : Trap) : (st.enterTrap t).peerLines = [] := rfl

/-- A strand with a handler that holds a word delivered of the line 64 of a peer. -/
def strandHoldingLine : Strand :=
  { Strand.start 1 0 0 false 0 { Header.none with handler := 0x8000 } with peerLines := [(64, [(0, 1)])] }

/-- That strand executing, in a module with nothing else. -/
def stateHoldingLine : State := { State.reset with cur := 1, strands := [(1, strandHoldingLine)] }

/-- Refutes O6: the statement keeps every field of the strand that it does not name, `peerLines` among them, but entry to the handler forgets
what peers have delivered for the instruction (R325). -/
theorem not_trapEntry : ¬ Obligations.TrapEntry := by
  intro h
  have hcur : stateHoldingLine.strand? = some strandHoldingLine := rfl
  have hc : strandHoldingLine.CanTrap := ⟨by decide, by decide⟩
  obtain ⟨⟨t, st', ht, hst, -, -, -, -, -, -, hframe, -⟩, -⟩ := (h.1 stateHoldingLine strandHoldingLine 0 hcur).1 hc
  obtain rfl := Host.Outcome.next.inj ((exec_trap_enters hcur hc 0).symm.trans ht)
  obtain rfl := Option.some.inj ((State.strand?_putStrand ..).symm.trans hst)
  have hkept := congrArg Strand.peerLines hframe
  rw [enterTrap_peerLines] at hkept
  exact absurd hkept (by decide)

/-! ### A replayed load whose line takes a victim's place (R206) -/

/-- A line of a peer that the L1 of core 0 holds DIRTY in set 0. -/
def dirtyPeerLine (way : Nat) : L1Line :=
  { asid := 7, vline := 64 * (way + 1), pline := 0, peer := some 1, readable := true, writable := true, way := way, rrip := 0
    words := [(0, { st := .dirty 15, data := 0, poison := false, owner := 1, report := none })] }

/-- A strand whose operand log holds the load of a byte at address 0. -/
def replayingStrand : Strand :=
  (Strand.start 1 0 0 false 0 Header.none).setLog [{ pc := 0, req := .load 1 1 0 0, mode := 0 }]

/-- Two strands of a core, of which the second holds a line delivered by a peer; the L1's set 0 is full of DIRTY lines of peers, that line
among them. -/
def stateFullSet : State :=
  { State.reset with
    strands := [(1, replayingStrand), (2, strandHoldingLine)]
    teams := [(1, { Team.none with launch := 1, gang := 1, strands := [1, 2] })]
    launches := [(1, { Launch.none with asid := 7 })]
    cores := [(0, { Core.idle with l1 := (List.range 8).map dirtyPeerLine })]
    pages := [{ asid := 7, base := 0, size := 8192, frame := some 0, peer := none, readable := true, writable := true, shared := none
                pins := [0], table := [] }] }

/-- Refutes O44: the load's line takes the place of the line at 64, which goes out to its home as a store; what strand 2 held delivered of
that line is older and is forgotten. -/
theorem not_strandEvents : ¬ Obligations.StrandEvents := by
  intro h
  obtain ⟨-, -, -, hreplay⟩ := h.1 stateFullSet 1 replayingStrand rfl
  obtain ⟨t, -, ht, -, -, -, -, -, hothers⟩ := hreplay 1 1 0 0 _ _ rfl rfl rfl rfl (by decide)
  have hkept : (stateFullSet.replayLog 1).strandAt 2 = stateFullSet.strandAt 2 := by
    rw [← hothers 2 (by decide)]
    cases ht
    rfl
  have hlost : ((stateFullSet.replayLog 1).strandAt 2).map Strand.peerLines = some [] := by decide
  rw [hkept] at hlost
  exact absurd hlost (by decide)

end Sys2Proof.Machine
end

section
/-!
SUPPORT. Scalar and predicate instructions: each writes one register and nothing else; the spec's formulas for what it writes (R74, R81–R83,
R86, R87).
-/
namespace Sys2Proof.Machine

/-! ### Completion with one register written (R74, R87) -/

section
variable {s : State} {st : Strand} (h : s.strand? = some st) {i : Instr} {d : Nat}
include h

theorem writes_of_scalarOp {f : Strand → DWord} {v : DWord} (hi : exec i s = scalarOp s d f) (hv : f st = v) : s.Writes st i d v := by
  subst hv
  exact hi.trans ((onCur_eq h _).trans (finish_zero ..))

theorem writesPred_of_predOp {f : Strand → Word} {v : Word} (hi : exec i s = predOp s d f) (hv : f st = v) : s.WritesPred st i d v := by
  subst hv
  exact hi.trans ((onCur_eq h _).trans (finish_zero ..))

end

/-- A completed instruction that wrote scalar `d` has changed nothing else of its strand but the pc and what it waits for. -/
theorem setS_onlyScalar (st : Strand) (d : Nat) (v : DWord) :
    st.OnlyScalar d { st.setS d v with flags := (st.setS d v).flags ||| 0, wait := .none, pc := (st.setS d v).pc + 4 } where
  scalars n hn := (Strand.getS_setS st d v n).trans (if_neg fun h => hn h.1)
  vectors := Strand.getV_setS st d v
  preds := Strand.getP_setS st d v
  tiles := Strand.getT_setS st d v
  mode := Strand.mode_setS st d v
  em := Strand.em_setS st d v
  log := Strand.log_setS st d v
  staging := Strand.setS_staging st d v
  rest := by simp

/-- A completed instruction that wrote predicate `d` has changed nothing else of its strand but the pc and what it waits for. -/
theorem setP_onlyPred (st : Strand) (d : Nat) (v : Word) :
    st.OnlyPred d { st.setP d v with flags := (st.setP d v).flags ||| 0, wait := .none, pc := (st.setP d v).pc + 4 } where
  scalars := Strand.getS_setP st d v
  vectors := Strand.getV_setP st d v
  preds n hn := (Strand.getP_setP st d v n).trans (if_neg hn)
  tiles := Strand.getT_setP st d v
  mode := Strand.mode_setP st d v
  em := Strand.em_setP st d v
  log := Strand.log_setP st d v
  staging := Strand.setP_staging st d v
  rest := by simp

theorem exec_scalarOp (s : State) (d a b sh : Nat) (i8 : BitVec 8) (i16 : BitVec 16) :
    ∀ i ∈ [Instr.add d a b, .sub d a b, .mul d a b, .mulh d a b, .mulhn d a b, .div d a b, .divn d a b, .rem d a b, .remn d a b,
      .and d a b, .or d a b, .xor d a b, .shl d a b, .shr d a b, .sra d a b, .slt d a b, .sltn d a b, .min d a b, .max d a b,
      .minn d a b, .maxn d a b, .clz d a, .popc d a, .addi d a i8, .shli d a sh, .shri d a sh, .srai d a sh, .andi d a i8,
      .li d i16, .lih d i16, .ppopc d a, .pffs d a, .ptos d a], ∃ f, exec i s = scalarOp s d f := by
  simp only [List.forall_mem_cons, List.not_mem_nil, false_imp_iff, implies_true, and_true]
  and_intros <;> exact ⟨_, rfl⟩

theorem exec_predOp (s : State) (d a b : Nat) :
    ∀ i ∈ [Instr.emget d, .pand d a b, .por d a b, .pxor d a b, .pandn d a b, .pnot d a, .pfroms d a], ∃ f, exec i s = predOp s d f := by
  simp only [List.forall_mem_cons, List.not_mem_nil, false_imp_iff, implies_true, and_true]
  and_intros <;> exact ⟨_, rfl⟩

/-- Settles O4: each instruction completes with its one register written. -/
theorem registerFrames : Obligations.RegisterFrames := by
  constructor
  · intro s t st st' d a b sh i8 i16 i hi h ht h'
    obtain ⟨f, hf⟩ := exec_scalarOp s d a b sh i8 i16 i hi
    obtain rfl := Host.Outcome.next.inj ((writes_of_scalarOp h hf rfl).symm.trans ht)
    obtain rfl := Option.some.inj ((done_strand ..).symm.trans h')
    exact ⟨done_strandOnly .., fun _ => by rw [done_mem], setS_onlyScalar st d _, Strand.getS_zero _⟩
  · intro s t st st' d a b i hi h ht h'
    obtain ⟨f, hf⟩ := exec_predOp s d a b i hi
    obtain rfl := Host.Outcome.next.inj ((writesPred_of_predOp h hf rfl).symm.trans ht)
    obtain rfl := Option.some.inj ((done_strand ..).symm.trans h')
    refine ⟨done_strandOnly .., fun _ => by rw [done_mem], setP_onlyPred st d _, ?_⟩
    exact BitVec.or_zero.trans (Strand.setP_flags ..)

/-! ### Products and shifts (R81) -/

theorem mulHigh_eq (x y : DWord) : mulHigh x y = (x.signExtend 128 * y.signExtend 128).extractLsb' 64 64 := by
  apply BitVec.eq_of_toNat_eq
  rw [mulHigh, BitVec.signExtend, BitVec.signExtend, ← BitVec.ofInt_mul, BitVec.extractLsb'_toNat, BitVec.toNat_ofInt, BitVec.toNat_ofInt]
  generalize x.toInt * y.toInt = p
  rw [Nat.shiftRight_eq_div_pow]
  omega

theorem mulHighU_eq (x y : DWord) : mulHighU x y = (x.zeroExtend 128 * y.zeroExtend 128).extractLsb' 64 64 := by
  apply BitVec.eq_of_toNat_eq
  have hx : (x.zeroExtend 128).toNat = x.toNat := BitVec.toNat_setWidth_of_le (by decide)
  have hy : (y.zeroExtend 128).toNat = y.toNat := BitVec.toNat_setWidth_of_le (by decide)
  rw [mulHighU, BitVec.extractLsb'_toNat, BitVec.toNat_mul, BitVec.toNat_ofNat, hx, hy]
  generalize x.toNat * y.toNat = p
  rw [Nat.shiftRight_eq_div_pow]
  omega

/-- The register shifts use bits 5:0 of the count. -/
theorem toNat_and_63 (y : DWord) : (y &&& 63).toNat = y.toNat % 64 :=
  (BitVec.toNat_and ..).trans (Nat.and_two_pow_sub_one_eq_mod _ 6)

theorem sraBy_eq (x : DWord) (k : Nat) : sraBy x k = x.sshiftRight k := by
  rw [sraBy, BitVec.sshiftRight, Int.shiftRight_eq_div_pow]
  norm_cast

/-! ### Signed and unsigned choice (R81) -/

theorem toInt_le_iff (x y : DWord) : x.toInt ≤ y.toInt ↔ x.slt y = true ∨ x = y := by
  rw [BitVec.slt, decide_eq_true_eq, Int.le_iff_lt_or_eq, BitVec.toInt_inj]

theorem toNat_le_iff (x y : DWord) : x.toNat ≤ y.toNat ↔ x.ult y = true ∨ x = y := by
  rw [BitVec.ult, decide_eq_true_eq, Nat.le_iff_lt_or_eq, BitVec.toNat_inj]

/-- A choice between values that are equal where `x = y` need not ask whether it is. -/
theorem ite_or_eq {x y a b : DWord} (p : Prop) [Decidable p] (hab : x = y → a = b) : (if p ∨ x = y then a else b) = if p then a else b := by
  by_cases hp : p
  · simp [hp]
  · by_cases he : x = y
    · simp [hp, he, hab he]
    · simp [hp, he]

/-! ### Bits counted (R81, R87) -/

theorem bitAt_toNat {w : Nat} (x : BitVec w) (i : Nat) : bitAt x.toNat i = x.getLsbD i := by
  rw [BitVec.getLsbD, Nat.testBit_eq_decide_div_mod_eq]
  rfl

theorem oneBits_toNat {w : Nat} (n : Nat) (x : BitVec w) : oneBits n x.toNat = (List.range n).countP (fun i => x.getLsbD i) := by
  rw [oneBits, List.countP_eq_length_filter, funext (bitAt_toNat x)]

/-- The first number below `n` that passes a test, `n` where none does. -/
theorem find_range_getD (n : Nat) (p : Nat → Bool) {k : Nat} (hk : ((List.range n).find? p).getD n = k) :
    k ≤ n ∧ (∀ i, i < k → p i = false) ∧ (k < n → p k = true) := by
  cases hf : (List.range n).find? p with
  | none =>
    obtain rfl : n = k := by rwa [hf] at hk
    rw [List.find?_range_eq_none] at hf
    exact ⟨Nat.le_refl n, fun i hi => by simpa using hf i hi, fun h => absurd h (Nat.lt_irrefl n)⟩
  | some j =>
    obtain rfl : j = k := by rwa [hf] at hk
    rw [List.find?_range_eq_some] at hf
    obtain ⟨hp, hj, hlt⟩ := hf
    exact ⟨Nat.le_of_lt (List.mem_range.mp hj), fun i hi => by simpa using hlt i hi, fun _ => hp⟩

theorem leadingZeros_spec (x : DWord) {n : Nat} (hn : leadingZeros 64 x.toNat = n) :
    n ≤ 64 ∧ (∀ i, i < n → x.getLsbD (63 - i) = false) ∧ (n < 64 → x.getLsbD (63 - n) = true) := by
  rw [leadingZeros, funext fun i => bitAt_toNat x (64 - 1 - i)] at hn
  exact find_range_getD 64 _ hn

/-! ### Constants (R83) -/

/-- LIH, as a number. -/
theorem lih_toNat (x : DWord) (c : BitVec 16) : (x <<< 16 ||| c.zeroExtend 64).toNat = x.toNat % 2 ^ 48 * 2 ^ 16 + c.toNat := by
  have hc : (c.zeroExtend 64).toNat = c.toNat := BitVec.toNat_setWidth_of_le (by decide)
  have hx : x.toNat <<< 16 % 2 ^ 64 = (x.toNat % 2 ^ 48) <<< 16 := by
    rw [Nat.shiftLeft_eq, Nat.shiftLeft_eq]
    omega
  rw [BitVec.toNat_or, BitVec.toNat_shiftLeft, hc, hx, ← Nat.shiftLeft_add_eq_or_of_lt c.isLt, Nat.shiftLeft_eq]

theorem signExtend_toNat_low (c : BitVec 16) : (c.signExtend 64).toNat % 2 ^ 16 = c.toNat := by
  have hi := BitVec.toNat_ofInt (n := 64) c.toInt
  have hc := BitVec.toInt_eq_toNat_cond c
  have := c.isLt
  rw [BitVec.signExtend, hi, hc]
  split <;> omega

/-- Three LIH after an LI shift out what the LI has sign-extended. -/
theorem chunks_eq (v : DWord) :
    ((((v.extractLsb' 48 16).signExtend 64 <<< 16 ||| (v.extractLsb' 32 16).zeroExtend 64) <<< 16 ||| (v.extractLsb' 16 16).zeroExtend 64) <<< 16
      ||| (v.extractLsb' 0 16).zeroExtend 64) = v := by
  apply BitVec.eq_of_toNat_eq
  have htop := signExtend_toNat_low (v.extractLsb' 48 16)
  rw [lih_toNat, lih_toNat, lih_toNat]
  simp only [BitVec.extractLsb'_toNat, Nat.shiftRight_eq_div_pow] at htop ⊢
  omega

/-- A scalar written and read by the next instruction. -/
theorem writes_then {s t : State} {st : Strand} {i : Instr} {d : Nat} {v : DWord} (hw : s.Writes st i d v) (ht : exec i s = .next t) (hd : d ≠ 0) :
    ∃ st', t.strand? = some st' ∧ st'.getS d = v ∧ st'.pc = st.pc + 4 := by
  obtain rfl := Host.Outcome.next.inj (hw.symm.trans ht)
  refine ⟨_, done_strand .., ?_, congrArg (· + 4) (Strand.setS_pc ..)⟩
  exact (Strand.getS_setS st d v d).trans (if_pos ⟨rfl, hd⟩)

theorem writes_li {s : State} {st : Strand} (h : s.strand? = some st) (d : Nat) (c : BitVec 16) : s.Writes st (.li d c) d (c.signExtend 64) :=
  writes_of_scalarOp h rfl rfl

theorem writes_lih {s : State} {st : Strand} (h : s.strand? = some st) (d : Nat) (c : BitVec 16) :
    s.Writes st (.lih d c) d (st.getS d <<< 16 ||| c.zeroExtend 64) :=
  writes_of_scalarOp h rfl rfl

/-- Settles O1: each instruction is a `scalarOp`, and what it computes is the spec's formula. -/
theorem scalarResults : Obligations.ScalarResults := by
  refine ⟨fun s st d a b h => ?registers, fun s st d a sh imm h _ => ?immediates, fun s st d imm h => ⟨writes_li h d imm, writes_lih h d imm⟩,
    fun s s1 s2 s3 s4 st d v h hd h1 h2 h3 h4 => ?constant⟩
  case registers =>
    intro x y
    have w {i : Instr} {f : Strand → DWord} {v : DWord} (hi : exec i s = scalarOp s d f) (hv : f st = v) : s.Writes st i d v :=
      writes_of_scalarOp h hi hv
    have hmin : (if x.toInt ≤ y.toInt then x else y) = if x.slt y then x else y := by simp only [toInt_le_iff, ite_or_eq _ id]
    have hmax : (if x.toInt ≤ y.toInt then y else x) = if x.slt y then y else x := by simp only [toInt_le_iff, ite_or_eq _ Eq.symm]
    have hminn : (if x.toNat ≤ y.toNat then x else y) = if x.ult y then x else y := by simp only [toNat_le_iff, ite_or_eq _ id]
    have hmaxn : (if x.toNat ≤ y.toNat then y else x) = if x.ult y then y else x := by simp only [toNat_le_iff, ite_or_eq _ Eq.symm]
    exact ⟨w rfl rfl, w rfl rfl, w rfl rfl, w rfl (mulHigh_eq x y), w rfl (mulHighU_eq x y), w rfl rfl, w rfl rfl, w rfl rfl,
      w rfl (congrArg (x <<< ·) (toNat_and_63 y).symm), w rfl (congrArg (x >>> ·) (toNat_and_63 y).symm),
      w rfl ((sraBy_eq x _).trans (congrArg x.sshiftRight (toNat_and_63 y).symm)), w rfl rfl, w rfl rfl,
      w rfl hmin, w rfl hmax, w rfl hminn, w rfl hmaxn, ⟨_, w rfl rfl, leadingZeros_spec x rfl⟩,
      w rfl (congrArg (BitVec.ofNat 64) (oneBits_toNat 64 x))⟩
  case immediates =>
    intro x
    exact ⟨writes_of_scalarOp h rfl rfl, writes_of_scalarOp h rfl rfl, writes_of_scalarOp h rfl rfl, writes_of_scalarOp h rfl (sraBy_eq x sh),
      writes_of_scalarOp h rfl rfl⟩
  case constant =>
    obtain ⟨st1, hs1, hv1, hp1⟩ := writes_then (writes_li h d _) h1 hd
    obtain ⟨st2, hs2, hv2, hp2⟩ := writes_then (writes_lih hs1 d _) h2 hd
    obtain ⟨st3, hs3, hv3, hp3⟩ := writes_then (writes_lih hs2 d _) h3 hd
    obtain ⟨st4, hs4, hv4, hp4⟩ := writes_then (writes_lih hs3 d _) h4 hd
    refine ⟨st4, hs4, ?_, by omega⟩
    rw [hv4, hv3, hv2, hv1, chunks_eq]

/-! ### Division (R82) -/

theorem divS_eq (x y : DWord) : divS x y = if y = 0 then 0xFFFFFFFFFFFFFFFF else
    if x = BitVec.intMin 64 ∧ y = -1 then BitVec.intMin 64 else BitVec.ofInt 64 (x.toInt.tdiv y.toInt) := by
  rw [divS]
  congr 1
  split
  next hlow =>
    obtain ⟨rfl, rfl⟩ := hlow
    decide
  next => rfl

theorem remS_eq (x y : DWord) : remS x y = if y = 0 then x else
    if x = BitVec.intMin 64 ∧ y = -1 then 0 else BitVec.ofInt 64 (x.toInt - y.toInt * x.toInt.tdiv y.toInt) := by
  rw [remS, Int.tmod_def]
  congr 1
  split
  next hlow =>
    obtain ⟨rfl, rfl⟩ := hlow
    decide
  next => rfl

/-- Settles O2: truncated division, with the two results that R82 gives for a zero divisor and for the quotient that overflows. -/
theorem divisionResults : Obligations.DivisionResults := fun _ _ _ _ _ h =>
  ⟨writes_of_scalarOp h rfl (divS_eq _ _), writes_of_scalarOp h rfl rfl, writes_of_scalarOp h rfl (remS_eq _ _), writes_of_scalarOp h rfl rfl⟩

/-! ### Predicates (R86, R87) -/

/-- Settles O3: each instruction is a `predOp` or a `scalarOp`, EMSET a completion with the mask written. -/
theorem predicateResults : Obligations.PredicateResults := by
  intro s st d a b h x y
  have p {i : Instr} {f : Strand → Word} {v : Word} (hi : exec i s = predOp s d f) (hv : f st = v) : s.WritesPred st i d v :=
    writesPred_of_predOp h hi hv
  have hlow : (st.getS a).setWidth 32 = (st.getS a).extractLsb' 0 32 := BitVec.setWidth_eq_extractLsb' (by decide)
  exact ⟨(onCur_eq h _).trans (finish_zero ..), p rfl rfl, p rfl rfl, p rfl rfl, p rfl rfl, p rfl rfl, p rfl rfl,
    writes_of_scalarOp h rfl (congrArg (BitVec.ofNat 64) (oneBits_toNat 32 x)),
    ⟨_, writes_of_scalarOp h rfl rfl, find_range_getD 32 (laneOn x) rfl⟩, p rfl hlow, writes_of_scalarOp h rfl rfl⟩

end Sys2Proof.Machine
end

section
/-!
SUPPORT. The return from a handler and the system instructions under SOLO (R73, R78, R88–R92).
-/
namespace Sys2Proof.Machine

/-! ### ERET (R78) -/

section
variable {s : State} {st : Strand} (h : s.strand? = some st)
include h

/-- R78: in a handler, ERET goes to an `%epc` in the imem half. -/
theorem exec_eret_returns (ha : st.active? = true) (h4 : st.epc.toNat % 4 = 0) (hb : st.epc.toNat < 65536) :
    exec .eret s = .next (s.putStrand st.returnFromTrap) := by
  refine (onCur_eq h _).trans ?_
  rw [ha, if_pos rfl]
  exact jumpTo_good Strand.returnFromTrap hb fun _ => h4

/-- R78: outside a handler, ERET traps ILLEGAL. -/
theorem exec_eret_traps (hc : st.CanTrap) : s.TrapsAtIssue st .eret 0x01 0 0 := by
  refine (onCur_eq h _).trans ?_
  rw [hc.1, if_neg Bool.false_ne_true]
  exact illegal_enters h hc 0

end

/-- R71: entry to the handler sets ACTIVE, whatever the cause. -/
theorem enterTrap_active (st : Strand) (t : Trap) (hcause : t.cause < 2 ^ 16) : (st.enterTrap t).active? = true := by
  have hlow : t.detail % 2 ^ 16 * 2 ^ 16 + t.cause < 2 ^ 63 := by omega
  have hcode : 2 ^ 63 + t.detail % 2 ^ 16 * 2 ^ 16 + t.cause = 2 ^ 63 + (t.detail % 2 ^ 16 * 2 ^ 16 + t.cause) := Nat.add_assoc ..
  rw [Strand.active?, Strand.enterTrap, BitVec.getLsbD_ofNat, hcode, Nat.testBit_two_pow_add_eq, Nat.testBit_lt_two_pow hlow]
  rfl

/-- R78: the return clears ACTIVE. -/
theorem returnFromTrap_active (st : Strand) : st.returnFromTrap.active? = false := by
  rw [Strand.active?, Strand.returnFromTrap, BitVec.getLsbD_and]
  exact Bool.and_false _

/-- Settles O7: the trap's entry writes `%epc` with the next word's address, in the imem half, and ERET goes there. -/
theorem errorReturn : Obligations.ErrorReturn := by
  refine ⟨fun s st h => ⟨exec_eret_returns h, exec_eret_traps h⟩, fun s t st n h hc h4 hb ht => ?_⟩
  obtain rfl := Host.Outcome.next.inj ((exec_trap_enters h hc n).symm.trans ht)
  have hepc : (BitVec.ofNat 64 (st.pc + 4)).toNat = st.pc + 4 := by
    rw [BitVec.toNat_ofNat]
    omega
  have hret := exec_eret_returns (State.strand?_putStrand (s.leaveCritWait s.cur st)
      (st.enterTrap { cause := 0x06, detail := n.toNat, pc := st.pc, epc := st.pc + 4, addr := 0, info := 0 }))
    (enterTrap_active st _ (show 0x06 < 2 ^ 16 by decide)) (hepc.symm ▸ by omega) (hepc.symm ▸ by omega)
  exact ⟨_, _, hret, State.strand?_putStrand .., hepc, ⟨returnFromTrap_active _, hc.2⟩, rfl, rfl, rfl, rfl, rfl⟩

/-! ### System instructions (R88–R92) -/

/-- R89, R274: SETTIMER of a strand that is no shadow or second. -/
theorem exec_settimer {s : State} {st : Strand} (h : s.strand? = some st) (hr : st.replica = 0) (a : Nat) :
    exec (.settimer a) s
      = .next (s.done { st with timer := if (st.getS a).toNat = 0 then none else some ((st.getS a).toNat + 1) } 0) := by
  have hzero : st.getS a = 0 ↔ (st.getS a).toNat = 0 := BitVec.toNat_eq
  refine (onCur_eq h _).trans ?_
  rw [if_neg (by simpa using hr), finish_zero]
  simp only [hzero]

/-- A change of the executing strand's team, and then a completion. -/
theorem done_onTeam {s : State} {st : Strand} {t : Team} (ht : cfind s.teams st.team = some t) (f : Team → Team) :
    let u := (s.onTeam st.team f).done st 0
    cfind u.teams st.team = some (f t) ∧ (∀ k, k ≠ st.team → cfind u.teams k = cfind s.teams k) ∧ u.strands = (s.done st 0).strands
      ∧ s.SameMemory u := by
  have hteam : s.onTeam st.team f = { s with teams := cput s.teams st.team (f t) } := by
    rw [State.onTeam, ht]
  intro u
  simp only [u, hteam]
  exact ⟨cfind_cput_self .., fun k hk => cfind_cput_ne _ _ hk, rfl, fun _ => rfl⟩

/-- R91: IDEMP under SOLO. -/
theorem exec_idemp {s : State} {st : Strand} (h : s.Solo st) :
    exec .idemp s = .next ((s.onTeam st.team fun t => { t with idemp := t.idemp || !t.synced }).done st 0) := by
  refine (onCur_eq h.current _).trans ?_
  rw [h.solo, if_neg (by decide), finish_zero]

/-- Settles O11: the reads complete with their value, SETTIMER with the timer set, and PERF and IDEMP with the team changed. -/
theorem systemResults : Obligations.SystemResults := by
  refine ⟨fun s st d a h hr => ⟨?time, ?cyc, exec_settimer h.current hr a, ?ckpt, ?sigchk⟩, fun s st t n h ht => ⟨?perf, ?idemp⟩⟩
  case time => exact (onCur_eq h.current _).trans (sharedScalar_solo h.solo ..)
  case cyc => exact (onCur_eq h.current _).trans (sharedScalar_solo h.solo ..)
  case ckpt => exact (onCur_eq h.current _).trans ((if_pos h.solo).trans (finish_zero ..))
  case sigchk => exact (onCur_eq h.current _).trans ((if_pos h.solo).trans (finish_zero ..))
  case perf =>
    refine ⟨_, _, (onCur_eq h.current _).trans (finish_zero ..), (done_onTeam ht _).1, ?_, (done_onTeam ht _).2⟩
    cases t.perfBy with
    | none => rfl
    | some k => exact apply_ite Team.perfcls ..
  case idemp =>
    exact ⟨_, _, exec_idemp h, (done_onTeam ht _).1, rfl, (done_onTeam ht _).2⟩

end Sys2Proof.Machine
end

section
/-!
SUPPORT. The end of a strand by EXIT: what follows the end in the retirement of its team keeps it ended (R79, R192, R213).
-/
namespace Sys2Proof.Machine

/-! ### Folds and tables -/

/-- A fold of steps that leave a part of the state alone leaves it alone. -/
theorem proj_foldl {β γ : Type} (g : State → γ) (f : State → β → State) (l : List β) (s : State) (hf : ∀ t b, g (f t b) = g t) :
    g (l.foldl f s) = g s :=
  List.foldlRecOn l f (motive := fun t => g t = g s) rfl fun t ht b _ => (hf t b).trans ht

/-- A key that a table does not list has no entry. -/
theorem cfind_eq_none_iff {α : Type} {m : Cells α} {k : Nat} : cfind m k = none ↔ ∀ e ∈ m, e.1 ≠ k := by
  induction m with
  | nil => simp
  | cons e l ih =>
    obtain ⟨a, v⟩ := e
    by_cases ha : a = k <;> simp [cfind_cons, ha, ih]

/-- An entry that is found is listed. -/
theorem mem_of_cfind {α : Type} {m : Cells α} {k : Nat} {v : α} (h : cfind m k = some v) : (k, v) ∈ m := by
  induction m with
  | nil => exact nomatch h
  | cons e l ih =>
    obtain ⟨a, w⟩ := e
    rw [cfind_cons] at h
    split at h
    · next ha =>
      cases h
      exact ha ▸ List.mem_cons_self
    · exact List.mem_cons_of_mem _ (ih h)

theorem mem_cput {α : Type} {m : Cells α} {k : Nat} {v : α} {e : Nat × α} (he : e ∈ cput m k v) : e = (k, v) ∨ e ∈ m ∧ e.1 ≠ k := by
  rw [cput, List.mem_append, List.mem_cons, List.mem_filter, List.mem_filter, decide_eq_true_eq, decide_eq_true_eq] at he
  obtain ⟨hm, hlt⟩ | rfl | ⟨hm, hlt⟩ := he
  · exact .inr ⟨hm, Nat.ne_of_lt hlt⟩
  · exact .inl rfl
  · exact .inr ⟨hm, Nat.ne_of_gt hlt⟩

/-! ### What leaves the table of strands alone -/

section
variable (s : State)

@[simp] theorem abandonReads_strands (i : Nat) : (s.abandonReads i).strands = s.strands := by
  unfold State.abandonReads
  split <;> rfl

@[simp] theorem unqueue_strands (i gang : Nat) : (s.unqueue i gang).strands = s.strands := State.onGang_strands ..

@[simp] theorem tellParts_strands (lid n : Nat) (k : PeerBarrier) : (s.tellParts lid n k).strands = s.strands := by
  unfold State.tellParts
  split <;> rfl

@[simp] theorem putBarrier_strands (st : Strand) (lv : BarLevel) (n : Nat) (b : Barrier) : (s.putBarrier st lv n b).strands = s.strands := by
  cases lv
  case team => exact State.onTeam_strands ..
  case gang => exact State.onGang_strands ..
  case range => exact State.onLaunch_strands ..
  case launch => exact State.onLaunch_strands ..

@[simp] theorem barCheck_strands (st : Strand) (lv : BarLevel) (n : Nat) : (s.barCheck st lv n).strands = s.strands := by
  unfold State.barCheck
  dsimp only
  split
  · exact putBarrier_strands ..
  · rfl

theorem eachBar_strands (st : Strand) (f : State → BarLevel → Nat → State) (hf : ∀ t lv n, (f t lv n).strands = t.strands) :
    (s.eachBar st f).strands = s.strands :=
  proj_foldl _ _ _ _ fun _ lv => proj_foldl _ _ _ _ fun t n => hf t lv n

@[simp] theorem barEnded_strands (st : Strand) (killed : Bool) : (s.barEnded st killed).strands = s.strands := by
  unfold State.barEnded
  split
  · rfl
  · refine eachBar_strands s st _ fun t lv n => ?_
    extract_lets b t1 b1
    have h1 : t1.strands = t.strands := by
      cases killed
      · rfl
      · exact putBarrier_strands ..
    split
    · exact h1
    · exact (barCheck_strands ..).trans h1

@[simp] theorem settleBars_strands (k : Nat) : (s.settleBars k).strands = s.strands := by
  unfold State.settleBars
  dsimp only
  split <;> rfl

@[simp] theorem settleSpills_strands : s.settleSpills.strands = s.strands := by
  unfold State.settleSpills
  extract_lets t out
  have ht : t.strands = s.strands := proj_foldl State.strands _ _ s settleBars_strands
  clear_value out t
  exact ht

end

/-! ### A property of whatever stands at a key -/

/-- Whatever the table of strands lists at key `i` has a property. -/
def State.AllAt (s : State) (i : Nat) (p : Strand → Prop) : Prop := ∀ e ∈ s.strands, e.1 = i → p e.2

section
variable {s t : State} {i : Nat} {p : Strand → Prop}

theorem State.AllAt.strandAt (h : s.AllAt i p) {st : Strand} (hst : s.strandAt i = some st) : p st := h _ (mem_of_cfind hst) rfl

/-- A table that lists no more than before keeps the property. -/
theorem State.AllAt.subset (h : s.AllAt i p) (hst : t.strands ⊆ s.strands) : t.AllAt i p := fun e he => h e (hst he)

theorem State.AllAt.of_strands (h : s.AllAt i p) (hst : t.strands = s.strands) : t.AllAt i p := h.subset (hst ▸ List.Subset.refl _)

/-- A change of the strand at the key gives the property, where the change does. -/
theorem allAt_onStrandAt {f : Strand → Strand} (hf : ∀ x, p (f x)) : (s.onStrandAt i f).AllAt i p := by
  unfold State.onStrandAt
  split
  · intro e he hi
    obtain rfl | ⟨-, hne⟩ := mem_cput he
    · exact hf _
    · exact absurd hi hne
  · next hnone => exact fun e he hi => absurd hi (cfind_eq_none_iff.mp hnone e he)

theorem State.AllAt.onStrandAt (h : s.AllAt i p) {f : Strand → Strand} (hf : ∀ x, p x → p (f x)) : (s.onStrandAt i f).AllAt i p := by
  unfold State.onStrandAt
  split
  · next st hst =>
    intro e he hi
    obtain rfl | ⟨-, hne⟩ := mem_cput he
    · exact hf st (h.strandAt hst)
    · exact absurd hi hne
  · exact h

end

/-! ### Ends and retirement (R79, R192) -/

/-- How a strand stands that has ended: it runs no more, with nothing pending and its timer disarmed. -/
def Strand.Ended (how : Run) (x : Strand) : Prop := x.run = how ∧ x.nodes = [] ∧ x.timer = none

theorem State.AllAt.tellEnd {s : State} {i : Nat} {how : Run} (h : s.AllAt i (Strand.Ended how)) (st : Strand) (killed : Bool) :
    (s.tellEnd i st killed).AllAt i (Strand.Ended how) := by
  unfold State.tellEnd
  dsimp only
  split
  · exact h
  · refine State.AllAt.onStrandAt (h.of_strands (proj_foldl State.strands _ _ _ fun _ _ => tellParts_strands ..)) fun _ hx => hx

theorem endStrand_ended (s : State) (i : Nat) (how : Run) : (s.endStrand i how).AllAt i (Strand.Ended how) := by
  unfold State.endStrand
  split
  · next hnone => exact fun e he hi => absurd hi (cfind_eq_none_iff.mp hnone e he)
  · dsimp only
    refine State.AllAt.of_strands (State.AllAt.tellEnd ?_ _ _) (barEnded_strands ..)
    refine State.AllAt.of_strands (allAt_onStrandAt fun _ => ?_) ((abandonReads_strands ..).trans (unqueue_strands ..))
    exact ⟨rfl, rfl, rfl⟩

/-- A team that leaves its core takes entries from the table of strands and adds none. -/
theorem removeTeam_strands (s : State) (tid : Nat) : (s.removeTeam tid).strands ⊆ s.strands := by
  unfold State.removeTeam
  extract_lets t mine s1 s2 s3 s4 s5 s6
  have h2 : s2.strands = s.strands := proj_foldl State.strands _ _ s1 fun u e => by
    split
    · rfl
    · refine eachBar_strands _ _ _ fun u lv n => ?_
      split <;> simp
  have h3 : s3.strands ⊆ s.strands := h2 ▸ fun e he => (List.mem_filter.mp he).1
  have h4 : s4.strands = s3.strands := State.onGang_strands ..
  have h5 : s5.strands = s4.strands := by
    simp only [s5]
    split <;> rfl
  have h6 : s6.strands = s5.strands := by
    simp only [s6]
    split
    · rfl
    · exact State.onLaunch_strands ..
  rw [settleSpills_strands, h6, h5, h4]
  exact h3

theorem reap_strands (s : State) (tid : Nat) : (s.reap tid).strands ⊆ s.strands := by
  unfold State.reap
  split
  · exact List.Subset.refl _
  · extract_lets t group s1
    have h1 : s1.strands ⊆ s.strands :=
      List.foldlRecOn group _ (motive := fun u => u.strands ⊆ s.strands) (List.Subset.refl _) fun u hu i _ =>
        List.Subset.trans (removeTeam_strands u i) hu
    split <;> exact h1

/-! ### EXIT (R79, R213) -/

theorem viewCore_solo {s : State} {st : Strand} (h : s.level st = 0) : s.viewCore st = (s.team st.team).core := by
  have hsolo : s.ropeLevel st < 2 := (show s.ropeLevel st = 0 from h) ▸ by decide
  simp [State.viewCore, hsolo]

/-- R163: what stores nothing forces nothing. -/
theorem forceForStore_nil (s : State) (i : Nat) : s.forceForStore i [] = .ok s := by
  have hnone (st : Strand) : st.readersOf [] = [] := by simp [Strand.readersOf]
  unfold State.forceForStore
  split
  · rw [hnone]
    exact ite_self _
  · rfl

section
variable {s : State} {st : Strand} (h : s.strand? = some st)
include h

/-- R79 step 1: EXIT waits for the operand log. -/
theorem exec_exit_waits (hlog : st.log ≠ []) : exec .exit s = .next (s.putStrand { st with wait := .logDrain }) := by
  refine (onCur_eq h _).trans (if_neg ?_)
  simpa using hlog

/-- R79 steps 2 to 4, R213: a SOLO strand with nothing in its operand log and nothing unanswered at peers releases, ends and is reaped. -/
theorem exec_exit_ends (hsolo : s.level st = 0) (hlog : st.log = []) (hack : s.Acked st) :
    exec .exit s = .next (((s.releaseBy st .pkg).endStrand s.cur .exited).reap st.team) := by
  have hacks : s.peersAcked (s.viewCore st) = true := (viewCore_solo hsolo).symm ▸ hack
  have hperform : s.perform s.cur .exit = .stop (((s.releaseBy st .pkg).endStrand s.cur .exited).reap st.team) := by
    have hnow : s.performNow s.cur .exit = .stop (((s.releaseBy st .pkg).endStrand s.cur .exited).reap st.team) := by
      simp only [State.performNow, State.performExit, strandAt_cur h]
    have hscope : s.releaseScope st .exit = some .pkg := rfl
    simp only [State.perform, strandAt_cur h, hscope, State.afterAcks, hacks, Bool.or_true, if_true, hnow]
  have hrun : s.runReq s.cur .exit = s.soloReq s.cur .exit := by
    simp only [State.runReq, strandAt_cur h, hsolo, if_true]
  have hforce : s.forceForStore s.cur (MemReq.parts .exit) = .ok s := forceForStore_nil ..
  refine (onCur_eq h _).trans ((if_pos (by rw [hlog]; rfl)).trans (congrArg _ ?_))
  rw [hrun, State.soloReq, hforce, withWork, hperform, settle]

end

/-- Settles O8: the strand is ended in the table, and the retirement of its team only takes entries from it. -/
theorem exitResults : Obligations.ExitResults := fun _ _ h =>
  ⟨exec_exit_waits h, fun hsolo hlog hack => ⟨_, exec_exit_ends h hsolo hlog hack, fun _ hst =>
    State.AllAt.strandAt ((endStrand_ended _ _ _).subset (reap_strands _ _)) hst⟩⟩

end Sys2Proof.Machine
end

section
/-!
SUPPORT. HALTC: what a halt leaves of the strands, the teams and the other cores (R94, R200, R232, R297).
-/
namespace Sys2Proof.Machine

/-- With unique keys an entry that is listed is found. -/
theorem cfind_of_mem {α : Type} {m : Cells α} {k : Nat} {v : α} (hn : (m.map Prod.fst).Nodup) (h : (k, v) ∈ m) : cfind m k = some v := by
  induction m with
  | nil => exact nomatch h
  | cons e l ih =>
    obtain ⟨a, w⟩ := e
    obtain ⟨hnew, hl⟩ := List.nodup_cons.mp hn
    rw [cfind_cons]
    obtain hhead | htail := List.mem_cons.mp h
    · cases hhead
      exact if_pos rfl
    · have hk : k ∈ l.map Prod.fst := List.mem_map_of_mem htail
      have hne : a ≠ k := fun he => hnew (he ▸ hk)
      exact (if_neg hne).trans (ih hl htail)

/-! ### What a halt leaves (R94, R190, R200, R256) -/

/-- The waits that a strand which stops begins afresh. -/
def freshWaits : List Wait := [.crit, .qpush, .qpop]

/-- What a halt of core `c` leaves: the table of teams, memory and the other cores as they are, and each strand as `State.KeepsOthers` says. -/
structure State.Rests (c : Nat) (s t : State) : Prop where
  cur : t.cur = s.cur
  mem : t.mem = s.mem
  teams : t.teams = s.teams
  cores : ∀ k, k ≠ c → cfind t.cores k = cfind s.cores k
  strands : ∀ k x, s.strandAt k = some x → ∃ y, t.strandAt k = some y
    ∧ y = { x with wait := y.wait, peerLines := y.peerLines, issued := y.issued, handled := y.handled }
    ∧ (x.wait ∉ freshWaits → y = { x with peerLines := y.peerLines })

/-- A change that leaves the strands alone, and the cores but `c`. -/
theorem State.Rests.of_strands {c : Nat} {s t : State} (hcur : t.cur = s.cur) (hmem : t.mem = s.mem) (hteams : t.teams = s.teams)
    (hcores : ∀ k, k ≠ c → cfind t.cores k = cfind s.cores k) (hstrands : t.strands = s.strands) : s.Rests c t where
  cur := hcur
  mem := hmem
  teams := hteams
  cores := hcores
  strands _ x hx := ⟨x, (congrArg (cfind · _) hstrands).trans hx, rfl, fun _ => rfl⟩

/-- A change of core `c` alone. -/
theorem rests_onCore (s : State) (c : Nat) (f : Core → Core) : s.Rests c (s.onCore c f) :=
  .of_strands rfl rfl rfl (fun _ hk => cfind_cput_ne _ _ hk) rfl

section
variable {c : Nat} {s t u : State}

theorem State.Rests.trans (h1 : s.Rests c t) (h2 : t.Rests c u) : s.Rests c u where
  cur := h2.cur.trans h1.cur
  mem := h2.mem.trans h1.mem
  teams := h2.teams.trans h1.teams
  cores k hk := (h2.cores k hk).trans (h1.cores k hk)
  strands k x hx := by
    obtain ⟨y, hy, hxy, hxy'⟩ := h1.strands k x hx
    obtain ⟨z, hz, hyz, hyz'⟩ := h2.strands k y hy
    refine ⟨z, hz, ?_, fun hw => ?_⟩
    · rw [hxy] at hyz
      exact hyz
    · have hy' := hxy' hw
      have hz' := hyz' (hy' ▸ hw)
      rw [hy'] at hz'
      exact hz'

theorem State.Rests.keepsOthers (h : s.Rests c t) : s.KeepsOthers t := fun k x _ hx => h.strands k x hx

theorem State.Rests.coreOf (h : s.Rests c t) (st : Strand) : t.coreOf st = s.coreOf st := by
  rw [State.coreOf, State.coreOf, State.team, State.team, h.teams]

end

/-! ### A strand that stops (R200) -/

/-- What a strand `x` is that stops, where it stood as `st`: a wait that begins afresh is forgotten, and so is what peers have delivered. -/
def Strand.stopped (st x : Strand) : Strand :=
  { (if st.wait == .crit || st.wait == .qpush || st.wait == .qpop then { x.unissue with wait := .none } else x) with peerLines := [] }

theorem stopped_eq (st x : Strand) : st.stopped x = { x with
    wait := (st.stopped x).wait, peerLines := [], issued := (st.stopped x).issued, handled := (st.stopped x).handled } := by
  unfold Strand.stopped
  split <;> rfl

theorem stopped_of_stays {st : Strand} (h : st.wait ∉ freshWaits) (x : Strand) : st.stopped x = { x with peerLines := [] } := by
  have hno : (st.wait == .crit || st.wait == .qpush || st.wait == .qpop) = false := by
    simpa [freshWaits, and_assoc] using h
  rw [Strand.stopped, hno]
  rfl

section
variable {c : Nat} {s u : State} (hu : s.Rests c u) {i : Nat} {st : Strand} (hst : s.strandAt i = some st)
include hu hst

theorem State.Rests.onStrandAt_stopped : s.Rests c (u.onStrandAt i st.stopped) := by
  obtain ⟨y, hy, hxy, hxy'⟩ := hu.strands i st hst
  have hput : u.onStrandAt i st.stopped = u.putStrandAt i (st.stopped y) := by
    unfold State.strandAt at hy
    rw [State.onStrandAt, hy]
  rw [hput]
  refine ⟨hu.cur, hu.mem, hu.teams, hu.cores, fun k x hx => ?_⟩
  rw [State.strandAt_putStrandAt]
  by_cases hk : k = i
  · obtain rfl : st = x := Option.some.inj (hst.symm.trans (hk ▸ hx))
    refine ⟨_, if_pos hk, ?_, fun hw => ?_⟩
    · rw [stopped_eq, hxy]
    · rw [stopped_of_stays hw, hxy' hw]
  · obtain ⟨z, hz⟩ := hu.strands k x hx
    exact ⟨z, (if_neg hk).trans hz.1, hz.2⟩

/-- R200: a strand of core `c` that stops. -/
theorem State.Rests.waitAfresh (hc : s.coreOf st = c) : s.Rests c (u.waitAfresh i st) := by
  unfold State.waitAfresh
  extract_lets queued s1 s2
  have h1 : s.Rests c s1 := by
    have hcrit : u.Rests c (u.leaveCritWait i st) := by
      unfold State.leaveCritWait
      split
      · exact .of_strands rfl rfl rfl (fun _ _ => rfl) rfl
      · exact (hu.coreOf st).trans hc ▸ rests_onCore u _ _
    refine (hu.trans hcrit).trans ?_
    unfold s1 State.abandonReads
    split <;> exact .of_strands rfl rfl rfl (fun _ _ => rfl) rfl
  have h2 : s.Rests c s2 := by
    unfold s2
    split
    · exact h1.trans (.of_strands (State.onGang_cur ..) (State.onGang_mem ..) (State.onGang_teams ..)
        (fun k _ => congrArg (cfind · k) (State.onGang_cores ..)) (State.onGang_strands ..))
    · exact h1
  exact h2.onStrandAt_stopped hst

end

/-! ### A core that halts (R94, R232) -/

section
variable {s : State} {c : Nat}

/-- R232: without a critical strand nothing defers a stop. -/
theorem critHolds_false (hcrit : ∀ e ∈ s.strands, e.2.crit = false) (t : Nat) : s.critHolds c t = false := by
  have hnone : s.strands.any (fun e => e.2.crit && s.coreOf e.2 == c && s.resident e.2) = false := by
    rw [List.any_eq_false]
    intro e he
    simp [hcrit e he]
  rw [State.critHolds, hnone, Bool.and_false]

theorem haltTry_none (h : (s.core c).haltAsked = none) : s.haltTry c = s := by
  rw [State.haltTry, h]

/-- R94, R200: a core whose stop nothing holds off halts; its strands stop. -/
theorem haltTry_halts (hcrit : ∀ e ∈ s.strands, e.2.crit = false) (hfin : ∀ e ∈ s.strands, s.finishing e.1 e.2 = false)
    (hn : (s.strands.map Prod.fst).Nodup) (hask : (s.core c).haltAsked ≠ none) :
    s.Rests c (s.haltTry c) ∧ ((s.haltTry c).core c).halted = true := by
  obtain ⟨t, ht⟩ := Option.ne_none_iff_exists'.mp hask
  have hbusy : s.strands.any (fun e => s.coreOf e.2 == c && s.finishing e.1 e.2) = false := by
    rw [List.any_eq_false]
    intro e he
    simp [hfin e he]
  rw [State.haltTry, ht]
  dsimp only
  rw [critHolds_false hcrit, hbusy, if_neg (by decide)]
  refine ⟨State.Rests.trans (List.foldlRecOn _ _ (motive := s.Rests c) ?_ fun u hu e he => ?_) (rests_onCore ..), ?_⟩
  · exact .of_strands rfl rfl rfl (fun _ _ => rfl) rfl
  · obtain ⟨hmem, hc⟩ := List.mem_filter.mp he
    rw [Bool.and_eq_true, beq_iff_eq] at hc
    exact hu.waitAfresh (cfind_of_mem hn hmem) hc.1
  · rw [State.core_onCore, if_pos rfl]

/-- R94: a stop asked of a core changes nothing but that core. -/
theorem haltAsk_rests (s : State) (c : Nat) : s.Rests c (s.haltAsk c) := rests_onCore ..

theorem haltAsk_halted (s : State) (c k : Nat) : ((s.haltAsk c).core k).halted = (s.core k).halted := by
  rw [State.haltAsk, State.core_onCore]
  split
  · next hk =>
    subst hk
    split <;> rfl
  · rfl

theorem haltAsk_finishing (s : State) (c i : Nat) (st : Strand) : (s.haltAsk c).finishing i st = s.finishing i st := by
  have hres : (s.haltAsk c).resident st = s.resident st := by
    rw [State.resident, haltAsk_halted]
    rfl
  rw [State.finishing, hres]
  rfl

/-- R94: a core that has been asked to stop is halted, or the request stands. -/
theorem haltAsk_asked (s : State) (c : Nat) : ((s.haltAsk c).core c).halted = true ∨ ((s.haltAsk c).core c).haltAsked ≠ none := by
  rw [State.haltAsk, State.core_onCore, if_pos rfl]
  split
  · next h => simpa [Option.isSome_iff_ne_none] using h
  · exact .inr nofun

/-- R94: HALTC's core halts at once where nothing holds the stop off. -/
theorem haltAsk_haltTry (hcrit : ∀ e ∈ s.strands, e.2.crit = false ∧ s.finishing e.1 e.2 = false) (hn : (s.strands.map Prod.fst).Nodup) :
    s.Rests c ((s.haltAsk c).haltTry c) ∧ (((s.haltAsk c).haltTry c).core c).halted = true := by
  by_cases hask : ((s.haltAsk c).core c).haltAsked = none
  · rw [haltTry_none hask]
    exact ⟨haltAsk_rests s c, (haltAsk_asked s c).resolve_right (not_not_intro hask)⟩
  · obtain ⟨hrests, hhalted⟩ := haltTry_halts (s := s.haltAsk c) (c := c) (fun e he => (hcrit e he).1)
      (fun e he => (haltAsk_finishing ..).trans (hcrit e he).2) hn hask
    exact ⟨(haltAsk_rests s c).trans hrests, hhalted⟩

end

/-! ### HALTC (R94, R297) -/

/-- R57, R296: a privileged instruction of a privileged strand. -/
theorem privileged_eq {s : State} {st : Strand} (h : s.strand? = some st) (hp : s.privileged st = true) (f : Strand → Out) :
    Machine.privileged s f = f st := (onCur_eq h _).trans (if_pos hp)

/-- R289: a shadow or second leaves to its leader what the leader performs alone (log 23). -/
theorem leaderActs_other {s : State} {st : Strand} (hr : st.replica ≠ 0) (k : Out) : leaderActs s st k = .next (s.done st 0) := by
  rw [leaderActs, if_pos (by simpa using hr), finish_zero]

theorem leaderActs_leader {s : State} {st : Strand} (hr : st.replica = 0) (k : Out) : leaderActs s st k = k := by
  rw [leaderActs, if_neg (by simpa using hr)]

/-- R94, R297: the operands and target partition with which HALTC halts a core. -/
def State.MayHalt (s : State) (p v : Nat) : Prop :=
  let q := s.target p
  v < 2 ^ 11 ∧ q ≠ p ∧ granules (s.part q).pcfg ≠ 0 ∧ bitAt (granules (s.part q).pcfg) (v / 128) = true

theorem haltc_check (s : State) (p v : Nat) :
    (v / 2 ^ 11 != 0 || s.target p = p || !(s.configured (s.target p)) || !(holdsGranule (s.part (s.target p)).pcfg (granuleOf v))) = true
      ↔ ¬ s.MayHalt p v := by
  have hsmall : v / 2 ^ 11 = 0 ↔ v < 2 ^ 11 := Nat.div_eq_zero_iff_lt (by decide)
  simp only [State.MayHalt, State.configured, holdsGranule, granuleOf, ← hsmall, Bool.or_eq_true, bne_iff_ne, decide_eq_true_eq,
    Bool.not_eq_true', bne_eq_false_iff_eq]
  grind

section
variable {s : State} {st : Strand} (h : s.strand? = some st) (hp : s.privileged st = true) (a : Nat)
include h hp

theorem exec_haltc_waiting (hw : st.wait = .halt) (hh : (s.core (st.getS a).toNat).halted = true)
    (hask : (s.core (st.getS a).toNat).haltAsked = none) : exec (.haltc a) s = .next (s.done st 0) := by
  refine (privileged_eq h hp _).trans ?_
  simp only [hw, beq_self_eq_true, if_true, haltTry_none hask, hh, Bool.true_or, finish_zero]

theorem exec_haltc_illegal (hw : st.wait ≠ .halt) (hno : ¬ s.MayHalt (s.launchOf st).part (st.getS a).toNat) :
    exec (.haltc a) s = illegal s st 0 := by
  refine (privileged_eq h hp _).trans ?_
  dsimp only
  rw [if_neg (by simpa using hw), if_pos ((haltc_check ..).mpr hno)]

theorem exec_haltc_other (hw : st.wait ≠ .halt) (hok : s.MayHalt (s.launchOf st).part (st.getS a).toNat) (hr : st.replica ≠ 0) :
    exec (.haltc a) s = .next (s.done st 0) := by
  refine (privileged_eq h hp _).trans ?_
  dsimp only
  rw [if_neg (by simpa using hw), if_neg (mt (haltc_check ..).mp (not_not_intro hok)), leaderActs_other hr]

theorem exec_haltc_halts (hw : st.wait ≠ .halt) (hok : s.MayHalt (s.launchOf st).part (st.getS a).toNat) (hr : st.replica = 0)
    (hh : (((s.haltAsk (st.getS a).toNat).haltTry (st.getS a).toNat).core (st.getS a).toNat).halted = true) :
    exec (.haltc a) s = .next (((s.haltAsk (st.getS a).toNat).haltTry (st.getS a).toNat).done st 0) := by
  refine (privileged_eq h hp _).trans ?_
  dsimp only
  rw [if_neg (by simpa using hw), if_neg (mt (haltc_check ..).mp (not_not_intro hok)), leaderActs_leader hr, hh, if_pos rfl, finish_zero]

end

/-- A completion after a halt of core `c`. -/
theorem State.Rests.done {c : Nat} {s t : State} (h : s.Rests c t) (st : Strand) :
    (∀ k, k ≠ c → cfind (t.done st 0).cores k = cfind s.cores k) ∧ (t.done st 0).strand? = (s.done st 0).strand? ∧ s.KeepsOthers (t.done st 0)
      ∧ s.SameMemory (t.done st 0) := by
  refine ⟨h.cores, (done_strand ..).trans (done_strand ..).symm, fun k x hk hx => ?_, fun a => congrArg (readByte · a) h.mem⟩
  obtain ⟨y, hy, hxy⟩ := h.strands k x hx
  exact ⟨y, (State.strandAt_putStrand_ne _ _ (h.cur ▸ hk)).trans hy, hxy⟩

/-- Settles O15: the check of the operands, then a halt that nothing holds off. -/
theorem haltResults : Obligations.HaltResults := by
  intro s st a h hp v p q ok
  refine ⟨exec_haltc_waiting h hp a, fun hw hok hr hidle hn => ?halts,
    fun hw hok hr => exec_haltc_other h hp a hw hok hr,
    fun hw hno hc => (exec_haltc_illegal h hp a hw hno).trans (illegal_enters h hc 0)⟩
  case halts =>
    obtain ⟨hrests, hhalted⟩ := haltAsk_haltTry (c := v) hidle hn
    exact ⟨_, exec_haltc_halts h hp a hw hok hr hhalted, hhalted, hrests.done st⟩

end Sys2Proof.Machine
end

section
/-!
SUPPORT. TLBINV: what an eviction leaves of the TLBs and of the virtual lines that the L1s hold (R96, R206, R226, R234).
-/
namespace Sys2Proof.Machine

/-! ### Lines only leave -/

/-- From `s` to `t` the cluster TLBs stay, and no L1 holds a line under an ASID and a virtual line that it did not hold before. -/
structure State.LinesLeave (s t : State) : Prop where
  tlb : ∀ k, (t.cluster k).tlb = (s.cluster k).tlb
  l1 : ∀ c, ∀ x ∈ (t.core c).l1, ∃ y ∈ (s.core c).l1, y.asid = x.asid ∧ y.vline = x.vline

/-- The L1 of core `c` does not hold a virtual line of an address space. -/
def State.NoLine (c asid vline : Nat) (s : State) : Prop := ∀ x ∈ (s.core c).l1, ¬ (x.asid = asid ∧ x.vline = vline)

section
variable {s t u : State}

theorem State.LinesLeave.of_eq (hclusters : t.clusters = s.clusters) (hcores : t.cores = s.cores) : s.LinesLeave t where
  tlb k := by rw [State.cluster, State.cluster, hclusters]
  l1 c x hx := ⟨x, by rwa [State.core, hcores] at hx, rfl, rfl⟩

theorem State.LinesLeave.refl (s : State) : s.LinesLeave s := .of_eq rfl rfl

theorem State.LinesLeave.trans (h1 : s.LinesLeave t) (h2 : t.LinesLeave u) : s.LinesLeave u where
  tlb k := (h2.tlb k).trans (h1.tlb k)
  l1 c x hx := by
    obtain ⟨y, hy, ha, hv⟩ := h2.l1 c x hx
    obtain ⟨z, hz, ha', hv'⟩ := h1.l1 c y hy
    exact ⟨z, hz, ha'.trans ha, hv'.trans hv⟩

theorem State.LinesLeave.noLine {c asid vline : Nat} (h : s.LinesLeave t) (hs : s.NoLine c asid vline) : t.NoLine c asid vline := by
  intro x hx hxa
  obtain ⟨y, hy, ha, hv⟩ := h.l1 c x hx
  exact hs y hy ⟨ha.trans hxa.1, hv.trans hxa.2⟩

theorem State.LinesLeave.foldl {β : Type} (f : State → β → State) (l : List β) (hf : ∀ (t : State) b, t.LinesLeave (f t b)) (s : State) :
    s.LinesLeave (l.foldl f s) :=
  List.foldlRecOn l f (motive := s.LinesLeave) (.refl s) fun t ht b _ => ht.trans (hf t b)

/-- A change of clusters that keeps their TLBs. -/
theorem State.LinesLeave.cmap_clusters (s : State) {f : Nat → Cluster → Cluster} (hf : ∀ k x, (f k x).tlb = x.tlb) :
    s.LinesLeave { s with clusters := cmap f s.clusters } where
  tlb k := by
    simp only [State.cluster, cfind_cmap]
    cases cfind s.clusters k with
    | none => rfl
    | some x => exact hf k x
  l1 _ x hx := ⟨x, hx, rfl, rfl⟩

theorem State.LinesLeave.onCluster (s : State) (k : Nat) {f : Cluster → Cluster} (hf : ∀ x, (f x).tlb = x.tlb) :
    s.LinesLeave (s.onCluster k f) where
  tlb j := by
    rw [State.cluster_onCluster]
    split
    · next hj => exact hj ▸ hf _
    · rfl
  l1 _ x hx := ⟨x, hx, rfl, rfl⟩

/-- A change of cores that brings no other virtual line. -/
theorem State.LinesLeave.cmap_cores (s : State) {f : Nat → Core → Core}
    (hf : ∀ c x, ∀ l ∈ (f c x).l1, ∃ y ∈ x.l1, y.asid = l.asid ∧ y.vline = l.vline) : s.LinesLeave { s with cores := cmap f s.cores } where
  tlb _ := rfl
  l1 c l hl := by
    simp only [State.core, cfind_cmap] at hl ⊢
    cases hc : cfind s.cores c with
    | none =>
      rw [hc] at hl
      exact nomatch hl
    | some x =>
      rw [hc] at hl
      exact hf c x l hl

theorem State.LinesLeave.onCore (s : State) (c : Nat) {f : Core → Core}
    (hf : ∀ x, ∀ l ∈ (f x).l1, ∃ y ∈ x.l1, y.asid = l.asid ∧ y.vline = l.vline) : s.LinesLeave (s.onCore c f) where
  tlb _ := rfl
  l1 k l hl := by
    rw [State.core_onCore] at hl
    split at hl
    · next hk => exact hk ▸ hf _ l hl
    · exact ⟨l, hl, rfl, rfl⟩

end

/-! ### Lines changed word by word keep their names -/

/-- A line among others that are changed word by word, and not renamed. -/
theorem exists_line_of_mem_map {f : L1Line → L1Line} (hf : ∀ l, (f l).asid = l.asid ∧ (f l).vline = l.vline) {m : List L1Line} {x : L1Line}
    (hx : x ∈ m.map f) : ∃ y ∈ m, y.asid = x.asid ∧ y.vline = x.vline := by
  obtain ⟨y, hy, rfl⟩ := List.mem_map.mp hx
  exact ⟨y, hy, (hf y).1.symm, (hf y).2.symm⟩

theorem disown_names (l : L1Line) (w : Nat) : (l.disown w).asid = l.asid ∧ (l.disown w).vline = l.vline := by
  unfold L1Line.disown
  split
  · split
    · split <;> exact ⟨rfl, rfl⟩
    · exact ⟨rfl, rfl⟩
  · exact ⟨rfl, rfl⟩

theorem renew_names (l : L1Line) (w : Nat) (data : Word) (bad : Bool) :
    (l.renew w data bad).asid = l.asid ∧ (l.renew w data bad).vline = l.vline := by
  unfold L1Line.renew
  split <;> exact ⟨rfl, rfl⟩

/-! ### The operations of an eviction (R206, R213, R215, R226, R234, R330) -/

section
variable (s : State)

theorem disownBut_lines (spared : Nat → Bool) (w : Nat) : s.LinesLeave (s.disownBut spared w) := by
  refine .cmap_cores s fun c x l hl => ?_
  split at hl
  · exact ⟨l, hl, rfl, rfl⟩
  · exact exists_line_of_mem_map (fun y => disown_names y w) hl

theorem revoke_lines (spared : Nat → Bool) (k w : Nat) : s.LinesLeave (s.revoke spared k w) := by
  refine (disownBut_lines s spared w).trans (.cmap_clusters _ fun c x => ?_)
  split <;> rfl

theorem refreshL2_lines (k w : Nat) : s.LinesLeave (s.refreshL2 k w) := by
  unfold State.refreshL2
  split
  · refine .onCluster s k fun x => ?_
    split <;> rfl
  · exact .refl s

theorem homeLine_lines (line : Nat) (mask : BitVec 128) (words : Nat → Word) : s.LinesLeave (s.homeLine line mask words) := .of_eq rfl rfl

theorem atHome_lines (spared : Nat → Bool) (k line : Nat) (mask : BitVec 128) (words : Nat → Word) (bad : List Nat) :
    s.LinesLeave (s.atHome spared k line mask words bad) := by
  have hrevoke := State.LinesLeave.foldl (fun (t : State) w => t.revoke spared k w) ((maskWords mask).map (32 * line + ·))
    (revoke_lines · spared k) s
  refine (hrevoke.trans ?_).trans (.foldl _ _ (fun t w => refreshL2_lines t k w) _)
  exact .of_eq rfl rfl

theorem combine_lines (line : Nat) : s.LinesLeave (s.combine line) := by
  unfold State.combine
  split
  · exact .refl s
  · extract_lets s1
    have h1 : s.LinesLeave s1 := by
      refine .foldl _ _ (fun t c => .foldl _ _ (fun t l => ?_) t) s
      split
      · refine .foldl _ _ (fun t e => ?_) t
        split
        · exact (homeLine_lines t ..).trans (revoke_lines ..)
        · exact .refl t
      · exact .refl t
    have h2 := State.LinesLeave.cmap_cores s1 (f := fun _ x => { x with l1 := x.l1.filter (fun l => !(isLine l line && hasUpdate l)) })
      fun _ _ l hl => ⟨l, (List.mem_filter.mp hl).1, rfl, rfl⟩
    refine (h1.trans h2).trans (.cmap_clusters _ fun _ _ => ?_)
    rfl

theorem renewOwned_lines (k w : Nat) : s.LinesLeave (s.renewOwned k w) := by
  refine .cmap_cores s fun c x l hl => ?_
  split at hl
  · exact exists_line_of_mem_map (fun y => renew_names y ..) hl
  · exact ⟨l, hl, rfl, rfl⟩

theorem l2WriteHome_lines (k : Nat) (sel : Nat → Bool) : s.LinesLeave (s.l2WriteHome k sel) := by
  refine .foldl _ _ (fun t e => ?_) s
  dsimp only
  split
  · exact .refl t
  · exact ((combine_lines t _).trans (atHome_lines ..)).trans
      (.foldl _ _ (fun u x => (refreshL2_lines u ..).trans (renewOwned_lines ..)) _)

theorem sendLine_lines (core home : Nat) (l : L1Line) (scope : Scope) : s.LinesLeave (s.sendLine core home l scope) := by
  refine .foldl _ _ (fun t lid => ?_) s
  exact .of_eq rfl rfl

theorem writeLineHome_lines (core : Nat) (l : L1Line) (scope : Scope) : s.LinesLeave (s.writeLineHome core l scope) := by
  unfold State.writeLineHome
  dsimp only
  split
  · exact .refl s
  · split
    · exact sendLine_lines ..
    · exact ((combine_lines s _).trans (l2WriteHome_lines ..)).trans (atHome_lines ..)

theorem dropLine_lines (core asid vline : Nat) : s.LinesLeave (s.dropLine core asid vline) :=
  .onCore s core fun _ l hl => ⟨l, (List.mem_filter.mp hl).1, rfl, rfl⟩

theorem dropLine_noLine (core asid vline : Nat) : (s.dropLine core asid vline).NoLine core asid vline := by
  intro x hx
  rw [State.dropLine, State.core_onCore, if_pos rfl] at hx
  exact Classical.not_and_iff_not_or_not.mpr (by simpa using (List.mem_filter.mp hx).2)

theorem evict_lines (core asid vline : Nat) : s.LinesLeave (s.evict core asid vline) := by
  unfold State.evict
  split
  · exact .refl s
  · refine State.LinesLeave.trans ?_ (dropLine_lines ..)
    split
    · exact combine_lines ..
    · exact writeLineHome_lines ..

/-- R206: an evicted line stands in the L1 no more. -/
theorem evict_noLine (core asid vline : Nat) : (s.evict core asid vline).NoLine core asid vline := by
  unfold State.evict
  split
  · next hnone =>
    intro x hx
    simpa using List.find?_eq_none.mp hnone x hx
  · exact dropLine_noLine _ _ _ _

end

/-! ### TLBINV (R96) -/

/-- R96: whether a TLB entry is of what TLBINV names. -/
def State.tlbinvEntry (s : State) (asid : Nat) (b : DWord) (e : Nat × Nat) : Bool :=
  e.1 == asid && (b == 0xFFFFFFFFFFFFFFFF || (s.pages.filter (tlbinvPage asid b)).any (fun p => p.base == e.2))

/-- R96: TLBINV's first part: the entries leave the TLBs, and running launches lose their pages. -/
def State.tlbinvEntries (s : State) (asid : Nat) (b : DWord) : State :=
  { s with
    clusters := cmap (fun _ k => { k with tlb := k.tlb.filter (fun e => !(s.tlbinvEntry asid b e)) }) s.clusters
    launches := cmap (fun _ l => if l.asid == asid && l.started.isSome then
      { l with dropped := (l.dropped ++ (s.clusters.flatMap (fun k => k.2.tlb.filter (s.tlbinvEntry asid b))).eraseDups).eraseDups }
      else l) s.launches }

/-- R96: TLBINV's second part, line by line. -/
def tlbinvLine (asid : Nat) (pages : List Page) (core : Nat) (t : State) (l : L1Line) : State :=
  if l.asid == asid && pages.any (fun p => decide (p.base ≤ 128 * l.vline) && decide (128 * l.vline < p.base + p.size))
  then t.evict core asid l.vline else t

theorem tlbinv_eq (s : State) (asid : Nat) (b : DWord) : s.tlbinv asid b =
    s.cores.foldl (fun t c => c.2.l1.foldl (tlbinvLine asid (s.pages.filter (tlbinvPage asid b)) c.1) t) (s.tlbinvEntries asid b) := rfl

theorem tlbinvLine_lines (asid : Nat) (pages : List Page) (core : Nat) (t : State) (l : L1Line) : t.LinesLeave (tlbinvLine asid pages core t l) := by
  unfold tlbinvLine
  split
  · exact evict_lines ..
  · exact .refl t

/-- What one element's step of a fold gives, and every step keeps, holds after the fold. -/
theorem foldl_reaches {α β : Type} {f : α → β → α} {p : α → Prop} {l : List β} {b : β} (hb : b ∈ l) (hstep : ∀ a, p (f a b))
    (hkeep : ∀ a c, p a → p (f a c)) (a : α) : p (l.foldl f a) := by
  obtain ⟨l1, l2, rfl⟩ := List.append_of_mem hb
  rw [List.foldl_append, List.foldl_cons]
  exact List.foldlRecOn l2 f (hstep _) fun a ha c _ => hkeep a c ha

section
variable (s : State) (asid : Nat) (b : DWord)

theorem tlbinv_lines : (s.tlbinvEntries asid b).LinesLeave (s.tlbinv asid b) :=
  .foldl _ _ (fun t (c : Nat × Core) => .foldl _ c.2.l1 (tlbinvLine_lines asid _ c.1) t) _

theorem tlbinv_tlb (k : Nat) : ((s.tlbinv asid b).cluster k).tlb = (s.cluster k).tlb.filter (fun e => !(s.tlbinvEntry asid b e)) := by
  rw [(tlbinv_lines s asid b).tlb, State.tlbinvEntries]
  simp only [State.cluster, cfind_cmap]
  cases cfind s.clusters k <;> rfl

/-- R96: a virtual line in a page that TLBINV names stands in no L1 afterwards. -/
theorem tlbinv_noLine {c vline : Nat} {p : Page} (hp : p ∈ s.pages) (hname : tlbinvPage asid b p = true)
    (hin : p.base ≤ 128 * vline ∧ 128 * vline < p.base + p.size) : (s.tlbinv asid b).NoLine c asid vline := by
  intro x hx hxa
  obtain ⟨y, hy, ha, hv⟩ := (tlbinv_lines s asid b).l1 c x hx
  have hcore : ∃ k, (c, k) ∈ s.cores ∧ y ∈ k.l1 := by
    change y ∈ (s.core c).l1 at hy
    unfold State.core at hy
    cases hc : cfind s.cores c with
    | none => 
      rw [hc] at hy
      exact nomatch hy
    | some k => exact ⟨k, mem_of_cfind hc, by rwa [hc] at hy⟩
  obtain ⟨k, hk, hyk⟩ := hcore
  have hnamed : (y.asid == asid && (s.pages.filter (tlbinvPage asid b)).any (fun p => decide (p.base ≤ 128 * y.vline)
      && decide (128 * y.vline < p.base + p.size))) = true := by
    rw [Bool.and_eq_true, beq_iff_eq, List.any_eq_true]
    refine ⟨ha.trans hxa.1, p, List.mem_filter.mpr ⟨hp, hname⟩, ?_⟩
    rw [hv, hxa.2]
    simpa using hin
  have hgone : (s.tlbinv asid b).NoLine c asid y.vline := by
    refine foldl_reaches (p := State.NoLine c asid y.vline) hk (fun t => ?_)
      (fun t e ht => (State.LinesLeave.foldl _ _ (tlbinvLine_lines asid _ e.1) t).noLine ht) _
    refine foldl_reaches (p := State.NoLine c asid y.vline) hyk (fun t => ?_) (fun t l ht => (tlbinvLine_lines ..).noLine ht) t
    rw [tlbinvLine, if_pos hnamed]
    exact evict_noLine _ _ _ _
  exact hgone x hx ⟨hxa.1, hv.symm⟩

end

theorem allOnes_iff (b : DWord) : b = 18446744073709551615#64 ↔ b.toNat = 18446744073709551615 := BitVec.toNat_eq

theorem tlbinvPage_iff (asid : Nat) (b : DWord) (p : Page) :
    tlbinvPage asid b p = true ↔ p.asid = asid ∧ (b.toNat = 2 ^ 64 - 1 ∨ p.base ≤ b.toNat ∧ b.toNat < p.base + p.size) := by
  simp [tlbinvPage, allOnes_iff]

theorem tlbinvEntry_iff (s : State) (asid : Nat) (b : DWord) (e : Nat × Nat) : s.tlbinvEntry asid b e = true ↔
    e.1 = asid ∧ (b.toNat = 2 ^ 64 - 1 ∨ ∃ p, (p ∈ s.pages ∧ tlbinvPage asid b p = true) ∧ p.base = e.2) := by
  simp [State.tlbinvEntry, allOnes_iff, and_assoc]

section
variable {s : State} {st : Strand} (h : s.strand? = some st) (hp : s.privileged st = true) (a b : Nat)
include h hp

theorem exec_tlbinv_acts (hasid : (st.getS a).toNat < 2 ^ 16) :
    exec (.tlbinv a b) s = leaderActs s st (finish (s.tlbinv (st.getS a).toNat (st.getS b)) st 0) := by
  have hhigh : (st.getS a).toNat / 2 ^ 16 = 0 := Nat.div_eq_of_lt hasid
  refine (privileged_eq h hp _).trans ?_
  dsimp only
  rw [hhigh, if_neg (by decide)]

theorem exec_tlbinv_illegal (hasid : 2 ^ 16 ≤ (st.getS a).toNat) : exec (.tlbinv a b) s = illegal s st 0 := by
  refine (privileged_eq h hp _).trans (if_pos ?_)
  rw [bne_iff_ne]
  omega

end

/-- Settles O17: the entries that leave the TLBs are those named, and each line of a named page is evicted and does not come back. -/
theorem translationInvalidation : Obligations.TranslationInvalidation := by
  intro s st a b h hp asid
  refine ⟨fun hasid hr => (exec_tlbinv_acts h hp a b hasid).trans (leaderActs_other hr _), fun hasid hr => ?acts,
    fun hasid hc => (exec_tlbinv_illegal h hp a b hasid).trans (illegal_enters h hc 0)⟩
  case acts =>
    intro v named entry
    have hnamed (p : Page) : named p ↔ p ∈ s.pages ∧ tlbinvPage asid (st.getS b) p = true := and_congr_right fun _ => (tlbinvPage_iff ..).symm
    have hentry (e : Nat × Nat) : entry e ↔ s.tlbinvEntry asid (st.getS b) e = true := by
      simp only [entry, hnamed, tlbinvEntry_iff, v]
    have htlb (k : Nat) (e : Nat × Nat) :
        e ∈ (((s.tlbinv asid (st.getS b)).done st 0).cluster k).tlb ↔ e ∈ (s.cluster k).tlb ∧ ¬ entry e := by
      change e ∈ ((s.tlbinv asid (st.getS b)).cluster k).tlb ↔ _
      rw [tlbinv_tlb, List.mem_filter, hentry, Bool.not_eq_true', Bool.not_eq_true]
    refine ⟨_, ((exec_tlbinv_acts h hp a b hasid).trans (leaderActs_leader hr _)).trans (finish_zero ..),
      (done_strand ..).trans (done_strand ..).symm, fun k e he => ((htlb k e).mp he).2, fun k e he hno => (htlb k e).mpr ⟨he, hno⟩,
      fun c x hx hxa p hp hin => ?_⟩
    exact tlbinv_noLine s asid (st.getS b) ((hnamed p).mp hp).1 ((hnamed p).mp hp).2 hin x hx ⟨hxa, rfl⟩

end Sys2Proof.Machine
end

section
/-!
SUPPORT. A refutation: reads that a halting strand abandons go on under key 0, and hold off a strand of that key (R95, R200, R298, R323).
-/
namespace Sys2Proof.Machine

/-- Two strands, of keys 0 and 1, of two teams on cores 0 and 1 of partition 0, whose incoming context is loaded. Strand 1 has asked a peer for a
line that it does not wait for. -/
def stateReadingAhead : State :=
  { State.reset with
    strands := [(0, Strand.start 2 0 0 false 0 Header.none), (1, Strand.start 1 0 0 false 0 Header.none)]
    teams := [(1, Team.none), (2, { Team.none with core := 1 })]
    parts := [(0, { Partition.none with pcfg := 0x1000000000000, loaded := true })]
    fabric := { Fabric.reset with outstanding := [(0, { peerPost (some 0) 0
      { src := 0, tag := 0, asid := 0, secure := false, op := .read, scope := .pkg, line := 0, mask := 0, words := [], expected := [], places := []
        poison := 0 } 1 0 with strand := 1 })] } }

/-- Core 0 halts first, and strand 1's read is dropped to key 0 with an event to report; strand 0 then counts as one that has still to finish. -/
theorem stateReadingAhead_finishing :
    let t := (stateReadingAhead.haltAsk 0).haltTry 0
    stateReadingAhead.finishing 0 (Strand.start 2 0 0 false 0 Header.none) = false ∧ (t.core 0).halted = true
      ∧ t.finishing 0 (Strand.start 2 0 0 false 0 Header.none) = true := by decide

/-- Refutes O16: strand 0 has nothing to finish, but the read that strand 1 has dropped holds it off, and the pre-emption waits with the planes
as they were. The module starts no strand at key 0, which stands for none, but the statement does not exclude it. -/
theorem not_contextExchange : ¬ Obligations.ContextExchange := by
  intro h
  obtain ⟨t, ht, hplane, -⟩ := h.2 stateReadingAhead 0 _ rfl (by decide) rfl (by decide) (by decide)
  obtain rfl := Host.Outcome.next.inj ht
  exact absurd hplane (by decide)

end Sys2Proof.Machine
end
